-- ==== Sys2Proof/Syntax.lean ====
section
/-! DEFINITION. The commands of the block: one constructor for each row of spec/opcode_table.json, in the table's order.
The table gives no operand fields; the operands below are what tells apart the occurrences of a row (a core, an engine,
a queue, a register's offset, a measured value). -/

namespace Sys2Proof

/-- A host read of R320, as COMMAND_FETCH_TIMEOUT names it. -/
inductive HostRead where
  | fetch (f q : Nat)       -- the fetch of the next entry of a submission queue
  | sample (pipe : Nat)     -- a Pegbox bitstream read of the sample a pipe holds
  | command (n : Nat)       -- any other host read, of the accepted command numbered n
  | firmware (n code : Nat) -- no host read: the control firmware fails on the accepted command numbered n (R339), with its code
  deriving DecidableEq, Repr

/-- What a function-level reset names (R341). -/
inductive ResetTarget where
  | pf0
  | pf1
  | vf (k : Nat)            -- virtual function k, 1 to 16
  | vfEnableCleared         -- the host clears VF Enable
  deriving DecidableEq, Repr

/-- An algorithm that NEGOTIATE_ALGORITHMS offers: one of R442, or another. -/
inductive SpdmAlg where
  | sm2Signature | sm3Hash | sm2KeyExchange | sm4Gcm | sm3Measurement | other
  deriving DecidableEq, Repr

/-- An IDE key-programming message for a stream, 0 CXL.io or 1 CXL.cachemem (R443). -/
inductive IdeMessage where
  | program (containment : Bool) (key : List (BitVec 8))   -- a key is programmed, for containment mode or another
  | setGo                                                  -- KEY_SET_GO
  | setStop                                                -- KEY_SET_STOP
  deriving DecidableEq, Repr

/-- A message on the sideband (R463). -/
inductive Sideband where
  | assign (addr : Nat)                           -- an I3C controller assigns a dynamic address
  | mctp (addr : Nat) (message : List (BitVec 8)) -- an MCTP message to an address
  deriving DecidableEq, Repr

/-- The SPDM requests of R442 that act on the device. -/
inductive Spdm where
  | version | capabilities | digests
  | algorithms (offered : List SpdmAlg)
  | certificate (slot : Nat)
  | challenge
  | measurements (signed : Bool)
  | keyExchange
  | finish (ok : Bool)
  | endSession
  | keyUpdate | heartbeat
  | ideKey (stream : Nat) (message : IdeMessage)   -- VENDOR_DEFINED for IDE key programming
  | malformed                            -- any request that R442 does not list
  deriving DecidableEq, Repr

/-- Where a parity error of R84 is found. -/
inductive ParityKind where
  | operand | accumulator | drain | longSum
  deriving DecidableEq, Repr

/-- The outcome of a scrub read (R239, R242). -/
inductive ScrubResult where
  | clean | onDie | corrected | linkRetry | uncorrectable
  deriving DecidableEq, Repr

/-- What a memory controller has met at its next scrub read (R239, R242): the corrections of the demand reads of its memory since the
last one that no other row's operand gave, and the scrub read's own outcome. -/
structure ScrubOutcome where
  demand : List ScrubResult := []
  scrub : ScrubResult := .clean
  deriving DecidableEq, Repr

/-- What the vault meets at a codeword that it reads (R406, R409). -/
inductive NandRead where
  | decoded (bits : Nat)    -- LDPC corrects so many bit errors
  | retried                 -- a read-voltage offset corrects it
  | uncorrectable           -- no offset corrects it
  deriving DecidableEq, Repr

/-- A command that reads the vault: its acceptance number, and the codewords, by vault offset divided by 4 KiB, at which the read
meets more than LDPC corrects at once. -/
structure VaultRead where
  n : Nat
  met : List (Nat × NandRead) := []
  deriving DecidableEq, Repr

/-- A command that writes the vault: its acceptance number, and how many blocks, one after another, fail the erase that comes before
the write of its first fresh segment (R407). -/
structure VaultWrite where
  n : Nat
  eraseFails : Nat := 0
  deriving DecidableEq, Repr

/-- The page that a drain has written, and the erase failures before it, as in `VaultWrite`. -/
structure DrainPage where
  page : Nat
  eraseFails : Nat := 0
  deriving DecidableEq, Repr

/-- What the vault's patrol meets: the codeword's read, and the erase failures before the rewriting of its segment. -/
structure NandScrub where
  read : NandRead := .decoded 0
  eraseFails : Nat := 0
  deriving DecidableEq, Repr

/-- A memory controller: HBM3E stack 0 to 11, or LPDDR5X interface 0 to 15. -/
inductive MemCtl where
  | hbm (s : Nat)
  | lp (i : Nat)
  deriving DecidableEq, Repr

/-- The pictures that a standard decoder yields from a bitstream (R279): one size, depth and chroma format (0 one component,
1 4:2:0, 2 4:2:2, 3 4:4:4), whether its components are X'Y'Z' or R'G'B' (R283), and for each frame the codes of its planes, one
plane after another, in raster order. -/
structure Pictures where
  w : Nat
  h : Nat
  depth : Nat
  chroma : Nat
  rgb : Bool := false
  frames : List (List Nat)
  deriving DecidableEq, Repr

/-- What a pipe finds in a sample (R280, R283, R290). -/
inductive DecodeResult where
  | bitstream                     -- a bitstream error (reason 1)
  | unsupported                   -- the sample uses what the codec does not support (reason 2)
  | decoded (p : Pictures)        -- the pictures; of uncompressed video and raw records, the block reads its own bytes
  deriving DecidableEq, Repr

/-- What a link-control flit delivers (R253, R255); the manual gives its content, not its layout. -/
inductive LinkControl where
  | ack (seq : Nat)                -- cumulative: the next sequence number expected
  | nak (seq : Nat)
  | credit (vc cls total : Nat)    -- cumulative: flits whose buffer has been freed
  deriving DecidableEq, Repr

/-- A warm reset's cause (R378). -/
inductive WarmCause where
  | perst | hotReset | linkDisable | firmware
  deriving DecidableEq, Repr

/-- An interface that trains at bring-up. -/
inductive TrainIface where
  | hbm (s : Nat)
  | lp (i : Nat)
  | vault (ch : Nat)
  deriving DecidableEq, Repr

/-- What the self-tests and the CRC checks of stages 5 and 6 find (R385, R386). -/
structure SelfTest where
  granules : Nat               -- mask of granules that hold a failed core, cluster memory or codec
  pipes : Nat                  -- mask of Pegbox pipes that fail
  hbms : Nat                 -- mask of HBM3E stacks that fail
  interfaces : Nat             -- mask of LPDDR5X interfaces that fail
  crcFails : List (Nat × Bool) -- sequencers whose CRC check failed at stage 5, and whether that of the second copy failed too
  hubOk : Bool                 -- the hub's own tests pass
  deriving DecidableEq, Repr

/-- How the copy of a page move ends (R231): done, or failed in the source or in the destination. -/
inductive MoveResult where
  | done | sourceFailed | destinationFailed
  deriving DecidableEq, Repr

/-- Codewords that the FEC decoder of a course has met since the last flit: corrected, not correctable, and without an error (R250,
R257, R277). -/
structure FecCount where
  corrected : Nat := 0
  uncorrected : Nat := 0
  clean : Nat := 0
  deriving DecidableEq, Repr

/-- A flit as a course's receiver gets it: its bytes, and the codewords that the FEC decoder has met since the last. -/
structure Flit where
  bytes : List Byte
  fec : FecCount := {}
  deriving DecidableEq, Repr

/-- Why a course retrains in service (R257). -/
inductive RetrainReason where
  | naks | fecLock | fecErrors
  deriving DecidableEq, Repr

/-! An address of REGISTER_READ_RC and REGISTER_WRITE counts on from a function's BAR0, of 16 MiB, through its BAR2 and its BAR4
(R321) to a word of its configuration space. DESIGN CHOICE: the numbering (log 134); the host reaches each by its own base. -/
/-- Where BAR2 begins. -/
def bar2Base : Nat := 0x1000000
/-- Where BAR4 begins. -/
def bar4Base : Nat := 0x1020000
/-- Where the configuration items stand, 4 KiB. -/
def cfgBase : Nat := 0x1030000
/-- The end of the addresses. -/
def addrSpace : Nat := 0x1031000

/-- What a descriptor's reads meet: nothing; in the on-die memory that it reads, a word that a re-read mends, a word that fails
all re-reads, a corrected bit, or a double-bit error (R235, R236); in device memory, a read that a controller corrects or
retries (R239, R242); or a host that leaves its requests to host memory unanswered (R244). -/
inductive ReadError where
  | none | spSoft | spHard | cmSingle | cmDouble
  | demand (c : MemCtl) (fix : ScrubResult)
  | unanswered
  deriving DecidableEq, Repr

/-- A core, and what the reads that its row makes there meet. -/
structure CoreRead where
  core : Nat
  err : ReadError := .none
  deriving DecidableEq, Repr

/-- The commands. Host commands name the accepted command by its acceptance number `n`; descriptor rows name a core by its
global number `g`. -/
inductive Instr where
  | identify (n : Nat)
  | getCaps (n : Nat)
  | partitionCreate (n : Nat)
  | partitionDestroy (n : Nat)
  | partitionReset (n : Nat)
  | contextCreate (n : Nat)
  | contextDestroy (n : Nat)
  | mapPages (n : Nat)
  | unmapPages (n : Nat)
  | copy (n : Nat)
  | loadProgram (n : Nat)
  | launch (n : Nat)
  | preempt (n : Nat)
  | resume (n : Nat)
  | stepBegin (n : Nat)
  | stepEnd (n : Nat)
  | submitSamples (n : Nat)
  | sensorConfig (n : Nat)
  | kvSeqOpen (n : Nat)
  | kvSeqClose (n : Nat)
  | kvFork (n : Nat)
  | checkpointBegin (n : Nat)
  | checkpointCommit (n : Nat)
  | checkpointRestore (r : VaultRead)
  | vaultRead (r : VaultRead)
  | vaultWrite (w : VaultWrite)
  | pairBind (n : Nat)
  | adoptNode (n : Nat)
  | spareFill (n : Nat)
  | pairRelease (n : Nat)
  | setTime (n : Nat)
  | readLifeLog (n : Nat)
  | powerBudget (n : Nat)
  | fwStage (n : Nat)
  | fwActivate (n : Nat)
  | attest (n : Nat)
  | debugUnlock (n : Nat)
  | debugReadAcc (n : Nat)
  | sqDoorbell (f q tail : Nat)
  | cqDoorbell (f q head : Nat)
  | queueEnable (f q value : Nat)
  | queueDisable (f q value : Nat)
  | commandFetchTimeout (r : HostRead)
  | functionLevelReset (t : ResetTarget)
  | busMasterDisable (f : Nat)
  | hostWindowAccess (offset : Nat) (data : Option (List Byte)) (mayCache : Bool)
  | birsp (line : Nat)
  | spdmRequest (r : Spdm)
  | sidebandMessage (message : Sideband)
  | tile (g : Nat)
  | tileStart (g : Nat)
  | spillPoint (g e h : Nat)
  | tileDrain (g e : Nat)
  | epilogue (g : Nat) (err : ReadError)
  | parityError (g e h step : Nat) (kind : ParityKind)
  | replayStart (g : Nat)
  | gather (g : Nat)
  | gatherWaitBound (g : Nat)
  | vec (g : Nat) (err : ReadError)
  | move (g : Nat) (err : ReadError)
  | moveComplete (g i : Nat)
  | wait (g : Nat) (err : ReadError)
  | waitComplete (g : Nat)
  | waitExpire (g : Nat)
  | signal (g : Nat) (err : ReadError)
  | jump (g : Nat)
  | stepMark (g : Nat)
  | segBegin (g : Nat)
  | segEnd (g : Nat)
  | descriptorLineArrive (g : Nat)
  | update (g : Nat) (err : ReadError)
  | allReduce (g : Nat)
  | reduceScatter (g : Nat)
  | allGather (g : Nat)
  | allToAll (g : Nat)
  | normGather (g : Nat)
  | collComplete (g i : Nat)
  | scrollPut (g : Nat) (err : ReadError)
  | scrollGet (g : Nat) (err : ReadError)
  | scrollPutContinue (g i : Nat)
  | scrollMigrate (p : Nat)
  | scrollDemote (p : Nat)
  | scrollPromote (p : Nat)
  | replayEntry (c : CoreRead)
  | pageMoveComplete (page : Nat) (result : MoveResult)
  | fretboardWalk (die cluster page : Nat)
  | versionClaim (g : Nat)
  | versionAdvance (g : Nat)
  | drainPageDone (done : DrainPage)
  | stepFold (p c : Nat)
  | swapCopyComplete (p page : Nat) (result : MoveResult)
  | memoryUncorrectableError (page offset : Nat)
  | scrubRead (ctl : MemCtl) (frame offset : Nat) (met : ScrubOutcome)
  | stackFailed (s : Nat)
  | lpInterfaceFailed (i : Nat)
  | flitReceive (course : Nat) (flit : Flit)
  | linkControlFlit (course : Nat) (control : LinkControl)
  | messageReceive (course : Nat)
  | courseRetrain (course : Nat) (reason : RetrainReason)
  | courseTrainingAttemptEnd (course : Nat) (ok : Bool) (peer : Nat)
  | mirrorApply (p : Nat)
  | pipeDispatch
  | sampleDecodeDone (pipe : Nat) (result : DecodeResult)
  | sampleEmit (queue : Nat)
  | decodeTimeout (pipe : Nat)
  | unisonSetComplete (group : Nat)
  | quantumExpiry (g : Nat)
  | coreBoundaryReached (c : CoreRead)
  | capoMilestone (j : Nat)
  | capoDeadline (j : Nat)
  | capoEnable (j value : Nat)
  | sourceAssert (bridge source : Nat)
  | groupTimerRelease (bridge group : Nat)
  | claim (bridge target : Nat)
  | brgComplete (bridge value : Nat)
  | brgPendSet (bridge word value : Nat)
  | brgPendClr (bridge word value : Nat)
  | brgMaskSet (bridge word value : Nat)
  | brgMaskClr (bridge word value : Nat)
  | brgCtrl (bridge value : Nat)
  | registerReadRc (f addr : Nat)
  | retrain (course value : Nat)
  | format (value : Nat)
  | registerWrite (f addr value : Nat)
  | luthierEvaluation
  | grantPeriod (demands draws : List Nat)
  | gatingUpdate (die draw : Nat)
  | voltageConfirm (die millivolts : Nat)
  | rampUpdate (die : Nat)
  | droop (die : Nat)
  | droopRecover (die : Nat)
  | thermalSample (readings : List Nat)
  | hotStep (die : Nat)
  | thermtrip
  | coldReset (fusesOk keyOk : Bool)
  | warmReset (cause : WarmCause) (fusesOk keyOk : Bool)
  | powerLoss
  | trainingAttemptEnd (iface : TrainIface) (ok : Bool) (found : Nat)
  | bringUpReady (r : SelfTest)
  | referenceClockLoss (clock : Nat)
  | logRecordWrite (ok : Bool)
  | lifeLogSummary
  | vaultProgramFail
  | vaultScrub (met : NandScrub)
  | wearLevelMove
  | busMasterEnable (f : Nat)
  | vfEnable
  | cxlLinkUp
  | glideComplete (die : Nat)
  | commitRecordDurable
  | reservedTypeDescriptor (g : Nat)
  deriving DecidableEq, Repr

end Sys2Proof
end

