-- ==== Sys2Proof/Machine/Num.lean ====
section
/-! DEFINITION. The numbers of chapter 02: exact values, the encodings of the formats, rounding and conversion
(R20 to R38), and the exact sums, products, quotients and roots the units round. -/

namespace Sys2Proof.Machine

/-- A value in arithmetic: NaN (without payload, R26), an infinity, or `(-1)^neg * m * 2^e` exactly; `m = 0` is a signed
zero. -/
inductive Fp where
  | nan
  | inf (neg : Bool)
  | fin (neg : Bool) (m : Nat) (e : Int)
  deriving DecidableEq, Repr

/-- The rounding modes of R37; code 3 is reserved. -/
inductive RMode where
  | rne | rz | sr
  deriving DecidableEq, Repr

/-- The mode a 2-bit field names, R37. -/
def RMode.ofCode : Nat → Option RMode
  | 0 => some .rne
  | 1 => some .rz
  | 2 => some .sr
  | _ => none

/-- The parameters of a floating-point encoding, R21: fraction bits, exponent bits, bias, whether it has an infinity
and which code is its canonical NaN (R26). -/
structure FloatFmt where
  fbits : Nat
  ebits : Nat
  bias : Nat
  hasInf : Bool
  nanCode : Option Nat
  maxFin : Nat   -- the code of the largest finite magnitude
  deriving DecidableEq, Repr

/-- FP32 of R21. -/
def f32 : FloatFmt := ⟨23, 8, 127, true, some 0x7FC00000, 0x7F7FFFFF⟩
/-- BF16 of R21. -/
def bf16 : FloatFmt := ⟨7, 8, 127, true, some 0x7FC0, 0x7F7F⟩
/-- FP16 of R21. -/
def f16 : FloatFmt := ⟨10, 5, 15, true, some 0x7E00, 0x7BFF⟩
/-- E5M2 of R21. -/
def e5m2 : FloatFmt := ⟨2, 5, 15, true, some 0x7E, 0x7B⟩
/-- E4M3 of R21: no infinity, and only the all-ones code is NaN. -/
def e4m3 : FloatFmt := ⟨3, 4, 7, false, some 0x7F, 0x7E⟩
/-- E3M2, the MXFP6 element of R21. -/
def e3m2 : FloatFmt := ⟨2, 3, 3, false, none, 0x1F⟩
/-- E2M1, the MXFP4 element of R21. -/
def e2m1 : FloatFmt := ⟨1, 2, 1, false, none, 0x7⟩
/-- binary64, the format of the long sums (R47). -/
def f64 : FloatFmt := ⟨52, 11, 1023, true, some 0x7FF8000000000000, 0x7FEFFFFFFFFFFFFF⟩

/-- Bits of an encoding, sign included. -/
def FloatFmt.width (f : FloatFmt) : Nat := 1 + f.ebits + f.fbits

/-- The exact value of an encoding, R21. -/
def FloatFmt.decode (f : FloatFmt) (code : Nat) : Fp :=
  let mag := code % 2 ^ (f.ebits + f.fbits)
  let neg := decide (code / 2 ^ (f.ebits + f.fbits) % 2 = 1)
  let ex := mag / 2 ^ f.fbits
  let fr := mag % 2 ^ f.fbits
  if mag > f.maxFin then
    (if f.hasInf && fr == 0 then .inf neg else .nan)
  else if ex = 0 then .fin neg fr (1 - (f.bias : Int) - f.fbits)
  else .fin neg (2 ^ f.fbits + fr) ((ex : Int) - f.bias - f.fbits)

/-- `m * 2^e` as a whole number of units `2^q`, rounded under the mode of R37; `u` is the 24-bit draw of R38. -/
def roundAt (mode : RMode) (u : Nat) (m : Nat) (e q : Int) : Nat :=
  if q ≤ e then m * 2 ^ (e - q).toNat
  else
    let sh := (q - e).toNat
    let lo := m / 2 ^ sh
    let rem := m % 2 ^ sh
    if rem = 0 then lo
    else match mode with
      | .rz => lo
      | .rne =>
        if 2 * rem > 2 ^ sh then lo + 1
        else if 2 * rem = 2 ^ sh then lo + lo % 2
        else lo
      | .sr => if rem * 2 ^ 24 / 2 ^ sh + u ≥ 2 ^ 24 then lo + 1 else lo

/-- The exponent of the unit in the last place of `m * 2^e` in a format (subnormals included, no upper limit). -/
def FloatFmt.ulpExp (f : FloatFmt) (m : Nat) (e : Int) : Int :=
  max ((Nat.log2 m : Int) + e) (1 - (f.bias : Int)) - f.fbits

/-- The magnitude code of `k * 2^q`, where `q` is the unit in the last place that `ulpExp` gave; it may lie above the
largest finite code. -/
def FloatFmt.magCode (f : FloatFmt) (k : Nat) (q : Int) : Nat :=
  if k < 2 ^ f.fbits then k
  else
    -- exponent field of the binade with unit q, plus k itself: a carry to 2^(fbits+1) moves up one binade
    (q + f.fbits + f.bias).toNat * 2 ^ f.fbits + (k - 2 ^ f.fbits)

/-- The code of a signed magnitude. -/
def FloatFmt.signed (f : FloatFmt) (neg : Bool) (mag : Nat) : Nat :=
  (if neg then 2 ^ (f.ebits + f.fbits) else 0) + mag

/-- Whether conversion of a finite value overflows the format: the value rounded as if there were no largest exponent
exceeds the largest finite value (R35). -/
def FloatFmt.overflows (f : FloatFmt) (mode : RMode) (u : Nat) : Fp → Bool
  | .fin _ m e => decide (m ≠ 0 ∧ f.magCode (roundAt mode u m e (f.ulpExp m e)) (f.ulpExp m e) > f.maxFin)
  | _ => false

/-- What an overflow gives, R35. -/
def FloatFmt.overflowCode (f : FloatFmt) (mode : RMode) (sat neg : Bool) : Nat :=
  if sat || mode == .rz then f.signed neg f.maxFin
  else if f.hasInf then f.signed neg ((2 ^ f.ebits - 1) * 2 ^ f.fbits)
  else match f.nanCode with
    | some n => n
    | none => f.signed neg f.maxFin

/-- Conversion of an exact value to a float encoding, R34 and R35. -/
def FloatFmt.encode (f : FloatFmt) (mode : RMode) (sat : Bool) (u : Nat) : Fp → Nat
  | .nan => f.nanCode.getD 0
  | .inf neg =>
    if sat then f.signed neg f.maxFin
    else if f.hasInf then f.signed neg ((2 ^ f.ebits - 1) * 2 ^ f.fbits)
    else f.overflowCode mode sat neg
  | .fin neg m e =>
    if m = 0 then f.signed neg 0
    else
      let q := f.ulpExp m e
      let mag := f.magCode (roundAt mode u m e q) q
      if mag > f.maxFin then f.overflowCode mode sat neg else f.signed neg mag

/-- A value rounded to a format, as a value. -/
def FloatFmt.round (f : FloatFmt) (mode : RMode) (sat : Bool) (u : Nat) (x : Fp) : Fp :=
  f.decode (f.encode mode sat u x)

/-- RNE to FP32, the operation rounding of R114 and R211. -/
def rne32 (x : Fp) : Fp := f32.round .rne false 0 x
/-- RNE to BF16. -/
def rneBf16 (x : Fp) : Fp := bf16.round .rne false 0 x
/-- RNE to binary64, R47. -/
def rne64 (x : Fp) : Fp := f64.round .rne false 0 x

namespace Fp

/-- +0. -/
def zero : Fp := .fin false 0 0
/-- 1. -/
def one : Fp := .fin false 1 0

/-- The value of an integer. -/
def ofInt (i : Int) : Fp := .fin (decide (i < 0)) i.natAbs 0

/-- A zero of either sign. -/
def isZero : Fp → Bool
  | .fin _ m _ => m == 0
  | _ => false

/-- NaN. -/
def isNan : Fp → Bool
  | .nan => true
  | _ => false

/-- An infinity. -/
def isInf : Fp → Bool
  | .inf _ => true
  | _ => false

/-- The sign bit; NaN is positive (R26). -/
def signBit : Fp → Bool
  | .nan => false
  | .inf n => n
  | .fin n _ _ => n

/-- Negation; NaN stays the canonical NaN. -/
def neg : Fp → Fp
  | .nan => .nan
  | .inf n => .inf (!n)
  | .fin n m e => .fin (!n) m e

/-- Magnitude. -/
def abs : Fp → Fp
  | .nan => .nan
  | .inf _ => .inf false
  | .fin _ m e => .fin false m e

/-- The mantissa as an integer in units of `2^q`, for `q` not above the exponent. -/
def units (q : Int) : Fp → Int
  | .fin n m e => (if n then -1 else 1) * ((m * 2 ^ (e - q).toNat : Nat) : Int)
  | _ => 0

/-- The exact sum, with IEEE 754's zeros and infinities. -/
def add : Fp → Fp → Fp
  | .nan, _ => .nan
  | _, .nan => .nan
  | .inf a, .inf b => if a = b then .inf a else .nan
  | .inf a, .fin _ _ _ => .inf a
  | .fin _ _ _, .inf b => .inf b
  | .fin na ma ea, .fin nb mb eb =>
    let q := min ea eb
    let s := units q (.fin na ma ea) + units q (.fin nb mb eb)
    if s = 0 then .fin (na && nb && ma == 0 && mb == 0) 0 0
    else .fin (decide (s < 0)) s.natAbs q

/-- The exact difference. -/
def sub (a b : Fp) : Fp := add a b.neg

/-- The exact product, with IEEE 754's zeros and infinities. -/
def mul : Fp → Fp → Fp
  | .nan, _ => .nan
  | _, .nan => .nan
  | .inf a, .inf b => .inf (a != b)
  | .inf a, .fin b m _ => if m = 0 then .nan else .inf (a != b)
  | .fin a m _, .inf b => if m = 0 then .nan else .inf (a != b)
  | .fin a ma ea, .fin b mb eb => .fin (a != b) (ma * mb) (ea + eb)

/-- Multiplication by a power of two. -/
def scale (k : Int) : Fp → Fp
  | .fin n m e => .fin n m (e + k)
  | x => x

/-- Numeric comparison of two values that are not NaN; the zeros are equal here. -/
def lt : Fp → Fp → Bool
  | .nan, _ => false
  | _, .nan => false
  | .inf a, .inf b => a && !b
  | .inf a, .fin _ _ _ => a
  | .fin _ _ _, .inf b => !b
  | .fin na ma ea, .fin nb mb eb =>
    let q := min ea eb
    decide (units q (.fin na ma ea) < units q (.fin nb mb eb))

/-- Numeric "at most". -/
def le (a b : Fp) : Bool := !a.isNan && !b.isNan && !(lt b a)

/-- Whether `a` comes before `b` in the order of MAX and MIN, in which −0 < +0 (R114). -/
def before (a b : Fp) : Bool := lt a b || (a.isZero && b.isZero && a.signBit && !b.signBit)

/-- MAX of R114. -/
def max (a b : Fp) : Fp := if a.isNan || b.isNan then .nan else if before a b then b else a
/-- MIN of R114. -/
def min (a b : Fp) : Fp := if a.isNan || b.isNan then .nan else if before b a then b else a

/-- A quotient to be rounded: exact to 160 bits with a sticky last bit, which decides every rounding to a narrower
format as the exact quotient would. -/
def div : Fp → Fp → Fp
  | .nan, _ => .nan
  | _, .nan => .nan
  | .inf _, .inf _ => .nan
  | .inf a, .fin b _ _ => .inf (a != b)
  | .fin a _ _, .inf b => .fin (a != b) 0 0
  | .fin a ma ea, .fin b mb eb =>
    if mb = 0 then (if ma = 0 then .nan else .inf (a != b))
    else
      let k := 160 + Nat.log2 mb
      let n := ma * 2 ^ k
      .fin (a != b) (2 * (n / mb) + (if n % mb = 0 then 0 else 1)) (ea - eb - k - 1)

end Fp

/-- The integer square root, by binary digits from bit `k - 1` down. -/
def isqrtGo (n : Nat) : Nat → Nat → Nat
  | 0, r => r
  | k + 1, r => isqrtGo n k (if (r + 2 ^ k) * (r + 2 ^ k) ≤ n then r + 2 ^ k else r)

/-- The largest `r` with `r * r ≤ n`. -/
def isqrt (n : Nat) : Nat := isqrtGo n (Nat.log2 n / 2 + 1) 0

namespace Fp

/-- A square root to be rounded, exact to 128 bits or more with a sticky last bit. −0 gives −0. -/
def sqrt : Fp → Fp
  | .nan => .nan
  | .inf n => if n then .nan else .inf false
  | .fin n m e =>
    if m = 0 then .fin n 0 0
    else if n then .nan
    else
      let odd := (e % 2).toNat
      let x := m * 2 ^ (odd + 256)
      let r := isqrt x
      .fin false (2 * r + (if r * r = x then 0 else 1)) ((e - odd) / 2 - 128 - 1)

/-- A reciprocal square root to be rounded: zeros give infinities of their sign (R115). -/
def rsqrt : Fp → Fp
  | .nan => .nan
  | .inf n => if n then .nan else .fin false 0 0
  | .fin n m e =>
    if m = 0 then .inf n
    else if n then .nan
    else
      let odd := (e % 2).toNat
      let d := m * 2 ^ odd
      let k := 160 + Nat.log2 d
      let r := isqrt (2 ^ (2 * k) / d)
      .fin false (2 * r + (if r * r * d = 2 ^ (2 * k) then 0 else 1)) (-(k : Int) - (e - odd) / 2 - 1)

end Fp

/-- The format codes of R20. -/
inductive Fmt where
  | fp32 | bf16 | fp16 | e4m3 | e5m2 | mxfp8 | mxfp6 | mxfp4 | int8 | int4 | sbf
  deriving DecidableEq, Repr

namespace Fmt

/-- The format of a 4-bit code; codes 0xB to 0xF are reserved (R20). -/
def ofCode : Nat → Option Fmt
  | 0 => some .fp32 | 1 => some .bf16 | 2 => some .fp16 | 3 => some .e4m3 | 4 => some .e5m2
  | 5 => some .mxfp8 | 6 => some .mxfp6 | 7 => some .mxfp4 | 8 => some .int8 | 9 => some .int4
  | 10 => some .sbf
  | _ => none

/-- The code of a format (R20). -/
def code : Fmt → Nat
  | .fp32 => 0 | .bf16 => 1 | .fp16 => 2 | .e4m3 => 3 | .e5m2 => 4
  | .mxfp8 => 5 | .mxfp6 => 6 | .mxfp4 => 7 | .int8 => 8 | .int4 => 9 | .sbf => 10

/-- Element width in bits (R20); SBF has none of its own. -/
def width : Fmt → Nat
  | .fp32 => 32 | .bf16 => 16 | .fp16 => 16 | .e4m3 => 8 | .e5m2 => 8
  | .mxfp8 => 8 | .mxfp6 => 6 | .mxfp4 => 4 | .int8 => 8 | .int4 => 4 | .sbf => 0

/-- A microscaling format (R28). -/
def isMx : Fmt → Bool
  | .mxfp8 | .mxfp6 | .mxfp4 => true
  | _ => false

/-- An integer format (R22). -/
def isInt : Fmt → Bool
  | .int8 | .int4 => true
  | _ => false

/-- A float format, microscaling ones among them. -/
def isFloat (f : Fmt) : Bool := !f.isInt && f != .sbf

/-- The float encoding of the elements of a format. -/
def elem : Fmt → FloatFmt
  | .fp32 => f32 | .bf16 => Machine.bf16 | .fp16 => f16 | .e4m3 => Machine.e4m3 | .e5m2 => Machine.e5m2
  | .mxfp8 => Machine.e4m3 | .mxfp6 => e3m2 | .mxfp4 => e2m1 | .int8 => f32 | .int4 => f32 | .sbf => f32

/-- The exact value of one element's bits, its block scale apart (R21, R22). -/
def decode (f : Fmt) (bits : Nat) : Fp :=
  match f with
  | .int8 => Fp.ofInt (BitVec.ofNat 8 bits).toInt
  | .int4 => Fp.ofInt (BitVec.ofNat 4 bits).toInt
  | f => f.elem.decode bits

end Fmt

/-- Conversion to a two's complement integer of `w` bits: rounded under the mode, then saturated; NaN gives 0 (R34). -/
def encodeInt (w : Nat) (mode : RMode) (u : Nat) : Fp → Nat
  | .nan => 0
  | .inf n => (BitVec.ofInt w (if n then -(2 ^ (w - 1) : Nat) else (2 ^ (w - 1) - 1 : Nat))).toNat
  | .fin n m e =>
    let k := roundAt mode u m e 0
    let i : Int := if n then -(k : Int) else k
    let i := max (-(2 ^ (w - 1) : Nat) : Int) (min ((2 ^ (w - 1) - 1 : Nat) : Int) i)
    (BitVec.ofInt w i).toNat

/-- Conversion of a value to one element of a format without block scales (R34, R35). -/
def convert (f : Fmt) (mode : RMode) (sat : Bool) (u : Nat) (x : Fp) : Nat :=
  match f with
  | .int8 => encodeInt 8 mode u x
  | .int4 => encodeInt 4 mode u x
  | f => f.elem.encode mode sat u x

/-- Whether a conversion counts in a NaN-to-integer counter (R36). -/
def countsNanToInt (f : Fmt) (x : Fp) : Bool := f.isInt && x.isNan

/-- emax of R30. -/
def mxEmax : Fmt → Int
  | .mxfp8 => 8
  | .mxfp6 => 4
  | _ => 2

/-- floor(log2 |x|) of a finite value that is not zero. -/
def Fp.log2 : Fp → Int
  | .fin _ m e => (Nat.log2 m : Int) + e
  | _ => 0

/-- The largest magnitude among the finite values of a list. -/
def amaxFinite (xs : List Fp) : Fp :=
  xs.foldl (fun a x => match x with
    | .fin _ m e => if Fp.lt a (.fin false m e) then .fin false m e else a
    | _ => a) Fp.zero

/-- The scale code of a block, mx_scale of R30. -/
def mxScale (f : Fmt) (sat : Bool) (xs : List Fp) : Nat :=
  if xs.any Fp.isNan then 0xFF
  else if !sat && xs.any Fp.isInf then 0xFF
  else
    let a := amaxFinite xs
    if a.isZero then 0x7F
    else (max (-127 : Int) (min 127 (a.log2 - mxEmax f)) + 127).toNat

/-- One element of a block, mx_element of R30. -/
def mxElement (f : Fmt) (scale : Nat) (mode : RMode) (u : Nat) (x : Fp) : Nat :=
  if scale = 0xFF then 0
  else f.elem.encode mode true u (x.scale (127 - (scale : Int)))

/-- The value of an element under a block scale: NaN when the scale code is 0xFF (R28, R31). -/
def mxValue (f : Fmt) (scale bits : Nat) : Fp :=
  if scale = 0xFF then .nan else (f.decode bits).scale ((scale : Int) - 127)

end Sys2Proof.Machine
end

