-- ==== Sys2Proof/Config.lean ====
section
/-! DEFINITION. The free values of the model: constants without a body, so that nothing can be proved about the number
they stand for. Each is named in a row of notes/assumptions. The counter `State.fresh` is what a fresh value is taken at. -/

namespace Sys2Proof.Config

/-- The CLK_HUB cycle count that the `k`-th reading of the hub's clock gives (R329, R399, R315). FREE. -/
opaque hubTime : Nat → Nat
/-- The cycles of a local clock that the `k`-th measured interval took (wait_cycles of R122). FREE. -/
opaque elapsedCycles : Nat → Nat
/-- The `k`-th fresh random value of the security engine (R445). FREE. -/
opaque random : Nat → BitVec 256
/-- The value that the manual leaves undefined at the `k`-th such place, 64 bits wide. FREE. -/
opaque value : Nat → BitVec 64

/-- Byte `i` of the contents that the manual leaves undefined at the `k`-th such place (R271, R291, R376). FREE. -/
opaque contents : Nat → Nat → BitVec 8

/-- SM3 of a byte string (GB/T 32905, outside the manual). FREE. -/
opaque sm3 : List (BitVec 8) → BitVec 256
/-- The SM2 public key of a private scalar (GB/T 32918, outside the manual). FREE. -/
opaque sm2Public : BitVec 256 → BitVec 512
/-- SM2 signature over SM3: the place of its random number, the private scalar and the bytes signed (R434, R444). FREE. -/
opaque sm2Sign : Nat → BitVec 256 → List (BitVec 8) → BitVec 512
/-- Whether an SM2 signature of bytes verifies under a public key (R437, R446). FREE. -/
opaque sm2Verifies : BitVec 512 → List (BitVec 8) → List (BitVec 8) → Bool
/-- The public key of Mundidy's root, held in the boot ROM (R434). FREE. -/
opaque rootKey : BitVec 512
/-- The subject key of a certificate in DER form (X.509, outside the manual). FREE. -/
opaque certKey : List (BitVec 8) → BitVec 512
/-- Whether a certificate verifies under its issuer's key (X.509). FREE. -/
opaque certVerifies : BitVec 512 → List (BitVec 8) → Bool
/-- Whether a certificate carries the key usage firmware signing (R437). FREE. -/
opaque certSignsFirmware : List (BitVec 8) → Bool
/-- Whether a certificate carries the key usage debug authorisation (R446). FREE. -/
opaque certAllowsDebug : List (BitVec 8) → Bool
/-- The part of the alias certificate that is signed: its subject key, and the bytes of its extension (R434). FREE. -/
opaque aliasTbs : BitVec 512 → List (BitVec 8) → List (BitVec 8)
/-- A certificate in DER form, from the part that is signed and its signature (R434). FREE. -/
opaque certificate : List (BitVec 8) → BitVec 512 → List (BitVec 8)
/-- The device private key, from its sealed form in the fuses, under the key that the physical unclonable function gives (R433). FREE. -/
opaque unsealed : BitVec 256 → BitVec 256
/-- What stage 5 of bring-up broadcasts from an image: engine firmware and default programs (R380, R441). FREE. -/
opaque engineFirmware : List (BitVec 8) → List (BitVec 8)
/-- The SM3 digest of the boot ROM, fixed in silicon (measurement 1 of R441). FREE. -/
opaque romDigest : BitVec 256

/-- Silicon stepping (R394). FREE. -/
opaque stepping : BitVec 8
/-- Boot ROM version (R394). FREE. -/
opaque romVersion : BitVec 8

/-- Whether a page that partition `n` maps belongs to its Resonator pool: the manual leaves the choice to the runtime and
names no register for it (R146, R147). FREE. -/
opaque resonatorPool : Nat → Nat → Bool
/-- Whether a page that partition `n` maps in tier 4 or 5 is a place of its swap area (R163). FREE. -/
opaque resonatorSwap : Nat → Nat → Bool

/-- An output pixel of Pegbox stage 5 with more than one tap: whether the resize is area, the whole of the weights, and the taps in
raster order, each with its weight and its FP32 value. The manual gives the method but not the order in which its operations are
rounded (R283). FREE, a function of all it depends on. -/
opaque blend : Bool → Nat → List (Nat × BitVec 32) → BitVec 32
/-- Pegbox stage 2's colour conversion of one pixel: matrix 1, 2 or 3, full range, depth, and the three FP32 components;
the manual gives the matrix but not the order of its roundings (R283). FREE. -/
opaque colour : Nat → Bool → Nat → BitVec 32 → BitVec 32 → BitVec 32 → BitVec 32 × BitVec 32 × BitVec 32

/-- FP32 bits of a Pegbox component that the manual does not state: a component that the picture does not have, or a pixel of
a crop rectangle that lies outside the picture; by kind, component and place (R283). FREE. -/
opaque pixel : Nat → Nat → Nat → Nat → BitVec 32

end Sys2Proof.Config
end

