-- ==== Sys2Proof/Machine/Bits.lean ====
section
/-! DEFINITION. Bit fields, byte order, sparse tables and byte memories: the plain data every unit of the block is
made of. Byte order is little-endian throughout (00 Notation). -/

namespace Sys2Proof.Machine

/-- Field `hi:lo` of a number. -/
def field (v hi lo : Nat) : Nat := v / 2 ^ lo % 2 ^ (hi + 1 - lo)

/-- Bit `i` of a number. -/
def bit (v i : Nat) : Bool := v / 2 ^ i % 2 == 1

/-- A number with field `hi:lo` replaced. -/
def setField (v hi lo x : Nat) : Nat :=
  v - field v hi lo * 2 ^ lo + x % 2 ^ (hi + 1 - lo) * 2 ^ lo

/-- A Boolean as a bit. -/
def ofBool (b : Bool) : Nat := if b then 1 else 0

/-- `ceil (a / b)`. -/
def ceilDiv (a b : Nat) : Nat := (a + b - 1) / b

/-- `a` rounded down to a multiple of `b`. -/
def alignDown (a b : Nat) : Nat := a / b * b

/-- `a` rounded up to a multiple of `b`. -/
def alignUp (a b : Nat) : Nat := ceilDiv a b * b

/-- A counter of `w` bits that wraps (RO counters, R17). -/
def wrapAdd (w a b : Nat) : Nat := (a + b) % 2 ^ w

/-- A counter of `w` bits that holds at its largest value (RC counters). -/
def satAdd (w a b : Nat) : Nat := min (a + b) (2 ^ w - 1)

/-- The `n` low bytes of a number, least significant first. -/
def toLE : Nat → Nat → List Byte
  | 0, _ => []
  | n + 1, v => BitVec.ofNat 8 v :: toLE n (v / 256)

/-- The number that bytes give, least significant first. -/
def ofLE : List Byte → Nat
  | [] => 0
  | b :: bs => b.toNat + 256 * ofLE bs

/-- The bits set in the low `n` bits of a mask, lowest first. -/
def bitsOf (n mask : Nat) : List Nat := (List.range n).filter (bit mask)

/-- The mask of a list of bit numbers, each once. -/
def maskOf (l : List Nat) : Nat := (l.map (2 ^ ·)).sum

/-- The number of bits set in the low `n` bits of a mask. -/
def popcount (n mask : Nat) : Nat := (bitsOf n mask).length

/-- Bytes `lo` to `lo + n - 1` of a byte string, as a number; missing bytes are 0. -/
def leAt (bs : List Byte) (lo n : Nat) : Nat := ofLE ((bs.drop lo).take n)

/-- A list cut or padded with zero bytes to `n` bytes. -/
def padTo (n : Nat) (bs : List Byte) : List Byte := (bs ++ List.replicate (n - bs.length) 0).take n

/-! Sparse tables: sorted by key, and no entry equal to the table's default. -/

/-- A table from numbers to records. -/
abbrev Tab (α : Type) : Type := List (Nat × α)

/-- The entry of a key, or the default. -/
def Tab.get {α : Type} (d : α) : Tab α → Nat → α
  | [], _ => d
  | (i, v) :: t, k => if i = k then v else Tab.get d t k

/-- The entry of a key, where the table lists one. -/
def Tab.find {α : Type} : Tab α → Nat → Option α
  | [], _ => none
  | (i, v) :: t, k => if i = k then some v else Tab.find t k

/-- The table without the entry of a key. -/
def Tab.erase {α : Type} (t : Tab α) (k : Nat) : Tab α := t.filter fun e => e.1 != k

/-- The table with an entry of a key in its sorted place, the key not among its entries before. -/
def Tab.insert {α : Type} (k : Nat) (v : α) : Tab α → Tab α
  | [] => [(k, v)]
  | (i, w) :: t => if i < k then (i, w) :: Tab.insert k v t else if i = k then (k, v) :: t else (k, v) :: (i, w) :: t

/-- The table with a key's entry set; setting the default removes the entry. -/
def Tab.set {α : Type} [DecidableEq α] (d : α) (t : Tab α) (k : Nat) (v : α) : Tab α :=
  if v = d then t.erase k else t.insert k v

/-- The table with a key's entry changed. -/
def Tab.update {α : Type} [DecidableEq α] (d : α) (t : Tab α) (k : Nat) (f : α → α) : Tab α :=
  Tab.set d t k (f (Tab.get d t k))

/-! Byte memories. -/

/-- A memory: the bytes that are not 0, at strictly rising addresses. An address that is not listed reads as `Mem.blank`. -/
abbrev Mem : Type := List Host.Cell

namespace Mem

/-- What an unlisted address reads as. DESIGN CHOICE: the manual gives no contents of the memories after power-on. -/
def blank : Byte := 0

/-- The byte at an address. -/
def byte : Mem → Nat → Byte
  | [], _ => blank
  | (i, v) :: t, a => if i = a then v else byte t a

/-- Whether the canonical form holds: addresses strictly rising, no entry equal to `blank`. -/
def wfFrom : Nat → Mem → Bool
  | _, [] => true
  | lo, (i, v) :: t => decide (lo ≤ i) && v != blank && wfFrom (i + 1) t

/-- The canonical form. -/
def wf (m : Mem) : Bool := wfFrom 0 m

/-- The cells below an address. -/
def below (a : Nat) : Mem → Mem
  | [] => []
  | (i, v) :: t => if i < a then (i, v) :: below a t else []

/-- The cells from an address on. -/
def from_ (a : Nat) : Mem → Mem
  | [] => []
  | (i, v) :: t => if i < a then from_ a t else (i, v) :: t

/-- The cells of a byte string that starts at an address. -/
def cells : Nat → List Byte → Mem
  | _, [] => []
  | a, b :: bs => if b = blank then cells (a + 1) bs else (a, b) :: cells (a + 1) bs

/-- `n` bytes from an address, out of cells none of which lies below it. -/
def readFrom : Mem → Nat → Nat → List Byte
  | _, _, 0 => []
  | [], a, n + 1 => blank :: readFrom [] (a + 1) n
  | (i, v) :: t, a, n + 1 =>
    if i = a then v :: readFrom t (a + 1) n else blank :: readFrom ((i, v) :: t) (a + 1) n

/-- `n` bytes from an address. -/
def read (m : Mem) (a n : Nat) : List Byte := readFrom (from_ a m) a n

/-- A byte string written from an address on. -/
def write (m : Mem) (a : Nat) (bs : List Byte) : Mem := below a m ++ cells a bs ++ from_ (a + bs.length) m

/-- `n` bytes from an address set to zero, as every zero-fill of the manual leaves them. -/
def clear (m : Mem) (a n : Nat) : Mem := below a m ++ from_ (a + n) m

/-- A little-endian number of `n` bytes at an address. -/
def num (m : Mem) (a n : Nat) : Nat := ofLE (read m a n)

/-- A little-endian number of `n` bytes written at an address. -/
def setNum (m : Mem) (a n v : Nat) : Mem := write m a (toLE n v)

end Mem

/-- A byte string of `n` bytes all equal. -/
def fill (n : Nat) (b : Byte) : List Byte := List.replicate n b

/-- The first `n` numbers from `a` on. -/
def rangeFrom (a n : Nat) : List Nat := (List.range n).map (a + ·)

/-- The element of a list at a place, with a default. -/
def at_ {α : Type} (d : α) (l : List α) (i : Nat) : α := l.getD i d

/-- The list with the element at a place changed. -/
def modifyAt {α : Type} (l : List α) (i : Nat) (f : α → α) : List α := l.modify i f

end Sys2Proof.Machine
end

