-- ==== Sys2Proof/Machine/State.lean ====
section
/-! DEFINITION. The state of the block: every register, buffer, queue, counter, mode and pin the manual gives it, as plain
data, and its value after a cold reset. Numbers of a register's field are kept below `2^width` by the operations that
write them. Registers that the manual defines as a view of other state (ENG_STATUS, FRT_FREE, HUB_QSTAT and the like)
are computed where they are read and hold nothing of their own. -/

namespace Sys2Proof.Machine

/-- Why the machine stops. The manual gives every command of the table an effect, so no meaning raises a fault:
safe. -/
inductive Fault where
  | unreachable   -- raised by nothing
  deriving DecidableEq, Repr

/-- Why a command is refused. -/
inductive Refusal where
  | notModelled (mnemonic : String)   -- raised by an arm of `exec` that has no meaning yet: safe, no claim follows from it
  deriving DecidableEq, Repr

/-- A range list: start and length, disjoint. -/
abbrev Ranges : Type := List (Nat × Nat)

/-! ### The host interface (13) -/

/-- One queue pair of a function (R323 to R325, R344). -/
structure Queue where
  sqBase : Nat := 0      -- HUB_SQ_BASE, bits 63:12 in place
  cqBase : Nat := 0
  enable : Bool := false
  irqEn : Bool := false
  cls : Nat := 0
  vector : Nat := 0
  size : Nat := 0
  sqTail : Nat := 0      -- the last doorbell value
  sqHead : Nat := 0
  cqTail : Nat := 0
  cqHead : Nat := 0
  phase : Bool := true
  count : Nat := 0       -- statuses written since the queue was enabled
  error : Nat := 0       -- HUB_QSTAT error: 0 none, 1 doorbell, 2 fetch
  waiting : List (List Byte) := []   -- statuses that wait for room, oldest first; phase, head, count and stamp are set at the write
  deriving DecidableEq, Repr

/-- An entry of a function's MSI-X table, laid out by the PCI Express standard; it is masked at reset (R321, R340). PRESUMED:
the layout and the mask at reset are the standard's. -/
structure MsixEntry where
  addrLow : Nat := 0
  addrHigh : Nat := 0
  data : Nat := 0
  masked : Bool := true        -- bit 0 of vector control
  deriving DecidableEq, Repr

/-- The mailbox registers, laid out by the CXL standard (R319). PRESUMED: the layout is the standard's. -/
structure Mailbox where
  command : Nat := 0
  code : Nat := 0              -- the return code of the last command
  payload : Tab Nat := []      -- by 8-byte word
  deriving DecidableEq, Repr

/-- A function: PF0, PF1 or a virtual function. -/
structure Fn where
  busMaster : Bool := false    -- Bus Master Enable (R343)
  queues : Tab Queue := []
  accepted : Nat := 0          -- HUB_CMD_CNT
  rejected : Nat := 0
  msix : Tab MsixEntry := []   -- the MSI-X table of BAR4 (R321)
  pba : Nat := 0               -- the pending-bit array of BAR4, bit v of vector v
  msixEnable : Bool := false   -- MSI-X Enable and Function Mask of the capability's Message Control (R340)
  msixMask : Bool := false
  mailbox : Mailbox := {}      -- the mailbox registers of PF0's BAR2 (R319)
  deriving DecidableEq, Repr

/-- An accepted command without a final status (R326). -/
structure Cmd where
  number : Nat                 -- place in the acceptance order
  fn : Nat
  queue : Nat
  opcode : Nat
  tag : Nat
  packet : List Byte           -- its 64 bytes
  started : Bool := false      -- its row has begun it and it waits
  interim : Bool := false      -- its interim ACCEPTED has been written
  silent : Bool := false       -- ends with no status written (R341)
  offset : Nat := 0            -- bytes already moved of a long transfer
  tried : Bool := false        -- its row has come, and it has to wait
  deriving DecidableEq, Repr

/-! ### Descriptors in progress (03, 04) -/

/-- Where a tile, or one pass of a multi-pass product, stands. -/
inductive TilePhase where
  | queued            -- waits for an engine (R95)
  | streaming
  | finished          -- streamed whole; its accumulators wait for the drain path
  | drained           -- in the drain buffer, or added to its slot
  | replayWait        -- discarded by a parity error, waits for another engine (R86)
  deriving DecidableEq, Repr

/-- A row of a gathered tile: an entry of the row table (R76). -/
structure GatherRow where
  serial : Nat                 -- of its GATHER descriptor
  tensor : Nat
  row : Nat                    -- logical row of its output tensor
  aAddr : Nat
  aStride : Nat
  place : Nat                  -- row of the request that it is
  out : Nat                    -- unit of its output row
  deriving DecidableEq, Repr

/-- One tile in progress. A multi-pass product has one entry for each pass (R78). -/
structure TileRun where
  serial : Nat                 -- program order of its descriptor
  index : Nat                  -- descriptor index of the TILE, or of the template of a gathered tile
  desc : Nat                   -- the 64 bytes of the descriptor, offsets added
  seed : W64                   -- value of the seed register when it was issued
  m : Nat                      -- rows after R73
  pass : Nat := 0
  rows : List GatherRow := []  -- of a gathered tile, in slot order
  pairWith : Option Nat := none    -- of a half 1: the serial of the half 0 that it streams together with (R108)
  phase : TilePhase := .queued
  engine : Nat := 0
  units : List Nat := []       -- half-bank units of the engine that it holds (R60)
  at_ : Nat := 0               -- first step of the segment in its accumulators; all earlier ones have been added
  sat : List (Nat × Nat) := [] -- cells whose 16-bit sum has overflowed in this tile
  attempts : Nat := 0          -- failed attempts (R87)
  avoid : List Nat := []       -- the engine of the failed attempt
  block : List Nat := []       -- the drained block, row by row, in the accumulator format
  opened : Bool := false       -- it has made its first add
  closed : Bool := false       -- it has made its last add
  deriving DecidableEq, Repr

/-- A request waiting in the gather stage (R74). -/
structure GatherReq where
  serial : Nat
  desc : Nat
  template : Nat               -- the template descriptor's 64 bytes, offsets added
  seed : W64
  deriving DecidableEq, Repr

/-- An UPDATE in progress (R206 to R218). -/
structure UpdRun where
  k : Nat := 0                 -- next element
  hyper : List Byte := []      -- the hyperparameter block as read
  seed : W64 := 0
  skip : Bool := false
  clipFactor : Nat := 0        -- FP32 bits of c
  norm : Nat := 0              -- bits of the S it read
  waiting : List (Nat × Bool) := []     -- the page at which it waits now, and whether the wait is counted
  deriving DecidableEq, Repr

/-- A COLL in progress on a core (R262 to R270). -/
structure CollRun where
  op : Nat
  group : Nat                  -- communicator id; 2^16 for axis 5, whose group is the package itself
  axis : Nat
  cseq : Nat
  rank : Nat
  started : Bool := false      -- its first messages have set out
  members : List Nat           -- node and partition of each rank, or dies of axis 5
  seed : W64
  bins : Nat := 0              -- E, row_bytes and cap of the group record (R262)
  rowBytes : Nat := 0
  cap : Nat := 0
  left : Nat := 0              -- bytes of dst that have not yet arrived
  toSend : Nat := 0            -- elements of src not yet contributed
  runs : List (Nat × List Byte) := []   -- bytes that have arrived for dst and are not yet written: address, bytes
  rowsIn : List (Nat × Nat × List Byte) := []   -- parts of all-to-all contributions: rank, part, bytes
  norms : List (Nat × Nat) := []   -- norm values received: rank, bits of ps
  summed : Bool := false       -- NORM_GATHER has sent its package's sum
  normOf : Option Nat := none  -- NORM_GATHER: cseq of the context's lowest core's COLL that it is combined with (R217)
  waiting : List (Nat × Bool) := []     -- the dst page at which it waits now, and whether the wait is counted
  advanced : List Nat := []    -- dst pages that have advanced
  squared : Bool := false      -- the squares of red_op 2 have been added
  done : Bool := false
  deriving DecidableEq, Repr

/-- A SCROLL directive in progress (R169, R186, R190). -/
inductive ScrollPhase where
  | room            -- a put waits for room (R186)
  | chain           -- a DELTA put waits for the record before it (R180)
  | putOf           -- a get waits for its put (R170)
  | replay          -- a get waits for the replay of its piece (R190)
  | held            -- it waits for SCR_CTRL enable, or for a page that moves or drains
  | started         -- so waits a put that has begun: the record before it has been found (R180)
  | recorded        -- so waits a put whose record is in state 1
  deriving DecidableEq, Repr

/-- What an issued descriptor still has to do. -/
inductive Work where
  | tile
  | gather
  | vec                        -- waits in the vector unit for a protected range (R85)
  | update (u : UpdRun)
  | move (copied : Bool) (waited : Bool)
  | scroll (ph : ScrollPhase)
  | coll (c : CollRun)
  deriving DecidableEq, Repr

/-- An issued descriptor that has not completed. -/
structure Issued where
  serial : Nat
  index : Nat
  desc : Nat                   -- its 64 bytes, offsets added
  regs : List W64              -- SQ registers at issue (seed registers are read then)
  work : Work
  drainSeen : List Nat := []   -- pages whose drain has delayed its write, counted once each (R220, R221)
  deriving DecidableEq, Repr

/-! ### Partitions and contexts (12, 04, 08) -/

/-- What a context keeps for one core of its placement. -/
structure CtxCore where
  progBase : Nat := 0
  progCount : Nat := 0
  image : List W64 := []       -- register image that LAUNCH loaded and the core has not yet started from
  fresh : Bool := false        -- LAUNCH has loaded the core and it has not started
  finished : Bool := true      -- the program has finished (R335)
  held : Option W64 := none    -- held at a STEP_MARK until STEP_BEGIN of this step number (R113)
  resident : Ranges := []      -- units of the extent whose data stands on the core (R308)
  saved : Ranges := []         -- units that stand in the save area
  slotsResident : Nat := 0
  slotsSaved : Nat := 0
  skips : Nat := 0             -- times skipped in a row for a restore (R306)
  slotOpen : Nat := 0          -- long-sum slots left open (R67) while switched out
  normOwner : Bool := false
  handlerSrc : Option Nat := none   -- the source its saved handler claimed (R354)
  pin : Option Nat := none     -- the version the core's selector pins (R203, R205)
  upd : Option Nat := none     -- next index of its update records in the step (R273)
  handling : Bool := false     -- its saved sequencer state stands in a handler (R354)
  resumes : List (Issued × Nat) := []   -- its UPDATEs and COLLs stopped under R208, in program order, as they stood, with k
  deriving DecidableEq, Repr

/-- A LAUNCH in progress. -/
structure Launch where
  cmd : Nat                    -- the accepted command it will complete
  capo : Bool := false
  detail : Nat := 0            -- bit 0 as in R316
  deriving DecidableEq, Repr

/-- A replay segment's pin (R205), kept until its last piece is released or its step ends. -/
structure SegPin where
  seg : Nat
  version : Nat
  step : W64
  closed : Bool := false
  deriving DecidableEq, Repr

/-- What ends a LAUNCH that is being abandoned (R313). -/
inductive Abandon where
  | preempt
  | destroy
  | capo (j : Nat)
  deriving DecidableEq, Repr

/-- A context (R304). -/
structure Ctx where
  gen : Nat                    -- generation of its handle
  realTime : Bool := false
  prio : Nat := 0
  gmask : Nat := 0             -- granules it is placed on
  quantum : Nat := 0
  spBase : Nat := 0
  spUnits : Nat := 0
  lsMask : Nat := 0
  replayBase : Nat := 0
  replayUnits : Nat := 0
  vbase : Nat := 0
  waitBound : Nat := 0
  saveBase : Nat := 0
  fromFn : Nat := 0            -- the function it was created from
  cores : Tab CtxCore := []
  programs : List (Nat × Nat) := []   -- base and descriptors of every program launched, whose pages are read-only (R91)
  launch : Option Launch := none
  preempted : Bool := false
  preempting : List Nat := []         -- cores whose boundary a PREEMPT waits for
  abandon : Option Abandon := none
  stopped : Bool := false      -- a fault or a collective failure has ended its LAUNCH (R121, R271)
  step : W64 := 0              -- step counter
  seed : W64 := 0              -- step seed
  stepOpen : Bool := false
  passed : List Nat := []      -- cores that have passed the step's STEP_MARK
  segPins : List SegPin := []
  pinWaits : Nat := 0          -- FRT_VWAIT_CNT
  drainWaits : Nat := 0
  deriving DecidableEq, Repr

/-- A partition (R300, R301) and its hub counters. -/
structure Part where
  state : Nat := 0             -- HUB_PART state: 0 none, 1 active, 2 resetting
  gmask : Nat := 0
  classF : Bool := false
  rtQuota : Nat := 0
  created : Nat := 0           -- successful CONTEXT_CREATEs since PARTITION_CREATE (R332)
  ctxs : Tab Ctx := []
  switches : Nat := 0          -- HUB_SCHED_CNT
  restores : Nat := 0
  xcoreWaits : Nat := 0
  vwinPages : Nat := 0         -- FRT_VWIN
  vwinBase : Nat := 0
  vshdBase : Nat := 0          -- FRT_VSHD
  groups : Nat := 0            -- CRS_GRP
  groupBase : Nat := 0
  deriving DecidableEq, Repr

/-- The sequencer's state (SEQ_STATUS state codes, R122). -/
inductive SeqState where
  | idle | issuing | waiting | stopping | preempted | faulted | held
  deriving DecidableEq, Repr

/-- A fault record of SEQ_FAULT_INFO or ENG_FAULT_INFO. -/
structure FaultRec where
  cause : Nat
  kind : Nat := 0              -- type code of the descriptor
  engine : Nat := 0
  step : Nat := 0
  index : Nat
  deriving DecidableEq, Repr

/-- An open replay segment (R111). -/
structure OpenSeg where
  id : Nat
  count : Nat := 0             -- descriptors issued inside it
  deriving DecidableEq, Repr

/-- A WAIT in progress (R101, R102). -/
structure WaitRun where
  desc : Nat
  index : Nat
  deriving DecidableEq, Repr

/-- What the fetch of a descriptor has brought: its 64 bytes, or the refusal of its address (R92, R229). -/
inductive Fetched where
  | word (d : Nat)
  | refused (addr : Nat) (poison : Bool)
  deriving DecidableEq, Repr

/-- One core: its sequencer, units and counters. -/
structure Core where
  part : Nat := 0              -- owning partition of the running context
  ctx : Option Nat := none     -- running context (SEQ_CTX)
  switching : Bool := false    -- SEQ_CTX pending_switch
  stopReq : Bool := false      -- stop issuing and run to a core boundary (R120, R121, R312)
  state : SeqState := .idle
  pc : Nat := 0
  base : Nat := 0
  count : Nat := 0             -- program length
  vbase : Nat := 0
  irqRet : Nat := 0
  inHandler : Bool := false
  handlerSrc : Option Nat := none   -- the source the handler claimed (R352)
  sq : List W64 := List.replicate 16 0
  seg : Option OpenSeg := none
  wait : Option WaitRun := none
  lastStep : Option W64 := none     -- the STEP_MARK number it is held after
  resumePoint : Option (Nat × Nat) := none   -- the first UPDATE or COLL stopped under R208: descriptor, element
  resumes : List (Issued × Nat) := []   -- the UPDATEs and COLLs stopped under R208, in program order, as they stood, with k
  rotate : Bool := false       -- its context's quantum has expired with a ready peer (R307)
  cseq : Tab Nat := []         -- next cseq by group (R263, R311)
  cacheLines : List (Nat × List Fetched) := []   -- descriptor-cache lines held with their descriptors, newest first (R92)
  pairs : List (Nat × Nat) := []   -- halves 0 whose half 1 comes next in the program: serial and index (R108)
  missing : Bool := false      -- issue waits for a line (R92)
  fenceWait : Bool := false
  queueFull : Bool := false
  serial : Nat := 0            -- descriptors issued since the context started: the program order
  issued : List Issued := []   -- in program order
  tiles : List TileRun := []   -- tiles in progress, in program order
  gatherOpen : List GatherReq := []   -- requests of the open tile, in order
  gatherWait : List (List GatherReq) := []   -- requests that wait for the tiles after it, tile by tile
  slotOpen : Nat := 0          -- long-sum slots that an issued tile has opened and none has closed (R67)
  normOwner : Bool := false    -- slot 7 belongs to the norm (R216)
  waitBound : Nat := 0         -- ENG_GATHER_WAIT
  engErr : Option FaultRec := none    -- ENG_FAULT_INFO
  seqErr : Option FaultRec := none    -- SEQ_FAULT_INFO
  beats : Nat := 0
  zeroBeats : Nat := 0
  emptyBlocks : Nat := 0
  completed : Nat := 0
  empty : Nat := 0
  suppressed : Nat := 0
  parityEvents : Nat := 0
  replayCnt : Nat := 0
  tileFaults : Nat := 0
  longsumParity : Nat := 0
  accOverflow : Nat := 0
  nanToInt : Nat := 0
  gatherFull : Nat := 0
  gatherPartial : Nat := 0
  issueCnt : Nat := 0
  waitCycles : Nat := 0
  expired : Nat := 0
  dcHits : Nat := 0
  dcMisses : Nat := 0
  vecBusy : Nat := 0           -- cycles; SEQ_VEC_CNT shows them in units of 16
  vecItems : Nat := 0
  moveFull : Nat := 0
  vecNan : Nat := 0
  moveNan : Nat := 0
  updElements : Nat := 0
  updPasses : Nat := 0
  verWaits : Nat := 0
  drainWaits : Nat := 0
  normSkips : Nat := 0
  frozen : Nat := 0
  updNorm : Nat := 0           -- bits of S
  spSoft : Nat := 0
  spHard : Nat := 0
  switchesIn : Nat := 0
  savedBytes : Nat := 0        -- bytes written to save areas; SEQ_SWITCH_CNT shows KiB
  lastCtx : Option Nat := none -- the context that ran last (round robin, R306)
  descDone : Nat := 0          -- descriptor-done count of R346
  deriving DecidableEq, Repr

/-! ### Memories and the Fretboard (09) -/

/-- Every byte memory of the block and what lies behind it. -/
structure Mems where
  sp : Mem := []       -- scratchpads: core g at g * 2^22
  cm : Mem := []       -- cluster memories: cluster 8d + k at (8d + k) * 2^24
  ls : Mem := []       -- long-sum buffers: core g, slot s, cell (i, j) at g * 2^18 + s * 2^15 + (64 i + j) * 8
  acc : Mem := []      -- accumulators: engine n, bank b, cell (i, j) at n * 2^15 + b * 2^14 + (64 i + j) * 4
  hbm : Mem := []      -- stack s at s * 2^36
  lp : Mem := []       -- interleave group g at g * 2^38
  host : Mem := []     -- host memory, at host physical addresses
  deriving DecidableEq, Repr

/-- A pool of frames: an HBM3E stack or an LPDDR5X interleave group. -/
structure Pool where
  live : Bool := false
  frames : Nat := 0
  used : List Nat := []        -- frames mapped, in a window or held by a unit
  retired : List Nat := []
  deriving DecidableEq, Repr

/-- A page move between tiers by the Scroll (R231). The Resonator's swaps are in `ResPart.swapping`. -/
structure PageMove where
  page : Nat
  tier : Nat
  frame : Nat
  deriving DecidableEq, Repr

/-- A writer of versioned pages (R206): the descriptor of an UPDATE or of an all-gather, by core, context and index. -/
structure Writer where
  core : Nat
  ctx : Nat
  index : Nat
  deriving DecidableEq, Repr

/-- Who accesses device memory, as far as R228 asks. -/
inductive Who where
  | plain | codec | vault | resonator
  deriving DecidableEq, Repr

/-- A write of a hub unit that waits for the end of a page's move or drain (R228, R231). -/
structure LateWrite where
  part : Nat
  source : Nat                 -- as FRT_FAULT_INFO names the unit
  unit : Who := .plain
  addr : Nat
  bytes : List Byte
  deriving DecidableEq, Repr

/-- A device-side write held by the snoop filter until BIRsp (R246). -/
structure HeldWrite where
  line : Nat                   -- line of the host window
  entry : Nat                  -- the entry under which it was translated
  addr : Nat                   -- device address of its first byte
  bytes : List Byte
  deriving DecidableEq, Repr

/-- The Fretboard and its registers (R222 to R247), with the version registers of R221. -/
structure Frt where
  entry : Tab Nat := []        -- page index to its 64-bit entry; an unlisted entry is 0, not valid
  pools : Tab Pool := []       -- 0 to 11 stacks, 12 to 15 groups
  lastPool : List Nat := [2, 5, 8, 11, 15]   -- the pool each tier used last (R225)
  poisonPages : Nat := 0
  retiredFrames : Nat := 0
  hwinPart : Nat := 0
  hwinPages : Nat := 0
  hwinBase : Nat := 0
  faultValid : Bool := false
  faultPoison : Bool := false
  faultPart : Nat := 0
  faultSource : Nat := 0
  faultAddr : Nat := 0
  moves : List PageMove := []
  claims : List (Nat × Option Writer) := []  -- entries (page indexes) whose buffer is claimed and not yet advanced, with the
                               -- writer, none where it was abandoned (R207)
  snoop : List Nat := []       -- host-window lines in the filter, oldest entry first (R246)
  held : List HeldWrite := []
  evicting : List Nat := []    -- lines that leave the full filter: their BISnp has no answer yet (R246)
  hostReads : List Nat := []   -- lines of host reads that wait for room in the filter, oldest first (R246)
  poisoning : List Nat := []   -- pages that are poisoned once the host has given up their lines (R232, R246)
  late : List LateWrite := []  -- writes that wait for a page, oldest first
  silent : Bool := false       -- the host leaves the CXL.cache requests unanswered (R244)
  clCache : Tab (List Nat) := []   -- cluster translation caches: page indexes held, newest first
  dieCache : Tab (List Nat) := []  -- by die * 512 + set
  walks : List (Nat × Nat × Nat) := []   -- lookups on their way to the Fretboard: die, cluster, page
  vselPart : Nat := 0
  vselCtx : Nat := 0
  deriving DecidableEq, Repr

/-- The registers of a memory controller. -/
structure MemReg where
  state : Nat := 0
  rate : Nat := 0
  uncorrectable : Nat := 0
  usable : Nat := 0            -- LPDDR5X: usable_gib code
  onDie : Nat := 0             -- ondie_corrected, or link_retries of an interface
  corrected : Nat := 0
  passes : Nat := 0
  gap : Nat := 256
  scrubAt : Nat := 0           -- lines read in the present scrub pass
  deriving DecidableEq, Repr

/-- A die: its translation cache counters and collective unit. -/
structure Die where
  dtcHits : Nat := 0
  dtcWalks : Nat := 0
  dtcInval : Nat := 0          -- invalidations; the register shows units of 1,024
  collCompleted : Nat := 0
  a2aOverflow : Nat := 0
  collFailures : Nat := 0
  collFault : Option (Nat × Nat × Nat × Nat × Nat) := none   -- cause, core, peer, group, cseq
  deriving DecidableEq, Repr

/-- A cluster: its memory error counters and Scroll codec (07). -/
structure Cluster where
  cmCorrected : Nat := 0
  cmUncorrectable : Nat := 0
  refCfg : Nat := 16           -- SCR_REF_CFG
  refSlots : Nat := 16         -- the value in effect
  compressed : Nat := 0
  decompressed : Nat := 0
  refMisses : Nat := 0
  redecoded : Nat := 0
  budgetMiss : Nat := 0
  nonfinite : Nat := 0
  refs : List (Nat × Nat × Nat) := []   -- reference slots: record address, slot, raw bytes, most recent first
  deriving DecidableEq, Repr

/-! ### The Scroll (07) -/

/-- A Scroll page: a page of a partition's Scroll window with a frame, or one kept absent (R173, R174). -/
structure ScrPage where
  page : Nat                   -- page index
  tier : Nat
  cluster : Nat                -- codec that opened it
  droppable : Bool
  fill : Nat := 0              -- bytes taken from its start
  open_ : Bool := true
  pieces : List Nat := []      -- record addresses of the pieces with bytes in it
  demoted : Bool := false      -- one of its pieces was demoted
  deriving DecidableEq, Repr

/-- A replay of a dropped piece (R190). -/
structure ReplayRun where
  requester : Nat              -- core
  serial : Nat                 -- of its SCROLL get
  record : Nat
  helper : Option Nat := none
  waited : Bool := false       -- its wait for the helper's units is counted (R309)
  deriving DecidableEq, Repr

/-- The Scroll of one partition (R197). -/
structure ScrPart where
  ptSize : Nat := 0
  ptBase : Nat := 0
  segSize : Nat := 0
  segBase : Nat := 0
  winPages : Nat := 0
  winBase : Nat := 0
  quotaSec : Nat := 0
  quotaHbm : Nat := 0
  hbmHigh : Nat := 0xE8
  hbmLow : Nat := 0xD0
  secHigh : Nat := 0xF0
  secLow : Nat := 0xE0
  level : Nat := 0
  demoted : Nat := 0
  redirected : Nat := 0
  migrated : Nat := 0
  replayCnt : Nat := 0
  poisonReplays : Nat := 0
  selfHelped : Nat := 0
  pages : List ScrPage := []
  pieces : List (Nat × Nat) := []  -- record addresses of the pieces not yet released, each with its context, oldest put first
  hostFree : List Nat := []    -- host frames of the window that no page uses (tier 5)
  replays : List ReplayRun := []
  deriving DecidableEq, Repr

/-- The Scroll directory. -/
structure Scr where
  promote : Bool := false
  override : Bool := false
  enable : Bool := false
  parts : Tab ScrPart := []
  err : Option (Nat × Nat × Nat × Nat) := none   -- cause, partition, core, record index
  deriving DecidableEq, Repr

/-! ### Courses (10) -/

/-- A message (R252). -/
structure Msg where
  vc : Nat := 1
  cls : Nat := 0
  dst : Nat := 0
  src : Nat := 0
  srcPart : Nat := 0
  mkind : Nat := 0
  op : Nat := 0
  fmt : Nat := 0
  core : Nat := 0
  group : Nat := 0
  cseq : Nat := 0
  count : Nat := 0
  offset : Nat := 0
  hop : Nat := 0
  dstPart : Nat := 0
  reason : Nat := 0
  data : List Byte := []
  deriving DecidableEq, Repr

/-- A message on its way out: with the class that it leaves in, and, of one that is forwarded, the course and the class that it
arrived in. -/
structure Queued where
  msg : Msg
  via : Option (Nat × Nat) := none
  owed : Bool := false         -- its receive buffer on that course is not freed yet (R255)
  deriving DecidableEq, Repr

/-- A course port (R249 to R257, R277). -/
structure Port where
  state : Nat := 0             -- 0 training, 1 up, 2 retraining, 3 down
  rate : Nat := 0
  width : Nat := 0
  lanes : Nat := 0
  peer : Nat := 0
  attempt : Nat := 0           -- index of the option of R256 now tried
  wBulk : Nat := 2
  wColl : Nat := 4
  wMirror : Nat := 1
  dateline : Bool := false
  fecLimit : Nat := 16
  widths : Nat := 0xF
  rates : Nat := 3
  txFlits : Nat := 0           -- numbered flits; the registers show units of 1,024
  rxFlits : Nat := 0
  crcErrors : Nat := 0
  naks : Nat := 0
  retrains : Nat := 0
  resent : Nat := 0
  fecCorrected : Nat := 0
  fecUncorrected : Nat := 0
  fecWords : Nat := 0          -- codewords of the present window of 2^20, and those of them not correctable (R257)
  fecBad : Nat := 0
  txSeq : Nat := 0             -- next sequence number
  retry : List (Nat × List Byte) := []   -- flits not acknowledged, oldest first
  acked : Nat := 0             -- flits at the front of the retry buffer that are acknowledged and kept for their message
  held : List Queued := []     -- messages with flits in the retry buffer, oldest first
  queue : List Queued := []    -- messages that wait for credits or for the retry buffer
  used : Tab Nat := []         -- flits sent since training, by vc * 2 + class
  freed : Tab Nat := []        -- flits whose buffer the receiver has freed, by vc * 2 + class
  turns : List Nat := [2, 4, 1]    -- messages that VC 0, 1 and 3 may still send in this round
  nakSeq : Nat := 0            -- the seq that the last negative acknowledgement received named
  nakRuns : Nat := 0           -- how often it has been named without progress
  rxSeq : Nat := 0             -- expected sequence number
  rxDrop : Bool := false       -- a NAK has been sent and the expected flit has not yet come
  partial_ : Tab (List (List Byte)) := []   -- flits of messages not yet whole, by vc * 2 + class
  arrived : List Msg := []     -- whole messages not yet forwarded or consumed, oldest first
  rxFreed : Tab Nat := []      -- flits whose buffer has been freed, by vc * 2 + class: the credits returned
  deriving DecidableEq, Repr

/-- A part of an update record received (R274). -/
structure LandPart where
  step : Nat                   -- of its record, modulo 2^16
  core : Nat
  index : Nat
  offset : Nat
  bytes : List Byte
  deriving DecidableEq, Repr

/-- An update record received whole (R274). -/
structure Landed where
  step : Nat                   -- modulo 2^16
  core : Nat
  index : Nat
  bytes : List Byte
  deriving DecidableEq, Repr

/-- The pair binding of a partition (R272 to R276). -/
structure Pair where
  state : Nat := 0             -- 0 unbound, 1 binding, 2 bound, 3 diverged, 4 broken
  cause : Nat := 0
  node : Nat := 0
  npart : Nat := 0
  shipped : Nat := 0
  valid : Bool := false        -- CRS_PAIR_STEP
  step : Nat := 0
  ctx : Nat := 0               -- the context whose UPDATEs are shipped
  mirrorBase : Nat := 0
  mirrorPages : Nat := 0
  plainBase : Nat := 0
  plainPages : Nat := 0
  plainMirror : Nat := 0
  landBase : Nat := 0
  landPages : Nat := 0
  matched : Bool := false      -- the partner's matching bind has arrived
  copied : Nat := 0            -- bytes of bind copy received
  peerDone : Bool := false     -- the partner has said that it holds this side's copy
  sentCount : Nat := 0         -- update records shipped in the open step
  checksum : Nat := 0          -- exclusive or of the CRCs of the open step's UPDATEs
  partial_ : List LandPart := []     -- parts of update records received
  landed : List Landed := []         -- update records received whole and not applied
  landedScheds : List (List Byte) := []         -- schedule records received, oldest first
  landedSteps : List (Nat × Nat × Nat) := []    -- step records received, oldest first: step, records, checksum
  applied : Nat := 0           -- records of that step that have been applied
  applyCrc : Nat := 0          -- exclusive or of their CRCs
  applyWait : List (Nat × Bool) := []   -- the page at which an application waits, and whether the wait is counted
  deriving DecidableEq, Repr

/-- A page, or a schedule record, of a bind copy or a fill that is still to be sent: its host has not answered (R244). -/
structure CopyOut where
  part : Nat
  node : Nat
  npart : Nat
  op : Nat                     -- as the messages carry it
  ordinal : Nat
  addr : Nat
  deriving DecidableEq, Repr

/-- The hub's course state. -/
structure Crs where
  nodeId : Nat := 0
  routes : Tab Nat := []       -- CRS_ROUTE: bit 31 valid, bits 15:0 courses
  ports : Tab Port := []       -- by course 0 to 15; 16 holds messages for the package itself (R258)
  pairs : Tab Pair := []       -- by partition
  heldColl : List (Nat × Msg) := []   -- collective messages held for a COLL not yet issued, with the course that holds their credits
  hands : List Msg := []       -- bind and fill handshakes that no command has matched yet
  copies : List CopyOut := []  -- what bind copies and fills have still to send, oldest first
  deriving DecidableEq, Repr
/-! ### The Resonator (06) -/

/-- One layer of a sequence: its pages in position order and its fixed scales (R151), empty before the first append. -/
structure ResLayer where
  pages : List Nat := []       -- page indexes
  kscale : List Nat := []      -- E8M0 codes by head
  vscale : List Nat := []
  deriving DecidableEq, Repr

/-- A sequence (R145 to R165). -/
structure ResSeq where
  part : Nat
  ctx : Nat
  key : Nat
  params : List Byte           -- bytes 16 to 63 of its KV_SEQ_OPEN, with its own key and addresses
  cmd : Option Nat := none     -- the KV_SEQ_OPEN that waits for it to be placed
  order : Nat := 0             -- acceptance number of that command
  deferred : Bool := false     -- its join has been deferred by an earlier fold
  status : Nat := 0            -- 0 joining, 1 active, 2 pre-empted, 3 closed, 4 faulted (R150)
  next : Nat := 0              -- positions ever appended
  cut : Option Nat := none     -- a fork's prefix length, until its first append drops the slots from there on
  floor : Nat := 0             -- positions below it have been removed under wframes (R158)
  layers : List ResLayer := []
  swapped : List Nat := []     -- pages swapped out
  held : Bool := false         -- its append buffer holds appends of a step in which it was pre-empted
  preOrder : Nat := 0          -- place in the order of pre-emptions
  lastAppend : Nat := 0        -- place in the order of appends
  deriving DecidableEq, Repr

/-- A fold in progress (R155). -/
structure FoldRun where
  ctx : Nat
  step : W64
  todo : List Nat              -- keys of the sequences still to fold, ascending
  preempted : List Nat := []   -- keys pre-empted in this fold
  waitKey : Option Nat := none -- the victim whose swap copies the first of `todo` waits for
  upTo : Nat := 0              -- commands with a smaller acceptance number belong to the fold (R154)
  deriving DecidableEq, Repr

/-- The Resonator's state for a partition. -/
structure ResPart where
  free : List Nat := []        -- pages of the pool that are free
  deferred : List Nat := []
  swapFree : List Nat := []    -- free places of the swap area
  evicted : Nat := 0
  cow : Nat := 0
  preemptOthers : Nat := 0
  selfPreempt : Nat := 0
  resumes : Nat := 0
  deferredJoins : Nat := 0
  saturations : Nat := 0
  overBudget : Nat := 0
  views : Tab (List Nat) := [] -- by context: pages that its view pins
  swapping : List (Nat × Nat × Nat) := []   -- pages whose swap copy runs: key, page, place
  fold : Option FoldRun := none
  folded : Tab W64 := []       -- by context: the step whose fold has written its views
  foldPre : Tab Nat := []      -- by context: sequences pre-empted in that fold
  viewWrites : List (Nat × Nat × Nat) := []   -- view records written: context, address, bytes; none is kept once it stands in memory
  deriving DecidableEq, Repr

/-- The Resonator (R166). -/
structure Res where
  policy : Nat := 0
  enable : Bool := false
  seqs : List ResSeq := []     -- by acceptance
  parts : Tab ResPart := []
  clock : Nat := 0             -- places given out in the orders of pre-emptions and appends
  err : Option (Nat × Nat × Nat × Nat) := none   -- cause, partition, layer, key
  deriving DecidableEq, Repr

/-! ### Pegbox and Unison (11) -/

/-- Where a sample stands. -/
inductive SampleState where
  | waiting                    -- in a batch, not yet in the window
  | window
  | pipe (p : Nat)
  | ready                      -- output and status entry written
  deriving DecidableEq, Repr

/-- A sample of a queue that has not been emitted (R281, R287). -/
structure PegSample where
  serial : Nat
  desc : List Byte             -- its 64 bytes
  state : SampleState := .waiting
  reason : Nat := 0
  set : Bool := false          -- its set is complete and its entry is written (R294)
  deriving DecidableEq, Repr

/-- A batch not fully emitted (R282, R289). -/
structure PegBatch where
  first : Nat                  -- first_serial
  count : Nat
  record : Nat
  params : List Byte           -- its 192 bytes
  seed : W64
  fn : Nat                     -- the function that submitted it
  voids : Nat := 0
  deriving DecidableEq, Repr

/-- An input queue. -/
structure PegQueue where
  enable : Bool := false
  failBatch : Bool := false
  part : Nat := 0
  timeout : Nat := 0
  emitCtr : Nat := 0
  batches : List PegBatch := []
  samples : List PegSample := []
  cursor : Nat := 0
  decoded : Nat := 0
  batchFails : Nat := 0
  windowFull : Nat := 0
  voids : Nat := 0
  full : Bool := false         -- the window was full when last looked at
  batchFailed : Bool := false  -- its Bridge source (R291)
  lastTs : Nat := 0            -- ts of the last sample that joined the stream (R295)
  deriving DecidableEq, Repr

/-- Pegbox. -/
structure Peg where
  pipeEn : Nat := 0xFFFF
  enable : Bool := false
  queues : Tab PegQueue := []
  lastQueue : Tab Nat := []    -- by pipe: the queue that it served last; 15 where none is listed (R287)
  bitstream : Nat := 0
  unsupported : Nat := 0
  timeouts : Nat := 0
  other : Nat := 0
  err : Option (Nat × Nat × Nat × Nat) := none   -- reason, queue, pipe, serial
  deriving DecidableEq, Repr

/-- What Unison keeps of a sample of a stream (R296). -/
structure UniSample where
  serial : Nat
  ts : Nat                     -- nanoseconds
  isVoid : Bool := false
  orderVoid : Bool := false
  emitted : Bool := false
  chosen : Bool := false
  spent : Bool := false        -- it has been counted as unused
  deriving DecidableEq, Repr

/-- A Unison group (R293). -/
structure UniGroup where
  active : Bool := false
  ref : Nat := 0               -- stream index of the reference
  tol : Nat := 0
  ended : Nat := 0
  streams : List (Nat × Bool) := []   -- queue and policy hold
  samples : List (List UniSample) := []   -- by stream
  sets : Nat := 0
  held : Nat := 0
  missing : Nat := 0
  deriving DecidableEq, Repr

/-- UNI_SCNTn. -/
structure UniCnt where
  chosen : Nat := 0
  unused : Nat := 0
  orderVoids : Nat := 0
  deriving DecidableEq, Repr

/-- Unison. -/
structure Uni where
  groups : Tab UniGroup := []
  counts : Tab UniCnt := []    -- by queue
  deriving DecidableEq, Repr

/-! ### Bridges (14) -/

/-- A coalescing group (R357). -/
structure BrgGroup where
  tclk : Bool := false
  state : Nat := 0             -- 0 idle, 1 holding, 2 released
  timeThr : Nat := 0
  countThr : Nat := 1
  arrivals : Nat := 0
  deriving DecidableEq, Repr

/-- A Bridge (R345 to R358): 0 to 3 on the dies, 4 in the hub. -/
structure Bridge where
  gdis : Bool := false
  maskMode : Bool := false
  enable : Bool := false
  delivered : Nat := 0
  spurious : Nat := 0
  stray : Nat := 0
  mask : Nat := 2 ^ 1024 - 1   -- bit s masks source s
  soft : Nat := 0
  active : Tab Nat := []       -- active source and its claimant
  groups : Tab BrgGroup := []
  targets : Tab Nat := []      -- BRG_SRC_TGTs
  configs : Tab Nat := []      -- BRG_SRC_CFGs where it differs from its value at reset
  seen : List Nat := []        -- sources last seen pending: an arrival is a change from not pending to pending
  lost : List Nat := []        -- targets whose offer the claim of another target has taken away, and which have not claimed since
  deriving DecidableEq, Repr

/-! ### Luthier, checkpoints and fills (15) -/

/-- Luthier (R361 to R363, R377). -/
structure Lth where
  secureEn : Bool := true
  enable : Bool := true
  period : Nat := 1024
  secureNow : Bool := false
  evFailed : Bool := false
  evCommitted : Bool := false
  evRaised : Bool := false
  risk : Nat := 0
  sT : Nat := 0
  sE : Nat := 0
  sC : Nat := 0
  sD : Nat := 0
  wT : Nat := 96
  wE : Nat := 64
  wC : Nat := 48
  wD : Nat := 32
  threshold : Nat := 160
  hysteresis : Nat := 32
  decay : Nat := 4
  tHi : Nat := 400
  tLo : Nat := 340
  temps : List (Nat × Nat) := [(0, 0), (0, 0), (0, 0), (0, 0)]    -- LTH_TEMPd: sensor, reading
  opened : Nat := 0
  skipped : Nat := 0
  failed : Bool := false
  committed : Bool := false
  part : Nat := 0
  id : Nat := 0
  evaluations : Nat := 0
  raises : Nat := 0
  corrections : Nat := 0       -- c of R361, in the present period
  retrains : Nat := 0          -- r
  uncorrected : Tab Nat := []  -- uncorrected codewords by course
  droops : Nat := 0            -- d
  peaks : List (Nat × Nat) := [(0, 0), (0, 0), (0, 0), (0, 0)]    -- hottest reading of each die in the period: sensor, reading
  now : List (Nat × Nat) := [(0, 0), (0, 0), (0, 0), (0, 0)]      -- hottest reading of each die in the last sample
  deriving DecidableEq, Repr

/-- One page of a generation (R411). -/
structure GenPage where
  page : Nat                   -- page index of the device address it belongs to
  entry : Nat                  -- page index whose entry holds the bytes: the primary's or the shadow's
  kind : Nat                   -- 0 plain, 1 Resonator, 2 versioned buffer, 3 schedule record
  version : Nat := 0
  deriving DecidableEq, Repr

/-- An open checkpoint (R365 to R369). -/
structure Ckpt where
  part : Nat
  ctx : Nat
  id : Nat
  auto : Bool := false
  orphan : Bool := false       -- its context is gone; its drain goes on and it is closed at the end (R302)
  captured : Bool := false
  step : W64 := 0
  todo : List GenPage := []    -- pages still marked, in drain order
  drained : List GenPage := [] -- pages drained, in order
  sched : Nat := 0             -- device address of its schedule record
  node : Nat := 0              -- node id at the capture
  openedAt : Nat := 0          -- acceptance number of the next command when it was opened
  area : Option Nat := none    -- the area it drains into
  failed : Option Nat := none  -- VAULT_FULL or VAULT_MEDIA
  cmds : List Nat := []        -- the CHECKPOINT_COMMITs that wait
  deriving DecidableEq, Repr

/-- A SPARE_FILL (R373 to R376). -/
structure Fill where
  cmd : Nat
  part : Nat
  ctx : Nat
  node : Nat                   -- the other side
  npart : Nat
  receiver : Bool
  matched : Bool := false      -- the other side has said that it is ready
  total : Nat := 0             -- bytes that the receiver expects
  got : Nat := 0               -- bytes received
  deriving DecidableEq, Repr

/-- Checkpoints and fills. -/
structure Job where
  plans : Tab Nat := []        -- VLT_PLANn
  ckpts : List Ckpt := []      -- in the order of opening
  captures : List (Nat × Nat) := []   -- partition and context of captured ones, in the order of capture
  fills : List Fill := []
  reopen : List ResSeq := []   -- sequences a restore reopens at the next fold (R370)
  deriving DecidableEq, Repr

/-! ### Identity and bring-up (16) -/

/-- The self-test record of R388. -/
structure TestRecord where
  granules : Nat               -- granule_ok
  pipes : Nat                  -- pipe_ok
  hbms : Nat                 -- live stacks
  interfaces : Nat             -- live LPDDR5X interfaces
  badStacks : Nat              -- stacks that its memory test lost
  badInterfaces : Nat          -- interfaces that its memory test lost
  census : Nat
  deriving DecidableEq, Repr

/-- The repair map in the fuses (R392): the cluster left unused on each die, the cell columns bypassed in each engine, and the
banks replaced in each scratchpad and each cluster memory. -/
structure RepairMap where
  unused : List Nat := [8, 8, 8, 8]   -- by die, physical cluster 0 to 8
  columns : Tab (List Nat) := []      -- by global engine, physical columns 0 to 65
  spBanks : Tab (List Nat) := []      -- by core, physical banks 0 to 65
  cmBanks : Tab (List Nat) := []      -- by cluster, physical banks 0 to 33
  deriving DecidableEq, Repr

/-- What the CXL link has trained to: lanes, rate in GT/s, and 68-byte flits in place of 256-byte ones (R319). -/
structure CxlLink where
  lanes : Nat
  rate : Nat
  flit68 : Bool
  deriving DecidableEq, Repr

/-- Identity and bring-up (R380, R394). -/
structure Boot where
  stage : Nat := 0             -- HUB_BOOT state
  haltCause : Nat := 0
  slotBad : Nat := 0
  readyStamp : Nat := 0
  fwVersion : Nat := 0
  secVersion : Nat := 0
  slot : Nat := 0
  recovery : Bool := false
  path : Nat := 0
  pipeOk : Nat := 0
  granuleOk : Nat := 0
  vaultLive : Nat := 0
  vaultLost : Nat := 0
  hbmLive : Nat := 0
  hbmLost : Nat := 0
  lpLive : Nat := 0
  lpLost : Nat := 0
  lpGroups : Nat := 0
  fullTest : Bool := false
  census : Nat := 0
  recorded : Nat := 0
  record : Option TestRecord := none
  attempts : Tab Nat := []     -- failed attempts of a training interface: stack s, 16 + interface i, 32 + vault channel c
  events : Nat := 0            -- events of the census since the start of this bring-up
  image : List Byte := []      -- the first 4 KiB of the running image
  engine : List Byte := []     -- what stage 5 has broadcast
  activate : Option (Nat × Nat) := none   -- FW_ACTIVATE has asked for a warm reset: the queue, and its count once the OK is written (R440)
  clockLost : Bool := false    -- a reference clock has been lost after bring-up (R461)
  dead : List Nat := []        -- dies whose course clock is missing or lost (R461)
  stopped : Bool := false      -- every PLL stopped (R427), or the hub's reference clock lost (R461)
  cxl : Option CxlLink := none -- what the CXL link has trained to, while it is up (R319)
  media : Nat := 0             -- Memory Device Status, Media Status: 0 Not Ready, 1 Ready, 2 Error (R382)
  repair : RepairMap := {}     -- the repair map that the boot ROM has applied (R380, R392)
  powered : Bool := true       -- PWRGD
  deriving DecidableEq, Repr

/-- The pins that the block drives (20): true is asserted. -/
structure Pins where
  thermtrip : Bool := false    -- THERMTRIP_N low
  alert : Bool := false        -- ALERT_N low
  fault : Bool := false        -- FAULT_N low
  avs : List Nat := [600, 600, 600, 600]   -- the voltage each die requests, in millivolts
  deriving DecidableEq, Repr

/-! ### Serial flash, life log and vault (17) -/

/-- The serial flash and its controller. -/
structure Flash where
  capacity : Nat := 1          -- SFL_STATUS capacity code, of the board's part
  copies : List (List Byte) := [[], []]    -- configuration block copies A and B, their first 64 bytes
  slots : List Mem := [[], []] -- boot slots
  log : Tab (List Byte) := []  -- by slot of the ring
  fail : Bool := false
  nextSeq : Nat := 0
  queue : List (List Byte) := []   -- records waiting: bytes 4 to 59, seq and crc are set at the write
  torn : Nat := 0
  dropped : Nat := 0
  at_ : Nat := 0               -- slot of the ring that the next record takes
  wall : Nat := 0
  powerOn : Nat := 0           -- lifetime totals of R400
  thermalCycles : Nat := 0
  retrains : Nat := 0
  corrected : Nat := 0
  uncorrected : Nat := 0
  maxErase : Nat := 0
  drops : Nat := 0             -- records dropped under R402
  cold : Bool := false         -- the hottest die has been below 45 °C since the last thermal cycle
  deriving DecidableEq, Repr

/-- A copy of the vault's metadata (R407, R408). Block b of die d of the dies in use is d times a die's blocks, plus b. -/
structure NandTable where
  seq : Nat := 0
  map : Tab Nat := []          -- the block that holds a segment
  bad : List Nat := []         -- the bad-block table
  spares : List Nat := []      -- the pool of spare blocks
  base : Nat := 0              -- erases of every block by formats
  erases : Tab Nat := []       -- other erases of a block
  crc : Nat := 0               -- CRC-64 of the rest
  deriving DecidableEq, Repr

/-- The vault. -/
structure Vault where
  scrubEn : Bool := true
  enable : Bool := false
  state : Nat := 0
  evMedia : Bool := false
  evSpares : Bool := false
  doneMib : Nat := 0
  areas : Nat := 0
  areaGib : Nat := 0
  dies : Nat := 0
  excluded : Nat := 0
  usableGib : Nat := 0
  genGib : Nat := 0
  lastArea : Nat := 0
  lastPart : Nat := 0
  lastId : Nat := 0
  tables : List NandTable := []   -- the copies of the metadata
  spareAtFormat : Nat := 0     -- spare blocks at the last format
  dieBlocks : Nat := 2048      -- blocks of a die, as its parameter page gives them
  blockBytes : Nat := 2 ^ 24   -- user bytes of a block, which are a segment
  progAt : Nat := 0            -- the vault offset after the last byte programmed: its segment's block is open from there on
  uncorrectable : Nat := 0
  programFails : Nat := 0
  readRetries : Nat := 0
  refreshes : Nat := 0
  passes : Nat := 0
  refreshThr : Nat := 48
  scrubGap : Nat := 43
  media : Mem := []            -- the vault's bytes, by vault offset
  damaged : List Nat := []     -- uncorrectable codewords, by vault offset divided by 4 KiB
  scrubAt : Nat := 0           -- the first codeword that this patrol pass has not passed, as in damaged
  deriving DecidableEq, Repr

/-! ### Bow (18) -/

/-- A die's power and heat control (R421 to R426). -/
structure BowDie where
  hot : Bool := false
  gliding : Bool := false
  gate : Nat := 0
  gateMin : Nat := 0           -- the lowest and the highest gating level of this grant period
  gateMax : Nat := 0
  stage : Nat := 1
  step : Nat := 3
  goal : Nat := 3              -- the step it glides to or has requested a voltage for
  asking : Bool := false       -- a higher voltage has been requested and not confirmed
  halved : Bool := false       -- under R424
  high : Nat := 0              -- consecutive periods at or above step_down_level
  low : Nat := 0               -- consecutive periods at level 0
  draw : Nat := 0              -- measured full-rate draw at the present step, in watts
  streaming : Nat := 0         -- engines streaming, as R423 counts them
  demand : Nat := 0
  droops : Nat := 0
  steps : Nat := 0
  hotEntries : Nat := 0
  deriving DecidableEq, Repr

/-- Bow (R417 to R427, R432). -/
structure Bow where
  upPeriods : Nat := 16
  stepPeriods : Nat := 4
  stepDownLevel : Nat := 2
  rampGap : Nat := 4
  enable : Bool := true
  belowFloor : Bool := false
  watts : Nat := 1500
  memFloor : Nat := 80
  hubFloor : Nat := 90
  dieFloor : Nat := 60
  weights : List Nat := [16, 16, 16, 16]
  demands : List Nat := [0, 0, 0, 0, 0, 0]
  grants : List Nat := [0, 0, 0, 0, 0, 0]
  dies : Tab BowDie := []
  evHot : Bool := false
  evFloor : Bool := false
  thermHyst : Nat := 8
  tThrottle : Nat := 400
  droopHold : Nat := 1024
  droopMv : Nat := 50
  deriving DecidableEq, Repr

/-! ### Security (19) -/

/-- The link IDE stream of CXL.io or CXL.cachemem (R443). -/
structure IdeStream where
  next : Option (List Byte) := none     -- the key programmed for the next KEY_SET_GO
  active : Option (List Byte) := none   -- the key in use
  deriving DecidableEq, Repr

/-- The security engine (R433 to R448). -/
structure Sec where
  evStageFail : Bool := false
  evUnlock : Bool := false
  evUnlockFail : Bool := false
  debug : Nat := 0
  sessions : Nat := 0
  ide : Tab IdeStream := []    -- 0 CXL.io, 1 CXL.cachemem
  aliasOk : Bool := false
  keyOk : Bool := false
  fuses : Nat := 0             -- the fuse counter, kept by the fuses
  devId : Nat := 0             -- SEC_DEVID, loaded at stage 1
  fuseId : Nat := 0            -- the device id that the certificate store holds
  fuseMap : RepairMap := {}    -- the repair map, kept by the fuses (R392)
  sealedKey : BitVec 256 := 0  -- the sealed device private key, kept by the fuses (R433)
  caCert : List Byte := []     -- the certificate store: the product CA's certificate
  idCert : List Byte := []     -- the certificate store: the device identity certificate
  deviceKey : Option (BitVec 256) := none   -- the unsealed device private key
  aliasKey : Option (BitVec 256) := none    -- the alias private key (R435)
  aliasCert : List Byte := []  -- the alias certificate
  stageValid : Bool := false
  stageSlot : Nat := 0
  stageSec : Nat := 0
  stageFw : Nat := 0
  attests : Nat := 0
  spdmErrors : Nat := 0
  unlockFails : Nat := 0
  stageFails : Nat := 0
  challenge : Option (List Byte) := none
  failures : Nat := 0          -- failed responses since the last warm reset
  negotiated : Bool := false   -- an SPDM connection has been negotiated
  answer : List Byte := []     -- what the last SPDM request was answered with: measurements, certificates or their digest (R441, R442)
  sbAddr : Nat := 0x30         -- the sideband's static address (R463)
  sbDynamic : Option Nat := none   -- the address that an I3C controller has assigned; none: SMBus
  sbAnswers : Nat := 0         -- messages answered
  handshakes : Nat := 0        -- KEY_EXCHANGEs not yet finished
  deriving DecidableEq, Repr


/-! ### Capo (12) -/

/-- The job record that enable reads (R314). -/
structure CapoRec where
  budget : Nat := 0
  recoverSlack : Nat := 0
  recoverFrames : Nat := 0
  mctr : Nat := 0
  fullImg : Nat := 0
  cheapImg : Nat := 0
  logBase : Nat := 0
  logEntries : Nat := 0
  milestones : List (Nat × Nat) := []   -- increment, weight
  deriving DecidableEq, Repr

/-- The frame in progress. -/
structure CapoFrame where
  number : Nat
  cmd : Nat                    -- the accepted LAUNCH
  c0 : W64                     -- milestone counter at release
  reached : Nat := 0           -- milestones already seen
  cheap : Bool := false        -- runs the cheaper model
  late : Bool := false         -- D has passed
  missed : Bool := false       -- the miss has been counted
  deriving DecidableEq, Repr

/-- A Capo job (R314 to R318). -/
structure CapoJob where
  enable : Bool := false
  cheap : Bool := false        -- mode
  part : Nat := 0
  ctx : Nat := 0
  record : Nat := 0
  rec_ : CapoRec := {}
  frames : Nat := 0
  logWritten : Nat := 0
  switches : Nat := 0
  misses : Nat := 0
  nextFrame : Nat := 0
  frame : Option CapoFrame := none
  slacks : List Int := []      -- slacks of the last finished frames, newest first
  event : Bool := false        -- its Bridge source
  deriving DecidableEq, Repr

/-! ### The block -/

/-- An MSI-X message sent: its function and vector, and the address and the data of the vector's table entry (R340). -/
structure MsixMsg where
  fn : Nat
  vector : Nat
  addr : Nat
  data : Nat
  deriving DecidableEq, Repr

/-- The hub's command path. -/
structure Hub where
  fns : Tab Fn := []
  vfEnable : Bool := false
  nextNumber : Nat := 0        -- acceptance number of the next command
  accepted : List Cmd := []    -- in acceptance order
  lastQueue : List Nat := []   -- by class: function * 32 + pair served last
  msix : List MsixMsg := []    -- MSI-X messages sent, newest first
  deriving DecidableEq, Repr

/-- What the board populates and straps (R463, R464). -/
structure Board where
  lps : Nat := 0xFFFF          -- LPDDR5X interfaces populated
  channels : Nat := 8          -- ONFI channels populated, from channel 0
  straps : Nat := 0            -- SB_ADDR1 and SB_ADDR0, read at PWRGD
  deriving DecidableEq, Repr

/-- The state of the block. -/
structure State where
  hub : Hub := {}
  parts : Tab Part := []
  cores : Tab Core := []
  clusters : Tab Cluster := []
  dies : Tab Die := []
  frt : Frt := {}
  mems : Mems := {}
  hbms : Tab MemReg := []
  lps : Tab MemReg := []
  scr : Scr := {}
  crs : Crs := {}
  capo : Tab CapoJob := []
  res : Res := {}
  peg : Peg := {}
  uni : Uni := {}
  bridges : Tab Bridge := []   -- 0 to 3 the dies', 4 the hub's
  lth : Lth := {}
  jobs : Job := {}
  partCode : Nat := 1          -- HUB_CAP0 part: 1 VNG-4800, 2 VNG-4800-S, 3 VNG-4800-M
  board : Board := {}
  boot : Boot := {}
  pins : Pins := {}
  flash : Flash := {}
  vault : Vault := {}
  bow : Bow := {}
  sec : Sec := {}
  rdata : Nat := 0             -- what the last REGISTER_READ_RC, or read of the host window, returned; bit 512 is CXL poison
  fresh : Nat := 0             -- place of the next free value
  pending : List Instr := []   -- commands waiting, first in, first out
  deriving DecidableEq, Repr

/-- The block right after a cold reset. -/
def State.reset : State := {}

end Sys2Proof.Machine
end

