-- ==== Sys2Proof/Machine/Ops.lean ====
section
/-! DEFINITION. The named operations every meaning is written with: access to the parts of the state, the Fretboard's
translation (R222 to R232), reads and writes of device, host and on-die memory, counters, and free values. -/

namespace Sys2Proof.Machine

/-! ### Parts of the state -/

/-- Core `g`. -/
def State.core (s : State) (g : Nat) : Core := Tab.get {} s.cores g
/-- The state with core `g` changed. -/
def State.modCore (s : State) (g : Nat) (f : Core → Core) : State := { s with cores := Tab.update {} s.cores g f }
/-- Partition `n`. -/
def State.part (s : State) (n : Nat) : Part := Tab.get {} s.parts n
/-- The state with partition `n` changed. -/
def State.modPart (s : State) (n : Nat) (f : Part → Part) : State := { s with parts := Tab.update {} s.parts n f }
/-- Cluster `k`, numbered `8 d + k`. -/
def State.cluster (s : State) (k : Nat) : Cluster := Tab.get {} s.clusters k
/-- The state with a cluster changed. -/
def State.modCluster (s : State) (k : Nat) (f : Cluster → Cluster) : State :=
  { s with clusters := Tab.update {} s.clusters k f }
/-- Die `d`. -/
def State.die (s : State) (d : Nat) : Die := Tab.get {} s.dies d
/-- The state with a die changed. -/
def State.modDie (s : State) (d : Nat) (f : Die → Die) : State := { s with dies := Tab.update {} s.dies d f }
/-- Function `f`: 0 PF0, 1 PF1, `k + 1` virtual function `k`. -/
def State.fn (s : State) (f : Nat) : Fn := Tab.get {} s.hub.fns f
/-- The state with a function changed. -/
def State.modFn (s : State) (f : Nat) (h : Fn → Fn) : State :=
  { s with hub := { s.hub with fns := Tab.update {} s.hub.fns f h } }
/-- Queue pair `q` of function `f`. -/
def State.queue (s : State) (f q : Nat) : Queue := Tab.get {} (s.fn f).queues q
/-- The state with a queue pair changed. -/
def State.modQueue (s : State) (f q : Nat) (h : Queue → Queue) : State :=
  s.modFn f fun x => { x with queues := Tab.update {} x.queues q h }
/-- The state with the Fretboard changed. -/
def State.modFrt (s : State) (f : Frt → Frt) : State := { s with frt := f s.frt }
/-- The state with the memories changed. -/
def State.modMems (s : State) (f : Mems → Mems) : State := { s with mems := f s.mems }
/-- The Scroll of partition `n`. -/
def State.scrPart (s : State) (n : Nat) : ScrPart := Tab.get {} s.scr.parts n
/-- The state with the Scroll of a partition changed. -/
def State.modScr (s : State) (n : Nat) (f : ScrPart → ScrPart) : State :=
  { s with scr := { s.scr with parts := Tab.update {} s.scr.parts n f } }
/-- Course `c`. -/
def State.port (s : State) (c : Nat) : Port := Tab.get {} s.crs.ports c
/-- The state with a course changed. -/
def State.modPort (s : State) (c : Nat) (f : Port → Port) : State :=
  { s with crs := { s.crs with ports := Tab.update {} s.crs.ports c f } }
/-- The pair binding of partition `n`. -/
def State.pair (s : State) (n : Nat) : Pair := Tab.get {} s.crs.pairs n
/-- The state with a pair binding changed. -/
def State.modPair (s : State) (n : Nat) (f : Pair → Pair) : State :=
  { s with crs := { s.crs with pairs := Tab.update {} s.crs.pairs n f } }
/-- Context `c` of partition `n`, where it exists. -/
def State.ctx (s : State) (n c : Nat) : Option Ctx := Tab.find (s.part n).ctxs c
/-- The state with an existing context changed. -/
def State.modCtx (s : State) (n c : Nat) (f : Ctx → Ctx) : State :=
  match s.ctx n c with
  | none => s
  | some x => s.modPart n fun p => { p with ctxs := Tab.insert c (f x) p.ctxs }
/-- What a context keeps for a core. -/
def Ctx.core (x : Ctx) (g : Nat) : CtxCore := Tab.get {} x.cores g
/-- The state with what a context keeps for a core changed. -/
def State.modCtxCore (s : State) (n c g : Nat) (f : CtxCore → CtxCore) : State :=
  s.modCtx n c fun x => { x with cores := Tab.update {} x.cores g f }

/-- Draw the next place of a free value. -/
def State.draw (s : State) : Nat × State := (s.fresh, { s with fresh := s.fresh + 1 })

/-- The package does nothing: it has no power, every PLL is stopped (R427), or the hub's reference clock is lost (R461). -/
def State.off (s : State) : Bool := s.boot.stopped || !s.boot.powered
/-- Nothing of die `d` acts: the package does nothing, or the die has no course clock (R461). -/
def State.dieOff (s : State) (d : Nat) : Bool := s.off || s.boot.dead.contains d

/-- `n` events enter the census, which holds at its largest value (R389), and those of this bring-up. -/
def State.census (s : State) (n : Nat) : State :=
  { s with boot := { s.boot with census := satAdd 32 s.boot.census n, events := satAdd 32 s.boot.events n } }
/-- `n` corrected errors of a memory or an engine, as Luthier counts them (R361). -/
def State.corrected (s : State) (n : Nat) : State := { s with lth := { s.lth with corrections := s.lth.corrections + n } }
/-- `n` corrected errors of a memory: Luthier's and the life log's (R361, R400). -/
def State.memCorrected (s : State) (n : Nat) : State :=
  { s.corrected n with flash := { s.flash with corrected := wrapAdd 64 s.flash.corrected n } }
/-- `n` uncorrectable errors of a memory: the census's and the life log's (R389, R400). -/
def State.memUncorrected (s : State) (n : Nat) : State :=
  { s.census n with flash := { s.flash with uncorrected := wrapAdd 32 s.flash.uncorrected n } }
/-- A retraining of a memory interface in service, which the life log counts (R400). -/
def State.memRetrained (s : State) : State := { s with flash := { s.flash with retrains := wrapAdd 32 s.flash.retrains 1 } }
/-- A retraining of a course in service: Luthier's and the life log's (R361, R400). -/
def State.retrained (s : State) : State :=
  { s with lth := { s.lth with retrains := s.lth.retrains + 1 }
           flash := { s.flash with retrains := wrapAdd 32 s.flash.retrains 1 } }

/-! ### Memory controllers (R239, R242) -/

/-- A stack's registers. -/
def State.stackReg (s : State) (i : Nat) : MemReg := Tab.get {} s.hbms i
/-- An interface's registers. -/
def State.lpReg (s : State) (i : Nat) : MemReg := Tab.get {} s.lps i
/-- A controller's registers changed. -/
def State.modCtl (s : State) (c : MemCtl) (f : MemReg → MemReg) : State :=
  match c with
  | .hbm i => { s with hbms := Tab.update {} s.hbms i f }
  | .lp i => { s with lps := Tab.update {} s.lps i f }
/-- A controller's registers. -/
def State.ctl (s : State) (c : MemCtl) : MemReg :=
  match c with
  | .hbm i => s.stackReg i
  | .lp i => s.lpReg i

/-- Whether a controller's stack or interface carries data: it is in service, and so is the interface's group or the
course clock of the stack's die (R240, R243, R461). -/
def State.carries (s : State) (c : MemCtl) : Bool :=
  (s.ctl c).state == 1 && match c with
    | .hbm i => !s.boot.dead.contains (i / 3)
    | .lp i => bit s.boot.lpGroups (i / 4)

/-- A controller counts what a read of its memory met: a correction of the stack's on-die ECC or of its own code, or a retry on
the interface's link (R239, R242, R247). -/
def State.countFix (s : State) (c : MemCtl) (r : ScrubResult) : State :=
  match r, c with
  | .onDie, .hbm _ => (s.modCtl c fun r => { r with onDie := satAdd 32 r.onDie 1 }).memCorrected 1
  | .corrected, _ => (s.modCtl c fun r => { r with corrected := satAdd 32 r.corrected 1 }).memCorrected 1
  | .linkRetry, .lp _ => s.modCtl c fun r => { r with onDie := satAdd 32 r.onDie 1 }
  | _, _ => s

/-! ### Numbering (R12, R300) -/

/-- The number of cores of the package. -/
def numCores : Nat := 256
/-- The die of a core. -/
def dieOf (g : Nat) : Nat := g / 64
/-- The cluster of a core, numbered over the package. -/
def clusterOf (g : Nat) : Nat := g / 8
/-- The granule of a core. -/
def granuleOf (g : Nat) : Nat := g / 16
/-- The cores of a granule mask, ascending. -/
def coresOfMask (m : Nat) : List Nat := (bitsOf 16 m).flatMap fun i => rangeFrom (16 * i) 16
/-- The clusters of a granule mask, ascending. -/
def clustersOfMask (m : Nat) : List Nat := (bitsOf 16 m).flatMap fun i => rangeFrom (2 * i) 2
/-- The partition that owns a granule. -/
def State.ownerOf (s : State) (granule : Nat) : Option Nat :=
  (List.range 16).find? fun n => (s.part n).state != 0 && bit (s.part n).gmask granule
/-- Whether a core belongs to a partition. -/
def State.coreIn (s : State) (n g : Nat) : Bool := g < numCores && bit (s.part n).gmask (granuleOf g)
/-- Whether a cluster belongs to a partition. -/
def State.clusterIn (s : State) (n k : Nat) : Bool := k < 32 && bit (s.part n).gmask (k / 2)
/-- The cores of a context's placement, ascending. -/
def Ctx.coreList (x : Ctx) : List Nat := coresOfMask x.gmask

/-- The second tier of the part (07, R163). -/
def State.secondTier (s : State) : Nat := if s.partCode = 2 then 5 else 4

/-! ### Fretboard entries (R222 to R224) -/

/-- Bytes of a page. -/
def pageBytes : Nat := 0x80000
/-- The page of a device address. -/
def pageOf (a : Nat) : Nat := a / pageBytes
/-- The entry of a page. -/
def State.entry (s : State) (x : Nat) : Nat := Tab.get 0 s.frt.entry x
/-- valid. -/
def eValid (e : Nat) : Bool := bit e 63
/-- tier. -/
def eTier (e : Nat) : Nat := field e 62 60
/-- state. -/
def eState (e : Nat) : Nat := field e 59 58
/-- partition. -/
def ePart (e : Nat) : Nat := field e 57 54
/-- share. -/
def eShare (e : Nat) : Nat := field e 53 48
/-- version. -/
def eVersion (e : Nat) : Nat := field e 47 44
/-- pinned. -/
def ePinned (e : Nat) : Bool := bit e 39
/-- copy_on_write. -/
def eCow (e : Nat) : Bool := bit e 38
/-- compressed. -/
def eCompressed (e : Nat) : Bool := bit e 37
/-- checkpoint_drain. -/
def eDrain (e : Nat) : Bool := bit e 36
/-- frame. -/
def eFrame (e : Nat) : Nat := field e 35 0

/-- An entry from its fields. -/
def mkEntry (tier state part share version fmt : Nat) (pinned cow compressed : Bool) (frame : Nat) : Nat :=
  2 ^ 63 + tier * 2 ^ 60 + state * 2 ^ 58 + part * 2 ^ 54 + share * 2 ^ 48 + version * 2 ^ 44 + fmt * 2 ^ 40
    + ofBool pinned * 2 ^ 39 + ofBool cow * 2 ^ 38 + ofBool compressed * 2 ^ 37 + frame % 2 ^ 36

/-- A page is dropped from every translation cache, and each die counts the invalidation (R230). -/
def Frt.invalidate (f : Frt) (x : Nat) : Frt :=
  { f with
    clCache := f.clCache.map fun e => (e.1, e.2.filter (· != x))
    dieCache := f.dieCache.map fun e => (e.1, e.2.filter (· != x)) }

/-- An entry is changed, which invalidates its copies unless only its share field changes (R230). -/
def State.setEntry (s : State) (x e : Nat) : State :=
  let old := s.entry x
  let s := s.modFrt fun f => { f with entry := Tab.set 0 f.entry x e }
  if setField old 53 48 0 = setField e 53 48 0 then s
  else
    let s := s.modFrt fun f => f.invalidate x
    (List.range 4).foldl (fun s d => s.modDie d fun y => { y with dtcInval := min (255 * 1024) (y.dtcInval + 1) }) s

/-! ### Frame pools (R224 to R226) -/

/-- The pool of a frame of a tier: stack `3 d + s`, or `12 + g` (R224). -/
def poolOf (tier frame : Nat) : Nat :=
  if tier < 4 then 3 * tier + field frame 18 17 else 12 + field frame 20 19
/-- The frame number within its pool. -/
def frameInPool (tier frame : Nat) : Nat := if tier < 4 then field frame 16 0 else field frame 18 0
/-- The frame field of frame `i` of a pool. -/
def frameOf (pool i : Nat) : Nat := if pool < 12 then pool % 3 * 2 ^ 17 + i else (pool - 12) * 2 ^ 19 + i
/-- The pools of a tier. -/
def poolsOf (tier : Nat) : List Nat := if tier < 4 then rangeFrom (3 * tier) 3 else rangeFrom 12 4
/-- A pool. -/
def State.pool (s : State) (i : Nat) : Pool := Tab.get {} s.frt.pools i
/-- The state with a pool changed. -/
def State.modPool (s : State) (i : Nat) (f : Pool → Pool) : State :=
  s.modFrt fun x => { x with pools := Tab.update {} x.pools i f }
/-- Free frames of a pool. -/
def Pool.free (p : Pool) : Nat := if p.live then p.frames - p.used.length - p.retired.length else 0
/-- The usable frames of a tier, FRT_FREE total. -/
def State.tierTotal (s : State) (t : Nat) : Nat :=
  ((poolsOf t).map fun i => if (s.pool i).live then (s.pool i).frames else 0).sum
/-- The free frames of a tier, FRT_FREE free. -/
def State.tierFree (s : State) (t : Nat) : Nat := ((poolsOf t).map fun i => (s.pool i).free).sum

/-- The lowest frame number that a pool does not use, of those below `n` (DESIGN CHOICE: the manual does not say which
free frame is taken). -/
def lowestFree (taken : List Nat) : Nat → Nat → Nat
  | 0, i => i
  | n + 1, i => if taken.contains i then lowestFree taken n (i + 1) else i

/-- The pool that the round-robin of R225 takes next: the first of the tier with a free frame, starting after the pool
used last. -/
def State.nextPool (s : State) (t : Nat) : Option Nat :=
  let ps := poolsOf t
  let last := s.frt.lastPool.getD t 0
  let order := ps.filter (· > last) ++ ps.filter (· ≤ last)
  order.find? fun i => (s.pool i).free != 0

/-- Take a frame of a pool. -/
def State.takeFrom (s : State) (i : Nat) : Nat × State :=
  let p := s.pool i
  let f := lowestFree (p.used ++ p.retired) (p.used.length + p.retired.length) 0
  (frameOf i f, s.modPool i fun p => { p with used := f :: p.used })

/-- Take one frame of a tier, round-robin over its live pools (R225). -/
def State.takeFrame (s : State) (t : Nat) : Option (Nat × State) :=
  match s.nextPool t with
  | none => none
  | some i =>
    let (f, s) := s.takeFrom i
    some (f, s.modFrt fun x => { x with lastPool := x.lastPool.set t i })

/-- A frame returns to its pool. A frame of a failed pool returns nowhere (R226). -/
def State.releaseFrame (s : State) (t frame : Nat) : State :=
  if t ≤ 4 then s.modPool (poolOf t frame) fun p => { p with used := p.used.filter (· != frameInPool t frame) } else s

/-- A poisoned frame is retired, once, unless its pool has failed (R226). -/
def State.retireFrame (s : State) (t frame : Nat) : State :=
  if t ≤ 4 && (s.pool (poolOf t frame)).live && !(s.pool (poolOf t frame)).retired.contains (frameInPool t frame) then
    let s := s.modPool (poolOf t frame) fun p =>
      { p with used := p.used.filter (· != frameInPool t frame), retired := frameInPool t frame :: p.retired }
    s.modFrt fun f => { f with retiredFrames := wrapAdd 32 f.retiredFrames 1 }
  else s

/-- The frame of an entry returns to its pool, or is retired when the page is poisoned. -/
def State.freeEntryFrame (s : State) (e : Nat) : State :=
  if eState e = 3 then s.retireFrame (eTier e) (eFrame e) else s.releaseFrame (eTier e) (eFrame e)

/-- A page enters state 11 (R232): it is counted once. -/
def State.poisonPage (s : State) (x : Nat) : State :=
  let e := s.entry x
  if eValid e && eState e != 3 then
    (s.setEntry x (setField e 59 58 3)).modFrt fun f => { f with poisonPages := wrapAdd 32 f.poisonPages 1 }
  else s

/-! ### Locations and bytes -/

/-- Where a byte of device memory stands (R224). -/
inductive Loc where
  | hbm (a : Nat)
  | lp (a : Nat)
  | host (a : Nat)
  | none
  deriving DecidableEq, Repr

/-- The location of byte `o` of a frame of a tier. -/
def locate (tier frame o : Nat) : Loc :=
  if tier < 4 then .hbm ((3 * tier + field frame 18 17) * 2 ^ 36 + field frame 16 0 * pageBytes + o)
  else if tier = 4 then .lp (field frame 20 19 * 2 ^ 38 + field frame 18 0 * pageBytes + o)
  else if tier = 5 then .host (frame * pageBytes + o)
  else .none

/-- Bytes at a location. -/
def Mems.readLoc (m : Mems) (l : Loc) (n : Nat) : List Byte :=
  match l with
  | .hbm a => m.hbm.read a n
  | .lp a => m.lp.read a n
  | .host a => m.host.read a n
  | .none => fill n 0

/-- Bytes written at a location. -/
def Mems.writeLoc (m : Mems) (l : Loc) (bs : List Byte) : Mems :=
  match l with
  | .hbm a => { m with hbm := m.hbm.write a bs }
  | .lp a => { m with lp := m.lp.write a bs }
  | .host a => { m with host := m.host.write a bs }
  | .none => m

/-- A frame filled with zeros (R225). -/
def Mems.clearFrame (m : Mems) (tier frame : Nat) : Mems :=
  match locate tier frame 0 with
  | .hbm a => { m with hbm := m.hbm.clear a pageBytes }
  | .lp a => { m with lp := m.lp.clear a pageBytes }
  | _ => m

/-- Bytes of host memory. -/
def State.hostRead (s : State) (a n : Nat) : List Byte := s.mems.host.read a n
/-- Bytes written to host memory. -/
def State.hostWrite (s : State) (a : Nat) (bs : List Byte) : State :=
  s.modMems fun m => { m with host := m.host.write a bs }

/-! ### Translation (R201, R202, R228) -/

/-- The result of an access: a value, a refusal at an address (`poison` tells which), or a wait at an address. -/
inductive Acc (α : Type) where
  | ok (x : α)
  | bad (addr : Nat) (poison : Bool)
  | wait (addr : Nat)
  deriving DecidableEq, Repr

/-- Which version a read of a versioned page takes (R203, R204): the newest, or a given one. -/
inductive Sel where
  | newest
  | version (v : Nat)
  deriving DecidableEq, Repr

/-- Whether an address lies in a range of pages. -/
def inPages (base pages a : Nat) : Bool := decide (base ≤ a ∧ a < base + pages * pageBytes)

/-- Whether an address lies in the shadow range of any version window (R201). -/
def State.inShadow (s : State) (a : Nat) : Bool :=
  (List.range 16).any fun n => inPages (s.part n).vshdBase (s.part n).vwinPages a
/-- Whether an address lies in the primary range of a partition's version window. -/
def State.inWindow (s : State) (n a : Nat) : Bool := inPages (s.part n).vwinBase (s.part n).vwinPages a
/-- The shadow page of a primary page of a partition's window. -/
def State.shadowOf (s : State) (n x : Nat) : Nat := x - pageOf (s.part n).vwinBase + pageOf (s.part n).vshdBase

/-- The two entries of a versioned page and which is the newest: newest page, other page, newest version, whether the
other buffer is readable (R202, R207). -/
def State.versions (s : State) (n x : Nat) : Nat × Nat × Nat × Bool :=
  let y := s.shadowOf n x
  let a := eVersion (s.entry x)
  let b := eVersion (s.entry y)
  if b = (a + 1) % 16 then (y, x, b, !s.frt.claims.any (·.1 == x))
  else if a = (b + 1) % 16 then (x, y, a, !s.frt.claims.any (·.1 == y))
  else (x, y, a, false)

/-- The page whose entry serves a read, by the version rules (R202). -/
def State.readPage (s : State) (n a : Nat) (sel : Sel) : Acc Nat :=
  let x := pageOf a
  if s.inWindow n a then
    let (newest, other, vn, readable) := s.versions n x
    match sel with
    | .newest => .ok newest
    | .version v =>
      let d := (vn + 16 - v % 16) % 16
      if d = 0 then .ok newest
      else if d = 1 && readable then .ok other
      else if d = 15 then .wait a
      else .bad a false
  else .ok x

/-- translate of R228 once the entry is chosen; the result is the page and its entry. -/
def checkEntry (e : Nat) (n a : Nat) (write : Bool) (who : Who) : Acc Nat :=
  if !eValid e || ePart e != n then .bad a false
  else if eCompressed e && who != .codec && who != .vault then .bad a false
  else if eTier e ≥ 6 || eState e == 2 then .bad a false
  else if eState e == 3 then .bad a (!write)
  else if write && eCow e && who != .resonator then .bad a false
  else if write && (eState e == 1 || eDrain e) then .wait a
  else .ok e

/-- What comes of an access that its entry allows: one to host memory waits while the host leaves the CXL.cache requests
unanswered (R244), as does one to the stacks of a die whose course clock is lost (R461), and a read of page `x` whose error has been found, but whose lines the host still holds, receives poison
(R232, R246). -/
def State.answered (s : State) (x a : Nat) (write : Bool) (r : Acc Nat) : Acc Nat :=
  match r with
  | .ok e =>
    if eTier e == 5 && s.frt.silent || s.boot.dead.contains (eTier e) then .wait a
    else if !write && s.frt.poisoning.contains x then .bad a true
    else .ok e
  | r => r

/-- translate of R228 for a read, to the entry that serves it. -/
def State.translateRead (s : State) (n a : Nat) (who : Who) (sel : Sel) : Acc Nat :=
  if a ≥ 2 ^ 41 || s.inShadow a then .bad a false
  else match s.readPage n a sel with
    | .ok x => s.answered x a false (checkEntry (s.entry x) n a false who)
    | .bad b p => .bad b p
    | .wait b => .wait b

/-- translate of R228 for a write that is not a versioned page's own writer: a versioned page refuses it (R206). -/
def State.translateWrite (s : State) (n a : Nat) (who : Who) : Acc Nat :=
  if a ≥ 2 ^ 41 || s.inShadow a || s.inWindow n a then .bad a false
  else s.answered (pageOf a) a true (checkEntry (s.entry (pageOf a)) n a true who)

/-- The pieces of a byte range that lie in one page each: address and length. `k` bounds the number of pieces. -/
def splitPages : Nat → Nat → Nat → List (Nat × Nat)
  | 0, _, _ => []
  | k + 1, a, n =>
    if n = 0 then []
    else
      let m := min n (pageBytes - a % pageBytes)
      (a, m) :: splitPages k (a + m) (n - m)

/-- The pieces of a byte range, one for each page it touches. -/
def pieces (a n : Nat) : List (Nat × Nat) := splitPages (n / pageBytes + 2) a n

/-- Read `n` bytes from a device address (R228), page by page. -/
def State.devRead (s : State) (p : Nat) (who : Who) (sel : Sel) (a n : Nat) : Acc (List Byte) :=
  (pieces a n).foldl (fun r (b, m) =>
    match r with
    | .ok bs =>
      match s.translateRead p b who sel with
      | .ok e => .ok (bs ++ s.mems.readLoc (locate (eTier e) (eFrame e) (b % pageBytes)) m)
      | .bad c q => .bad c q
      | .wait c => .wait c
    | r => r) (.ok [])

/-- Whether every byte of a range may be written, or the first refusal or wait. -/
def State.devCheckWrite (s : State) (p : Nat) (who : Who) (a n : Nat) : Acc Unit :=
  (pieces a n).foldl (fun r (b, _) =>
    match r with
    | .ok () =>
      match s.translateWrite p b who with
      | .ok _ => .ok ()
      | .bad c q => .bad c q
      | .wait c => .wait c
    | r => r) (.ok ())

/-- Whether a line of the host window lies in a page. -/
def Frt.lineIn (f : Frt) (x l : Nat) : Bool := pageOf (f.hwinBase + 64 * l) == x

/-- Whether the host may hold a line of a page. -/
def Frt.pageSnooped (f : Frt) (x : Nat) : Bool := f.snoop.any (f.lineIn x)

/-- Whether a write to a byte range waits for the host to give up a line (R246). -/
def State.heldIn (s : State) (a n : Nat) : Bool :=
  s.frt.held.any fun h => decide (h.addr < a + n ∧ a < h.addr + h.bytes.length)

/-- The line of the host window that holds a device address, where the window covers it (R245). -/
def Frt.windowLine (f : Frt) (a : Nat) : Option Nat :=
  if inPages f.hwinBase f.hwinPages a then some ((a - f.hwinBase) / 64) else none

/-- The pieces of a byte string by 64-byte lines. -/
def splitLines : Nat → Nat → List Byte → List (Nat × List Byte)
  | 0, _, _ => []
  | k + 1, a, bs =>
    if bs.isEmpty then []
    else
      let m := 64 - a % 64
      (a, bs.take m) :: splitLines k (a + m) (bs.drop m)

/-- Bytes stored at a device address under an entry. A piece whose line the snoop filter holds waits for the host's
BIRsp (R246). -/
def State.storeUnder (s : State) (e a : Nat) (bs : List Byte) : State :=
  if (splitLines (bs.length / 64 + 2) a bs).all fun (b, _) =>
      match s.frt.windowLine b with
      | some l => !s.frt.snoop.contains l
      | none => true
  then s.modMems fun m => m.writeLoc (locate (eTier e) (eFrame e) (a % pageBytes)) bs
  else
    (splitLines (bs.length / 64 + 2) a bs).foldl (fun s (b, xs) =>
      match s.frt.windowLine b with
      | some l =>
        if s.frt.snoop.contains l then
          s.modFrt fun f => { f with held := f.held ++ [{ line := l, entry := e, addr := b, bytes := xs }] }
        else s.modMems fun m => m.writeLoc (locate (eTier e) (eFrame e) (b % pageBytes)) xs
      | none => s.modMems fun m => m.writeLoc (locate (eTier e) (eFrame e) (b % pageBytes)) xs) s

/-- Bytes written at a device address whose range `devCheckWrite` has accepted. -/
def State.devPut (s : State) (a : Nat) (bs : List Byte) : State :=
  ((pieces a bs.length).foldl (fun (s, bs) (b, m) => (s.storeUnder (s.entry (pageOf b)) b (bs.take m), bs.drop m))
    (s, bs)).1

/-- A write of bytes at a device address: the new state, or why not. -/
def State.devWrite (s : State) (p : Nat) (who : Who) (a : Nat) (bs : List Byte) : Acc State :=
  match s.devCheckWrite p who a bs.length with
  | .ok () => .ok (s.devPut a bs)
  | .bad c q => .bad c q
  | .wait c => .wait c

/-- Bytes of a partition's device range become undefined: free values, at the newest version of a versioned page (R271, R291). -/
def State.scrambleRange (s : State) (p a n : Nat) : State :=
  (pieces a n).foldl (fun s (b, m) =>
    let x := if s.inWindow p b then (s.versions p (pageOf b)).1 else pageOf b
    let e := s.entry x
    if eValid e && ePart e == p && decide (eTier e ≤ 5) then
      let (k, s) := s.draw
      s.storeUnder e (x * pageBytes + b % pageBytes) ((List.range m).map (Config.contents k))
    else s) s

/-- A translation fault is recorded in FRT_FAULT_INFO, the first one only (R229, R247). -/
def State.noteFault (s : State) (p source addr : Nat) (poison : Bool) : State :=
  if s.frt.faultValid then s
  else s.modFrt fun f => { f with
    faultValid := true, faultPoison := poison, faultPart := p, faultSource := source, faultAddr := addr % 2 ^ 41 }

/-! ### Writes of the hub's units that wait (R228, R231) -/

/-- The host window's code in FRT_FAULT_INFO (R247). -/
def hostWindowUnit : Nat := 6

/-- A refusal that a hub unit meets is recorded (R229). -/
def State.noteBad {α : Type} (s : State) (p source : Nat) (r : Acc α) : State :=
  match r with
  | .bad a q => s.noteFault p source a q
  | _ => s

/-- A hub unit writes bytes for a partition: a refusal is recorded (R229), and a write that has to wait takes effect once it may.
`source` is the unit's code in FRT_FAULT_INFO. -/
def State.hubWrite (s : State) (p source : Nat) (who : Who) (a : Nat) (bs : List Byte) : State :=
  match s.devWrite p who a bs with
  | .ok t => t
  | .bad b q => s.noteFault p source b q
  | .wait _ => s.modFrt fun f => { f with late := f.late ++ [{ part := p, source := source, unit := who, addr := a, bytes := bs }] }

/-- The translation of a host access to the window of a partition: a page in tier 5 is out of range, whether or not the host
answers (R245). -/
def State.windowEntry (s : State) (n a : Nat) (write : Bool) : Acc Nat :=
  let t := s.modFrt fun f => { f with silent := false }
  match if write then t.translateWrite n a .plain else t.translateRead n a .plain .newest with
  | .ok e => if eTier e = 5 then .bad a false else .ok e
  | r => r

/-- A host write to the window: discarded and recorded where it is refused, and waiting where its page moves or drains (R228, R229,
R231, R245). -/
def State.windowWrite (s : State) (n a : Nat) (bs : List Byte) : State :=
  match s.windowEntry n a true with
  | .ok e => s.modMems fun m => m.writeLoc (locate (eTier e) (eFrame e) (a % pageBytes)) bs
  | .bad _ poison => s.noteFault n hostWindowUnit a poison
  | .wait _ => s.modFrt fun f => { f with
      late := f.late ++ [{ part := n, source := hostWindowUnit, addr := a, bytes := bs }] }

/-- The writes that waited are translated again, oldest first, once a page's move or drain has ended. -/
def State.flushLate (s : State) : State :=
  s.frt.late.foldl (fun (s : State) w =>
      if w.source = hostWindowUnit then s.windowWrite w.part w.addr w.bytes
      else s.hubWrite w.part w.source w.unit w.addr w.bytes)
    (s.modFrt fun f => { f with late := [] })

/-- Whether a range of device bytes written for a partition is not yet in memory: part of it waits for a page, or for a line at the
host (R228, R246). -/
def State.unsettled (s : State) (p a n : Nat) : Bool :=
  s.heldIn a n || s.frt.late.any fun w => w.part == p && decide (w.addr < a + n ∧ a < w.addr + w.bytes.length)

/-- Bytes `xs` at address `b` laid over bytes `bs` at address `a`, where they meet. -/
def layOver (a : Nat) (bs : List Byte) (b : Nat) (xs : List Byte) : List Byte :=
  let lo := max a b
  let hi := min (a + bs.length) (b + xs.length)
  if lo < hi then bs.take (lo - a) ++ (xs.drop (lo - b)).take (hi - lo) ++ bs.drop (hi - a) else bs

/-- Bytes read at an address as its own writer sees them: with its writes that still wait. -/
def State.withLate (s : State) (p a : Nat) (bs : List Byte) : List Byte :=
  (s.frt.late.filter (·.part == p)).foldl (fun bs w => layOver a bs w.addr w.bytes) bs

/-! ### Translation caches (R227): they change no result; they are held for FRT_DTC_CNT. -/

/-- A lookup by cluster `k` of a page: a hit in the die cache fills the cluster cache, a miss in both goes to the
Fretboard. -/
def State.lookup (s : State) (k x : Nat) : State :=
  let cl := Tab.get [] s.frt.clCache k
  let d := k / 8
  let set := d * 512 + x % 512
  let dc := Tab.get [] s.frt.dieCache set
  if cl.contains x then s
  else if dc.contains x then
    (s.modFrt fun f => { f with clCache := Tab.set [] f.clCache k ((x :: cl).take 64) }).modDie d
      fun y => { y with dtcHits := wrapAdd 32 y.dtcHits 1 }
  else
    (s.modFrt fun f => { f with walks := f.walks ++ [(d, k, x)] }).modDie d
      fun y => { y with dtcWalks := wrapAdd 24 y.dtcWalks 1 }

/-- The lookups of a byte range by a core's cluster. -/
def State.lookups (s : State) (g a n : Nat) : State :=
  (pieces a n).foldl (fun s (b, _) => s.lookup (clusterOf g) (pageOf b)) s

/-! ### On-die memories and counters (R98 to R100, R236) -/

/-- Bytes of a scratchpad. -/
def State.spRead (s : State) (g o n : Nat) : List Byte := s.mems.sp.read (g * 2 ^ 22 + o) n
/-- Bytes written to a scratchpad. -/
def State.spWrite (s : State) (g o : Nat) (bs : List Byte) : State :=
  s.modMems fun m => { m with sp := m.sp.write (g * 2 ^ 22 + o) bs }
/-- Bytes of a cluster memory. -/
def State.cmRead (s : State) (k o n : Nat) : List Byte := s.mems.cm.read (k * 2 ^ 24 + o) n
/-- Bytes written to a cluster memory. -/
def State.cmWrite (s : State) (k o : Nat) (bs : List Byte) : State :=
  s.modMems fun m => { m with cm := m.cm.write (k * 2 ^ 24 + o) bs }

/-- The address of a counter in the cluster memories, from its reference (R98). -/
def counterAddr (ref : Nat) : Nat := field ref 16 12 * 2 ^ 24 + (2 ^ 24 - 0x8000) + 8 * field ref 11 0
/-- The cluster of a counter. -/
def counterCluster (ref : Nat) : Nat := field ref 16 12
/-- A counter's value. -/
def State.counter (s : State) (ref : Nat) : W64 := BitVec.ofNat 64 (s.mems.cm.num (counterAddr ref) 8)
/-- A counter is written. -/
def State.setCounter (s : State) (ref : Nat) (v : W64) : State :=
  s.modMems fun m => { m with cm := m.cm.setNum (counterAddr ref) 8 v.toNat }
/-- A value is added to a counter, modulo `2^64`, as one operation (R100). -/
def State.addCounter (s : State) (ref : Nat) (v : W64) : State := s.setCounter ref (s.counter ref + v)
/-- The own-die form of a counter reference for a core (R98). -/
def ownDie (g ref : Nat) : Nat := dieOf g * 2 ^ 15 + ref % 2 ^ 15
/-- The end of the general range of a cluster memory (R236). -/
def State.cmGeneral (s : State) (k : Nat) : Nat := 2 ^ 24 - 0x8000 - (s.cluster k).refSlots * 0x40000

/-- A long-sum value, as binary64 bits. -/
def lsAddr (g slot i j : Nat) : Nat := g * 2 ^ 18 + slot * 2 ^ 15 + (64 * i + j) * 8
/-- A long-sum value. -/
def State.lsGet (s : State) (g slot i j : Nat) : Nat := s.mems.ls.num (lsAddr g slot i j) 8
/-- A long-sum value is written. -/
def State.lsSet (s : State) (g slot i j v : Nat) : State :=
  s.modMems fun m => { m with ls := m.ls.setNum (lsAddr g slot i j) 8 v }

/-- The scratchpads, long-sum buffers and cluster memories of a granule mask are zeroed (R301, R303). -/
def State.zeroGranules (s : State) (mask : Nat) : State :=
  (bitsOf 16 mask).foldl (fun s i => s.modMems fun m => { m with
    sp := m.sp.clear (16 * i * 2 ^ 22) (16 * 2 ^ 22)
    ls := m.ls.clear (16 * i * 2 ^ 18) (16 * 2 ^ 18)
    cm := m.cm.clear (2 * i * 2 ^ 24) (2 * 2 ^ 24) }) s

/-! ### Range lists of scratchpad units -/

/-- The ranges without the units of `[a, a + n)`. -/
def Ranges.minus (r : Ranges) (a n : Nat) : Ranges :=
  r.flatMap fun (b, m) =>
    (if b < a then [(b, min m (a - b))] else []) ++
    (if b + m > a + n then [(max b (a + n), b + m - max b (a + n))] else []) |>.filter (·.2 != 0)

/-- The units of the ranges that lie in `[a, a + n)`. -/
def Ranges.within (r : Ranges) (a n : Nat) : Ranges :=
  (r.map fun (b, m) => (max b a, min (b + m) (a + n) - max b a)).filter (·.2 != 0)

/-- The number of units of the ranges. -/
def Ranges.size (r : Ranges) : Nat := (r.map (·.2)).sum

end Sys2Proof.Machine
end

