-- ==== Sys2Proof/Machine/Operands.lean ====
section
/-! DEFINITION. Descriptor and packet fields: the layouts of R103 to R113, the offsets of R104, and the values that
formats and packings give in memory (R20 to R31). -/

namespace Sys2Proof.Machine

/-- Field of a descriptor: bits `hi:lo` of the little-endian number that starts at byte `b`. -/
def dfield (d b hi lo : Nat) : Nat := field d (8 * b + hi) (8 * b + lo)

/-- A descriptor with such a field replaced. -/
def dset (d b hi lo v : Nat) : Nat := setField d (8 * b + hi) (8 * b + lo) v

/-- A 16-bit field of a descriptor. -/
def d16 (d b : Nat) : Nat := dfield d b 15 0
/-- A 32-bit field of a descriptor. -/
def d32 (d b : Nat) : Nat := dfield d b 31 0
/-- A 48-bit field of a descriptor. -/
def d48 (d b : Nat) : Nat := dfield d b 47 0
/-- A 64-bit field of a descriptor. -/
def d64 (d b : Nat) : Nat := dfield d b 63 0

/-! The header (R103). -/
/-- type. -/
def dType (d : Nat) : Nat := dfield d 0 7 0
/-- fence. -/
def dFence (d : Nat) : Bool := bit d 8
/-- irq. -/
def dIrq (d : Nat) : Bool := bit d 9
/-- template. -/
def dTemplate (d : Nat) : Bool := bit d 10
/-- done_en. -/
def dDoneEn (d : Nat) : Bool := bit d 11
/-- done_ctr, without its reserved bit 15. -/
def dDoneCtr (d : Nat) : Nat := dfield d 2 14 0

/-! Type codes (R105). -/
/-- TILE. -/
def tyTile : Nat := 1
/-- VEC. -/
def tyVec : Nat := 2
/-- MOVE. -/
def tyMove : Nat := 3
/-- WAIT. -/
def tyWait : Nat := 4
/-- SIGNAL. -/
def tySignal : Nat := 5
/-- SCROLL. -/
def tyScroll : Nat := 6
/-- GATHER. -/
def tyGather : Nat := 7
/-- SEG_BEGIN. -/
def tySegBegin : Nat := 8
/-- SEG_END. -/
def tySegEnd : Nat := 9
/-- UPDATE. -/
def tyUpdate : Nat := 10
/-- COLL. -/
def tyColl : Nat := 11
/-- JUMP. -/
def tyJump : Nat := 12
/-- STEP_MARK. -/
def tyStepMark : Nat := 13

/-- The address fields of a type: number, byte and width in bits (the marks [n] of the layouts). -/
def addressFields (ty : Nat) : List (Nat × Nat × Nat) :=
  match ty with
  | 1 => [(0, 28, 16), (1, 30, 16), (2, 32, 16), (3, 40, 16), (4, 42, 16)]
  | 2 => [(0, 24, 16), (1, 28, 16), (2, 32, 16), (3, 36, 16)]
  | 3 => [(0, 8, 48), (1, 14, 48), (2, 38, 48), (3, 44, 48)]
  | 6 => [(0, 18, 16), (1, 12, 48)]
  | 7 => [(0, 22, 16), (1, 26, 16)]
  | 10 => [(0, 8, 48), (1, 14, 48)]
  | 11 => [(0, 8, 48), (1, 14, 48)]
  | _ => []

/-- The coordinate fields of a type: the row's byte and width, then the column's (R103 off_coord). -/
def coordFields (ty : Nat) : List (Nat × Nat) :=
  match ty with
  | 1 => [(12, 16), (14, 16)]
  | 2 => [(12, 40), (17, 24)]
  | 7 => [(16, 40)]
  | _ => []

/-- A descriptor with its offsets added (R103, R104): modulo the width of each field, in 64-byte units. -/
def applyOffsets (d : Nat) (sq : List W64) : Nat :=
  let r := (sq.getD (dfield d 4 3 0) 0).toNat
  let d1 :=
    if bit d 36 then
      (addressFields (dType d)).foldl (fun d (n, b, w) =>
        if bit d (40 + n) then
          dset d b (w - 1) 0 (dfield d b (w - 1) 0 + field r 15 0 * (if w = 48 then 64 else 1))
        else d) d
    else d
  if bit d 37 then
    ((coordFields (dType d)).zip [field r 31 16, field r 47 32]).foldl (fun d ((b, w), v) =>
      dset d b (w - 1) 0 (dfield d b (w - 1) 0 + v)) d1
  else d1

/-! ### Packet fields (R328) -/

/-- A little-endian field of a command packet. -/
def pk (p : List Byte) (lo n : Nat) : Nat := leAt p lo n
/-- opcode. -/
def pkOpcode (p : List Byte) : Nat := pk p 0 2
/-- fence flag. -/
def pkFence (p : List Byte) : Bool := bit (pk p 2 1) 0
/-- class. -/
def pkClass (p : List Byte) : Nat := pk p 3 1 % 4
/-- tag. -/
def pkTag (p : List Byte) : Nat := pk p 4 4
/-- Partition of the handle (R332). -/
def pkPart (p : List Byte) : Nat := field (pk p 8 8) 3 0
/-- Context index of the handle. -/
def pkCtx (p : List Byte) : Nat := field (pk p 8 8) 9 4
/-- The context handle of a context (R332). -/
def handleOf (part ctx gen : Nat) : Nat := part + ctx * 2 ^ 4 + gen % 2 ^ 32 * 2 ^ 16

/-! ### Elements in memory -/

/-- Bits of element `i` of a packed row of bytes (R23): two per byte for the 4-bit formats, four in three bytes for
MXFP6. -/
def elemBits (f : Fmt) (bs : List Byte) (i : Nat) : Nat :=
  match f.width with
  | 4 => field (leAt bs (i / 2) 1) (4 * (i % 2) + 3) (4 * (i % 2))
  | 6 => field (leAt bs (i / 4 * 3) 3) (6 * (i % 4) + 5) (6 * (i % 4))
  | w => leAt bs (i * (w / 8)) (w / 8)

/-- Bytes that `n` elements of a format take, padded to a whole byte or a whole 3-byte group (R23). -/
def packedBytes (f : Fmt) (n : Nat) : Nat :=
  match f.width with
  | 4 => ceilDiv n 2
  | 6 => ceilDiv n 4 * 3
  | w => n * (w / 8)

/-- Elements that a whole number of bytes of a format holds, when it holds a whole number (R109). -/
def elemsIn (f : Fmt) (bytes : Nat) : Option Nat :=
  match f.width with
  | 4 => some (2 * bytes)
  | 6 => if bytes % 3 = 0 then some (bytes / 3 * 4) else none
  | 0 => none
  | w => if bytes % (w / 8) = 0 then some (bytes / (w / 8)) else none

/-- A number whose digits of `w` bits are the elements, the first lowest. -/
def packBits (w : Nat) : List Nat → Nat
  | [] => 0
  | x :: xs => x % 2 ^ w + 2 ^ w * packBits w xs

/-- The bytes of a row of element codes, padded with zero elements (R23). -/
def packElems (f : Fmt) (xs : List Nat) : List Byte := toLE (packedBytes f xs.length) (packBits f.width xs)

/-- The exact values of `n` elements of a packed row, with block scales of a microscaling format (R28, R29). -/
def rowValues (f : Fmt) (bs scales : List Byte) (n : Nat) : List Fp :=
  (List.range n).map fun i =>
    if f.isMx then mxValue f (leAt scales (i / 32) 1) (elemBits f bs i) else f.decode (elemBits f bs i)

/-- The blocks of 32 elements of a list; a short last block is filled with +0 (R29). `k` bounds their number. -/
def blocks32 : Nat → List Fp → List (List Fp)
  | 0, _ => []
  | k + 1, xs => if xs.isEmpty then [] else xs.take 32 :: blocks32 k (xs.drop 32)

/-- A row of values converted to a format (R30, R34): the element codes, and the scale codes of a microscaling format.
`draw i` is the 24-bit draw of element `i`. -/
def convertRow (f : Fmt) (mode : RMode) (sat : Bool) (draw : Nat → Nat) (xs : List Fp) : List Nat × List Nat :=
  if f.isMx then
    let bl := blocks32 xs.length xs
    let scales := bl.map (mxScale f sat)
    let codes := (xs.zip (List.range xs.length)).map fun (x, i) =>
      mxElement f (scales.getD (i / 32) 0x7F) mode (draw i) x
    (codes, scales)
  else ((xs.zip (List.range xs.length)).map fun (x, i) => convert f mode sat (draw i) x, [])

/-- How many conversions of a row go from NaN to an integer (R36). -/
def nanToIntCount (f : Fmt) (xs : List Fp) : Nat := (xs.filter (countsNanToInt f)).length

end Sys2Proof.Machine
end

