-- ==== Sys2Proof/Machine/Srhash.lean ====
section
/-! DEFINITION. SRHASH (R39 to R41): the counter-based generator of every stochastic draw, and the layout of its counter. -/

namespace Sys2Proof.Machine

/-- The four 32-bit words of the function's state with its two key words. -/
structure HashState where
  x0 : W32
  x1 : W32
  x2 : W32
  x3 : W32
  k0 : W32
  k1 : W32
  deriving DecidableEq, Repr

/-- One round of R39, whose constant is `rc`; the key schedule steps at its end. -/
def hashRound (h : HashState) (rc : W32) : HashState :=
  let x0 := h.x0 + h.x1 + h.k0
  let x3 := (h.x3 ^^^ x0).rotateLeft 16
  let x2 := h.x2 + x3 + h.k1
  let x1 := (h.x1 ^^^ x2).rotateLeft 12
  let x0 := x0 + x1 + rc
  let x3 := (x3 ^^^ x0).rotateLeft 8
  let x2 := x2 + x3
  let x1 := (x1 ^^^ x2).rotateLeft 7
  ⟨x0, x1, x2, x3, h.k0 + 0x8d2b4e61#32, h.k1 + 0x4f1bc8a3#32⟩

/-- The round constants of R39, in order. -/
def hashConstants : List W32 := [0x5b1d0c47#32, 0xa3e961f2#32, 0x1f874bd6#32, 0xc42a9e05#32]

/-- srhash of R39. -/
def srhash (seed : W64) (ctr : BitVec 128) : BitVec 128 :=
  let h : HashState :=
    ⟨ctr.extractLsb' 0 32, ctr.extractLsb' 32 32, ctr.extractLsb' 64 32, ctr.extractLsb' 96 32,
      seed.extractLsb' 0 32, seed.extractLsb' 32 32⟩
  let h := hashConstants.foldl hashRound h
  (h.x3 + h.k1) ++ h.x2 ++ h.x1 ++ (h.x0 + h.k0)

/-- The u of round_sr: the low 24 bits of the hash (R39). -/
def srBits (seed : W64) (ctr : BitVec 128) : Nat := (srhash seed ctr).toNat % 2 ^ 24

/-- The coordinates of a draw, R40. Each field is taken modulo its width where the counter is formed. -/
structure DrawAt where
  tensor : Nat := 0
  tileRow : Nat := 0
  tileCol : Nat := 0
  redBlock : Nat := 0
  cellRow : Nat := 0
  cellCol : Nat := 0
  purpose : Nat := 0
  draw : Nat := 0
  deriving DecidableEq, Repr

/-- The 128-bit counter of R40. -/
def DrawAt.counter (d : DrawAt) : BitVec 128 :=
  BitVec.ofNat 32 d.tensor ++ BitVec.ofNat 16 d.tileRow ++ BitVec.ofNat 16 d.tileCol ++ BitVec.ofNat 16 d.redBlock
    ++ BitVec.ofNat 6 d.cellRow ++ BitVec.ofNat 6 d.cellCol ++ BitVec.ofNat 4 d.purpose ++ BitVec.ofNat 32 d.draw

/-- The 24-bit draw at a place under a seed (R38, R40). -/
def DrawAt.bits (seed : W64) (d : DrawAt) : Nat := srBits seed d.counter

/-- The place of element `(i, j)` of a two-dimensional view, the coordinate rule that purposes 2 and 5 share (R41). -/
def DrawAt.ofView (tensor purpose draw i j : Nat) : DrawAt where
  tensor := tensor
  tileRow := i / 2 ^ 6 % 2 ^ 16
  tileCol := j / 2 ^ 6 % 2 ^ 16
  redBlock := i / 2 ^ 22 % 2 ^ 16
  cellRow := i % 2 ^ 6
  cellCol := j % 2 ^ 6
  purpose := purpose
  draw := draw

end Sys2Proof.Machine
end

