-- ==== Sys2Proof/Machine/Cells.lean ====
section
/-! DEFINITION. What a tile computes: the fields of a TILE, its operands in the scratchpad (R69, R70, R106, R107), the
running sums of its cells (R55 to R59), skipped work (R71, R72) and the passes of multi-pass products (R78 to R80). -/

namespace Sys2Proof.Machine

/-! ### TILE fields (R105) -/
namespace T
/-- tensor_id. -/
def tensor (d : Nat) : Nat := d32 d 8
/-- tile_row. -/
def tileRow (d : Nat) : Nat := d16 d 12
/-- tile_col. -/
def tileCol (d : Nat) : Nat := d16 d 14
/-- red_block. -/
def redBlock (d : Nat) : Nat := d16 d 16
/-- steps. -/
def steps (d : Nat) : Nat := d16 d 18
/-- m. -/
def m (d : Nat) : Nat := dfield d 20 6 0
/-- n. -/
def n (d : Nat) : Nat := dfield d 21 6 0
/-- half. -/
def half (d : Nat) : Nat := dfield d 21 7 7
/-- fmt_a. -/
def fmtA (d : Nat) : Nat := dfield d 22 3 0
/-- fmt_b. -/
def fmtB (d : Nat) : Nat := dfield d 22 7 4
/-- acc_round. -/
def accRound (d : Nat) : Nat := dfield d 23 1 0
/-- acc_width: 16-bit accumulators. -/
def acc16 (d : Nat) : Bool := bit d (8 * 23 + 2)
/-- subtile. -/
def subtile (d : Nat) : Bool := bit d (8 * 23 + 3)
/-- sparse. -/
def sparse (d : Nat) : Nat := dfield d 23 5 4
/-- a_trans. -/
def aTrans (d : Nat) : Bool := bit d (8 * 23 + 6)
/-- b_trans. -/
def bTrans (d : Nat) : Bool := bit d (8 * 23 + 7)
/-- pass_mode. -/
def passMode (d : Nat) : Nat := dfield d 24 2 0
/-- spill_code. -/
def spillCode (d : Nat) : Nat := dfield d 24 5 3
/-- ls_use. -/
def lsUse (d : Nat) : Bool := bit d (8 * 24 + 6)
/-- ls_first. -/
def lsFirst (d : Nat) : Bool := bit d (8 * 24 + 7)
/-- ls_slot. -/
def lsSlot (d : Nat) : Nat := dfield d 25 2 0
/-- ls_last. -/
def lsLast (d : Nat) : Bool := bit d (8 * 25 + 3)
/-- seed_reg. -/
def seedReg (d : Nat) : Nat := dfield d 25 7 4
/-- occ_mode. -/
def occMode (d : Nat) : Nat := dfield d 26 1 0
/-- scale_mode. -/
def scaleMode (d : Nat) : Nat := dfield d 26 3 2
/-- bias_en. -/
def biasEn (d : Nat) : Bool := bit d (8 * 26 + 4)
/-- mx_axis: 1 for column. -/
def mxAxis (d : Nat) : Bool := bit d (8 * 26 + 5)
/-- out_sat. -/
def outSat (d : Nat) : Bool := bit d (8 * 26 + 6)
/-- act. -/
def act (d : Nat) : Nat := dfield d 27 3 0
/-- out_round. -/
def outRound (d : Nat) : Nat := dfield d 27 5 4
/-- a_addr. -/
def aAddr (d : Nat) : Nat := d16 d 28
/-- b_addr. -/
def bAddr (d : Nat) : Nat := d16 d 30
/-- out_addr. -/
def outAddr (d : Nat) : Nat := d16 d 32
/-- a_stride. -/
def aStride (d : Nat) : Nat := d16 d 34
/-- b_stride. -/
def bStride (d : Nat) : Nat := d16 d 36
/-- out_stride. -/
def outStride (d : Nat) : Nat := d16 d 38
/-- a_meta. -/
def aMeta (d : Nat) : Nat := d16 d 40
/-- b_meta. -/
def bMeta (d : Nat) : Nat := d16 d 42
/-- occupancy. -/
def occupancy (d : Nat) : Nat := d64 d 44
/-- tok_ctr: none for 0xFFFF. -/
def tokCtr (d : Nat) : Nat := d16 d 52
/-- row_base. -/
def rowBase (d : Nat) : Nat := d16 d 54
/-- scale_addr. -/
def scaleAddr (d : Nat) : Nat := d16 d 56
/-- bias_addr. -/
def biasAddr (d : Nat) : Nat := d16 d 58
/-- out_fmt. -/
def outFmt (d : Nat) : Nat := dfield d 60 3 0
/-- out_meta. -/
def outMeta (d : Nat) : Nat := d16 d 61
/-- meta_pitch, 0 meaning 256. -/
def metaPitch (d : Nat) : Nat := if dfield d 63 7 0 = 0 then 256 else dfield d 63 7 0

/-- The A format, where its code is defined. -/
def fa (d : Nat) : Fmt := (Fmt.ofCode (fmtA d)).getD .fp32
/-- The B format, where its code is defined. -/
def fb (d : Nat) : Fmt := (Fmt.ofCode (fmtB d)).getD .fp32
/-- The output format, where its code is defined. -/
def fo (d : Nat) : Fmt := (Fmt.ofCode (outFmt d)).getD .fp32
end T

/-- The MAC rate of an operand format within its pair (R32): 1, 2 or 4; none where the format takes no part. -/
def macRate : Fmt → Option Nat
  | .bf16 | .fp16 => some 1
  | .e4m3 | .e5m2 | .mxfp8 | .int8 => some 2
  | .mxfp6 | .mxfp4 | .int4 => some 4
  | .fp32 | .sbf => none

/-- The step width of an operand pair, where R32 accepts the pair (R55); FP32 with FP32 runs as BF16 (R33). -/
def pairWidth (a b : Fmt) : Option Nat :=
  if a = .fp32 && b = .fp32 then some 1
  else if a.isInt != b.isInt then none
  else match macRate a, macRate b with
    | some x, some y => some (min x y)
    | _, _ => none

/-- The step width w of a tile (R55). -/
def stepWidth (d : Nat) : Nat := (pairWidth (T.fa d) (T.fb d)).getD 1

/-- Reduction elements of a tile. -/
def redElems (d : Nat) : Nat := T.steps d * stepWidth d

/-- Whether A, or B, is 2:4 compressed (R69). -/
def compressedA (d : Nat) : Bool := T.sparse d == 1
/-- Whether B is 2:4 compressed. -/
def compressedB (d : Nat) : Bool := T.sparse d == 2

/-- Stored elements of an operand along the reduction axis (R107). -/
def storedElems (d : Nat) (comp : Bool) : Nat := if comp then 2 * ceilDiv (redElems d) 4 else redElems d

/-! ### Metadata regions (R70) -/

/-- Units of one plane's index section of an operand. -/
def indexUnits (d : Nat) (comp : Bool) : Nat := if comp then 64 * ceilDiv (ceilDiv (redElems d) 8) 64 else 0
/-- Pitch of the index rows. -/
def indexPitch (d : Nat) : Nat := ceilDiv (ceilDiv (redElems d) 8) 64
/-- Pitch of the scale rows. -/
def scalePitch (d : Nat) : Nat := ceilDiv (ceilDiv (redElems d) 32) 64
/-- Units of one plane's metadata region of an operand. -/
def metaUnits (d : Nat) (comp : Bool) (f : Fmt) : Nat := indexUnits d comp + (if f.isMx then 64 * scalePitch d else 0)

/-- Where an operand lies for one tile: the address and stride of a lane or reduction row. -/
structure OperandAt where
  fmt : Fmt
  comp : Bool
  trans : Bool       -- a_trans, or the negation of b_trans: rows of the reduction axis
  addr : Nat         -- units
  stride : Nat
  lane : Nat         -- element of the lane in a reduction row
  meta_ : Nat        -- units
  metaLane : Nat     -- row of the lane in the metadata
  deriving DecidableEq, Repr

/-- Bits of stored element `k` of a lane. -/
def OperandAt.bits (o : OperandAt) (s : State) (g k : Nat) : Nat :=
  let (row, i) := if o.trans then (o.addr + k * o.stride, o.lane) else (o.addr, k)
  let lo := packedBytes o.fmt (i / 4 * 4)
  elemBits o.fmt (s.spRead g (64 * row + lo) (packedBytes o.fmt 4)) (i % 4)

/-- The 2-bit position of stored element `k` of a compressed lane (R70). -/
def OperandAt.position (o : OperandAt) (s : State) (g d k : Nat) : Nat :=
  let byte := leAt (s.spRead g (64 * (o.meta_ + o.metaLane * indexPitch d) + k / 4) 1) 0 1
  field byte (2 * (k % 4) + 1) (2 * (k % 4))

/-- The scale code of block `b` of a lane; an operand without scales counts as 0x7F (R31). -/
def OperandAt.scale (o : OperandAt) (s : State) (g d b : Nat) : Nat :=
  if o.fmt.isMx then
    leAt (s.spRead g (64 * (o.meta_ + indexUnits d o.comp + o.metaLane * scalePitch d) + b) 1) 0 1
  else 0x7F

/-- Which plane, or combination of planes, a pass streams. -/
inductive Plane where
  | first | second
  | sum          -- first + second, rounded to BF16 (mode 2)
  | diff         -- second - first, rounded to BF16 (mode 2)
  | hi | lo      -- the FP32 split of R33
  | unsigned     -- the second plane's bytes read as unsigned (mode 4)
  deriving DecidableEq, Repr

/-- One pass of a product (R78, R79): its planes, the slots its values go to with their sign and power-of-two scale, the
offset of its tensor id, its pass number for SRHASH, and the plane whose epilogue follows it. -/
structure Pass where
  a : Plane := .first
  b : Plane := .first
  adds : List (Nat × Bool × Nat) := [(0, false, 0)]
  tensorOff : Nat := 0
  number : Nat := 0
  epi : Option Nat := some 0
  deriving DecidableEq, Repr

/-- The passes of a pass mode, in order (R78). -/
def passes : Nat → List Pass
  | 1 => [{ epi := none },
          { a := .second, b := .second, adds := [(0, true, 0)], number := 1 },
          { b := .second, adds := [(1, false, 0)], tensorOff := 1, epi := none },
          { a := .second, adds := [(1, false, 0)], tensorOff := 1, number := 1, epi := some 1 }]
  | 2 => [{ a := .sum, adds := [(0, false, 0), (1, false, 0)], epi := none },
          { b := .diff, adds := [(1, false, 0)], tensorOff := 1, number := 1, epi := some 1 },
          { a := .second, b := .sum, adds := [(0, true, 0)], number := 1 }]
  | 3 => [{ a := .hi, b := .hi, epi := none },
          { a := .hi, b := .lo, number := 1, epi := none },
          { a := .lo, b := .hi, number := 2 }]
  | 4 => [{ adds := [(0, false, 16)], epi := none },
          { b := .unsigned, adds := [(0, false, 8)], number := 1, epi := none },
          { a := .unsigned, adds := [(0, false, 8)], number := 2, epi := none },
          { a := .unsigned, b := .unsigned, number := 3 }]
  | _ => [{}]

/-- The pass that a tile runs. -/
def TileRun.passInfo (t : TileRun) : Pass := (passes (T.passMode t.desc)).getD t.pass {}

/-- The plane of a stored element. -/
def Plane.second? : Plane → Bool
  | .second | .unsigned => true
  | _ => false

/-- Rows of a plane along which it is stored (R107). -/
def planeRows (d : Nat) (trans comp : Bool) : Nat := if trans then storedElems d comp else 64

/-- The lane of A of row `i` of a tile, on its first or second plane. -/
def TileRun.laneA (t : TileRun) (i : Nat) (second : Bool) : OperandAt :=
  let d := t.desc
  let (addr, stride, place) := match t.rows[i]? with
    | some r => (r.aAddr, r.aStride, r.place)
    | none => (T.aAddr d, T.aStride d, i)
  { fmt := T.fa d, comp := compressedA d, trans := T.aTrans d
    addr := addr + (if T.aTrans d then 0 else place * stride)
      + (if second then planeRows d (T.aTrans d) (compressedA d) * stride else 0)
    stride := stride, lane := place
    meta_ := T.aMeta d + (if second then metaUnits d (compressedA d) (T.fa d) else 0), metaLane := i }

/-- The lane of B of column `j` of a tile, on its first or second plane. -/
def TileRun.laneB (t : TileRun) (j : Nat) (second : Bool) : OperandAt :=
  let d := t.desc
  { fmt := T.fb d, comp := compressedB d, trans := !T.bTrans d
    addr := T.bAddr d + (if T.bTrans d then j * T.bStride d else 0)
      + (if second then planeRows d (!T.bTrans d) (compressedB d) * T.bStride d else 0)
    stride := T.bStride d, lane := j
    meta_ := T.bMeta d + (if second then metaUnits d (compressedB d) (T.fb d) else 0), metaLane := j }

/-- The value of stored element `k` of a lane under a plane choice; `lane` gives the lane of either plane. -/
def planeValue (s : State) (g : Nat) (lane : Bool → OperandAt) (p : Plane) (k : Nat) : Fp :=
  let v := fun (b : Bool) => (lane b).fmt.decode ((lane b).bits s g k)
  match p with
  | .first => v false
  | .second => v true
  | .sum => rneBf16 ((v false).add (v true))
  | .diff => rneBf16 ((v true).sub (v false))
  | .hi => rneBf16 (v false)
  | .lo => rneBf16 ((v false).sub (rneBf16 (v false)))
  | .unsigned => Fp.ofInt ((lane true).bits s g k : Nat)

/-- A value of A, by stored index. -/
def TileRun.valA (t : TileRun) (s : State) (g i k : Nat) : Fp := planeValue s g (t.laneA i) t.passInfo.a k
/-- A value of B, by stored index. -/
def TileRun.valB (t : TileRun) (s : State) (g j k : Nat) : Fp := planeValue s g (t.laneB j) t.passInfo.b k

/-- The pairs of stored elements of A and B whose product belongs to dense elements `[lo, hi)` of the reduction axis
(R69): of a compressed operand, both stored values of each group of four, each with the partner at its position. -/
def TileRun.pairsIn (t : TileRun) (s : State) (g i j lo hi : Nat) : List (Nat × Nat) :=
  let d := t.desc
  let groups := rangeFrom (2 * (lo / 4)) (2 * ((hi + 3) / 4 - lo / 4))
  if compressedA d then
    (groups.map fun k => (k, k / 2 * 4 + (t.laneA i t.passInfo.a.second?).position s g d k)).filter
      fun e => lo ≤ e.2 && e.2 < hi && e.2 < redElems d
  else if compressedB d then
    (groups.map fun k => (k / 2 * 4 + (t.laneB j t.passInfo.b.second?).position s g d k, k)).filter
      fun e => lo ≤ e.1 && e.1 < hi && e.1 < redElems d
  else ((rangeFrom lo (min hi (redElems d) - lo))).map fun k => (k, k)

/-- The exact sum of the products of dense elements `[lo, hi)` of a cell, or none where every product has a zero operand
and so contributes nothing (R27). -/
def TileRun.products (t : TileRun) (s : State) (g i j lo hi : Nat) : Option Fp :=
  (t.pairsIn s g i j lo hi).foldl (fun acc (ka, kb) =>
    let a := t.valA s g i ka
    let b := t.valB s g j kb
    if a.isZero || b.isZero then acc
    else match acc with
      | some x => some (x.add (a.mul b))
      | none => some (a.mul b)) none

/-- Whether occupancy block `b` is occupied (R71). -/
def TileRun.occupied (t : TileRun) (s : State) (g b : Nat) : Bool :=
  let d := t.desc
  match T.occMode d with
  | 1 => if b < 64 then bit (T.occupancy d) b else true
  | 2 => bit (leAt (s.spRead g (64 * (T.occupancy d % 2 ^ 16) + b / 8) 1) 0 1) (b % 8)
  | _ => true

/-- A pair with an MX operand, whose rounding points are block ends (R56). -/
def mxPair (d : Nat) : Bool := (T.fa d).isMx || (T.fb d).isMx

/-- An accumulator format (R57). -/
inductive AccFmt where
  | f32 | f16 | i32 | i16
  deriving DecidableEq, Repr

/-- The accumulator format of a tile; `classF` is the class of its partition (R57, R61). -/
def accFmt (d : Nat) (classF : Bool) : AccFmt :=
  match (T.fa d).isInt, classF && T.acc16 d with
  | true, true => .i16
  | true, false => .i32
  | false, true => .f16
  | false, false => .f32

/-- The value of an accumulator's bits. -/
def AccFmt.value : AccFmt → Nat → Fp
  | .f32, c => Machine.f32.decode c
  | .f16, c => Machine.f16.decode c
  | .i32, c => Fp.ofInt (BitVec.ofNat 32 c).toInt
  | .i16, c => Fp.ofInt (BitVec.ofNat 16 c).toInt

/-- An exact sum rounded into an accumulator, +0 for a zero, and whether it overflowed (R27, R56, R57). -/
def AccFmt.put (f : AccFmt) (mode : RMode) (u : Nat) (x : Fp) : Nat × Bool :=
  let float := fun (ff : FloatFmt) (counts : Bool) =>
    let c := ff.encode mode false u x
    (if c = ff.signed true 0 then 0 else c, counts && ff.overflows mode u x)
  match f with
  | .f32 => float Machine.f32 false
  | .f16 => float Machine.f16 true
  | .i32 => (encodeInt 32 .rz 0 x, false)
  | .i16 =>
    let c := encodeInt 16 .rz 0 x
    let y := Fp.ofInt (BitVec.ofNat 16 c).toInt
    (c, Fp.lt x y || Fp.lt y x)

/-- The place of a cell's purpose-0 draws, but for the draw index (R59, R76, R79). -/
def TileRun.drawAt (t : TileRun) (i j : Nat) : DrawAt :=
  let d := t.desc
  let p := t.passInfo
  let (tensor, row, cell) := match t.rows[i]? with
    | some r => (r.tensor, r.row / 64, r.row % 64)
    | none => (T.tensor d, T.tileRow d, i)
  { tensor := tensor + p.tensorOff, tileRow := row, tileCol := T.tileCol d
    redBlock := if T.passMode d = 0 then T.redBlock d else p.number * 16384 + T.redBlock d
    cellRow := cell, cellCol := j, purpose := 0 }

/-- One rounding point of a cell: `x` enters the running sum at logical step `r`. -/
def TileRun.roundPoint (t : TileRun) (f : AccFmt) (i j r : Nat) (acc : Nat × Bool) (x : Fp) : Nat × Bool :=
  let mode := (RMode.ofCode (T.accRound t.desc)).getD .rne
  let u := if mode = .sr then { t.drawAt i j with draw := r % 16384 }.bits t.seed else 0
  let (c, o) := f.put mode u ((f.value acc.1).add x)
  (c, acc.2 || o)

/-- cell_step of R56 over the logical steps `[lo, hi)` of a segment, from a running sum: its bits and whether a 16-bit sum
has overflowed. -/
def TileRun.cell (t : TileRun) (s : State) (g : Nat) (f : AccFmt) (i j lo hi : Nat) (acc : Nat × Bool) : Nat × Bool :=
  let d := t.desc
  let w := stepWidth d
  if mxPair d then
    let per := 32 / w
    (rangeFrom (lo / per) (ceilDiv hi per - lo / per)).foldl (fun acc b =>
      if t.occupied s g (b * per / 64) then
        let sa := (t.laneA i t.passInfo.a.second?).scale s g d b
        let sb := (t.laneB j t.passInfo.b.second?).scale s g d b
        if sa = 0xFF || sb = 0xFF then t.roundPoint f i j (b * per + per - 1) acc .nan
        else match t.products s g i j (32 * b) (min (32 * b + 32) (hi * w)) with
          | some x => t.roundPoint f i j (b * per + per - 1) acc (x.scale ((sa : Int) + sb - 254))
          | none => acc
      else acc) acc
  else
    (rangeFrom lo (hi - lo)).foldl (fun acc r =>
      if t.occupied s g (r / 64) then
        match t.products s g i j (w * r) (w * r + w) with
        | some x => t.roundPoint f i j r acc x
        | none => acc
      else acc) acc

/-! ### Streamed and skipped beats (R71, R72) -/

/-- Whether a lane's elements of a beat are all zero, and no block of it is a NaN block. -/
def laneZero (t : TileRun) (s : State) (g : Nat) (isA : Bool) (lane lo n : Nat) : Bool :=
  (rangeFrom lo n).all fun k => ((if isA then t.valA s g lane k else t.valB s g lane k)).isZero

/-- Whether a block of a lane that dense elements `[lo, hi)` touch has scale code 0xFF. -/
def laneNan (t : TileRun) (s : State) (g : Nat) (isA : Bool) (lane lo hi : Nat) : Bool :=
  let o := if isA then t.laneA lane t.passInfo.a.second? else t.laneB lane t.passInfo.b.second?
  o.fmt.isMx && (rangeFrom (lo / 32) (ceilDiv hi 32 - lo / 32)).any fun b => o.scale s g t.desc b == 0xFF

/-- Whether beat `q` of a tile is streamed: a beat covers `w` dense elements, or `2 w` in a 2:4 tile. -/
def TileRun.beatStreams (t : TileRun) (s : State) (g q : Nat) : Bool :=
  let d := t.desc
  let w := stepWidth d
  let sp := compressedA d || compressedB d
  let lo := if sp then 2 * w * q else w * q
  let hi := min (redElems d) (if sp then lo + 2 * w else lo + w)
  let rng := fun (comp : Bool) => if comp then (w * q, min w (storedElems d true - w * q)) else (lo, hi - lo)
  let lanesA := List.range t.m
  let lanesB := List.range (T.n d)
  let nan := lanesA.any (fun i => laneNan t s g true i lo hi) || lanesB.any (fun j => laneNan t s g false j lo hi)
  let za := lanesA.all fun i => laneZero t s g true i (rng (compressedA d)).1 (rng (compressedA d)).2
  let zb := lanesB.all fun j => laneZero t s g false j (rng (compressedB d)).1 (rng (compressedB d)).2
  nan || !(za || zb)

/-- Beats streamed, zero beats skipped and unoccupied blocks of the steps `[lo, hi)` of a tile. -/
def TileRun.work (t : TileRun) (s : State) (g lo hi : Nat) : Nat × Nat × Nat :=
  let per := if compressedA t.desc || compressedB t.desc then 2 else 1
  let blocks := (rangeFrom (lo / 64) (ceilDiv hi 64 - lo / 64)).filter fun b => !t.occupied s g b
  let beats := (rangeFrom (lo / per) (ceilDiv hi per - lo / per)).filter fun q => t.occupied s g (q * per / 64)
  let on := beats.filter fun q => t.beatStreams s g q
  (on.length, beats.length - on.length, blocks.length)

/-! ### Spill points (R64) -/

/-- The end of the segment that starts at a step: the next spill point, or the tile's last step. -/
def segmentEnd (d at_ : Nat) : Nat :=
  if T.spillCode d = 7 then T.steps d else min (T.steps d) (at_ + 256 * 2 ^ T.spillCode d)

/-- Whether a tile adds to long-sum slots. -/
def usesSlot (d : Nat) : Bool := T.lsUse d

/-- The slots a tile's pass adds to. -/
def TileRun.slots (t : TileRun) : List Nat := t.passInfo.adds.map fun e => T.lsSlot t.desc + e.1

/-! ### The checks of a tile at issue (R466, R104) -/

/-- The tile fault that a TILE, or a GATHER with its template, raises at issue: the first cause in the order of R466.
`open_` is the mask of slots opened, `norm` whether slot 7 belongs to the norm, `gathered` whether it is a template with
the rows of a request in place of its own. -/
def tileFaultCause (d : Nat) (classF gathered norm : Bool) (open_ : Nat) : Option Nat :=
  let mode := T.passMode d
  let codes := [T.fmtA d, T.fmtB d, T.outFmt d]
  let slots := if mode = 1 || mode = 2 then [T.lsSlot d, T.lsSlot d + 1] else [T.lsSlot d]
  let fmtOk := match mode with
    | 0 | 1 => (T.fa d != .fp32 || T.fb d != .fp32) && (pairWidth (T.fa d) (T.fb d)).isSome
    | 2 => T.fa d == .bf16 && T.fb d == .bf16
    | 3 => T.fa d == .fp32 && T.fb d == .fp32
    | _ => T.fa d == .int8 && T.fb d == .int8
  if codes.any (· ≥ 11) || T.accRound d = 3 || mode ≥ 5 || T.occMode d = 3 || T.act d ≥ 8 || T.outRound d = 3 then some 5
  else if codes.any (· == 10) then some 4
  else if !fmtOk then some 3
  else if T.sparse d = 3 || (mode = 2 && T.sparse d != 0) then some 8
  else if T.steps d > 16384 || T.m d > 64 || T.n d > (if T.subtile d then 32 else 64)
      || (!classF && (T.acc16 d || T.subtile d)) || (mode != 0 && T.redBlock d ≥ 16384)
      || (gathered && (T.subtile d || mode = 1 || mode = 2 || T.m d = 0)) then some 6
  else if (!T.lsUse d && (mode != 0 || T.spillCode d != 7)) || ((mode = 1 || mode = 2) && T.lsSlot d % 2 = 1)
      || (T.lsUse d && !T.lsFirst d && slots.any fun i => !bit open_ i) || (T.lsUse d && norm && slots.contains 7) then
    some 7
  else none

/-- A row range of a scratchpad: the unit after the last one of `rows` rows `stride` units apart of `bytes` bytes. -/
def rowsEnd (addr stride rows bytes : Nat) : Nat :=
  if rows = 0 || bytes = 0 then 0 else addr + (rows - 1) * stride + ceilDiv bytes 64

/-- The end of an operand's data over its lanes and reduction elements, on one or two planes. -/
def operandEnd (d : Nat) (f : Fmt) (addr stride lanes : Nat) (trans comp two : Bool) : Nat :=
  let k := storedElems d comp
  let a := addr + (if two then planeRows d trans comp * stride else 0)
  if trans then rowsEnd a stride k (packedBytes f lanes) else rowsEnd a stride lanes (packedBytes f k)

/-- The end of an operand's metadata region, on one or two planes. -/
def metaEnd (d : Nat) (f : Fmt) (meta_ : Nat) (comp two : Bool) : Nat :=
  let u := metaUnits d comp f
  if u = 0 then 0 else meta_ + u * (if two then 2 else 1)

/-- Two planes: the complex modes and INT16 (R107). -/
def twoPlanes (d : Nat) : Bool := [1, 2, 4].contains (T.passMode d)

/-- Whether every scratchpad range of a tile of `m` rows lies within the 65,536 units (R104). `a` and `o` are the A and
output addresses and strides, which a GATHER gives for its own rows, and `slot` is the place in the tile of its first row. -/
def tileInRange (d slot m : Nat) (a o : Nat × Nat) : Bool :=
  let n := T.n d
  let complex := T.passMode d = 1 || T.passMode d = 2
  let outRows := if complex then 64 + m else m
  let axisRows := (if complex then 64 else 0) + (if T.mxAxis d then n else slot + m)
  [operandEnd d (T.fa d) a.1 a.2 m (T.aTrans d) (compressedA d) (twoPlanes d),
   operandEnd d (T.fb d) (T.bAddr d) (T.bStride d) n (!T.bTrans d) (compressedB d) (twoPlanes d),
   metaEnd d (T.fa d) (T.aMeta d) (compressedA d) (twoPlanes d),
   metaEnd d (T.fb d) (T.bMeta d) (compressedB d) (twoPlanes d),
   rowsEnd o.1 o.2 outRows (packedBytes (T.fo d) n),
   (if (T.fo d).isMx then rowsEnd (T.outMeta d) (T.metaPitch d) axisRows 64 else 0),
   (if T.occMode d = 2 then rowsEnd (T.occupancy d % 2 ^ 16) 0 1 (ceilDiv (ceilDiv (T.steps d) 64) 8) else 0),
   (match T.scaleMode d with
     | 1 => rowsEnd (T.scaleAddr d) 0 1 4
     | 2 => rowsEnd (T.scaleAddr d) 0 1 (4 * (slot + m))
     | 3 => rowsEnd (T.scaleAddr d) 0 1 (4 * n)
     | _ => 0),
   (if T.biasEn d then rowsEnd (T.biasAddr d) 0 1 (4 * n) else 0)].all (· ≤ 65536)

/-- Where element `i` of a packed row stands: the byte or 3-byte group that holds it (R23). -/
def elemPlace (f : Fmt) (i : Nat) : Nat × Nat :=
  match f.width with
  | 4 => (i / 2, 1)
  | 6 => (i / 4 * 3, 3)
  | w => (i * (w / 8), w / 8)

/-- The scratchpad ranges, in bytes, that an operand's data takes on one plane: over `lanes` lanes, or over the one lane
`only` of a transposed operand (R106). -/
def operandReads (d : Nat) (f : Fmt) (addr stride lanes : Nat) (only : Option Nat) (trans comp : Bool) : Ranges :=
  let k := storedElems d comp
  if trans then
    let (o, b) := match only with
      | some i => elemPlace f i
      | none => (0, packedBytes f lanes)
    (List.range k).map fun r => (64 * (addr + r * stride) + o, b)
  else (List.range lanes).map fun i => (64 * (addr + i * stride), packedBytes f k)

/-- The ranges of an operand's metadata on one plane: the rows of its first `lanes` lanes (R70). -/
def metaReads (d : Nat) (f : Fmt) (meta_ lanes : Nat) (comp : Bool) : Ranges :=
  (List.range lanes).flatMap fun i =>
    [(64 * (meta_ + i * indexPitch d), if comp then ceilDiv (ceilDiv (redElems d) 4) 2 else 0),
     (64 * (meta_ + indexUnits d comp + i * scalePitch d), if f.isMx then ceilDiv (redElems d) 32 else 0)]

/-- The scratchpad ranges, in bytes, that a tile reads and that are protected from its issue until it ends (R85). -/
def TileRun.reads (t : TileRun) : Ranges :=
  let d := t.desc
  let n := T.n d
  let ca := compressedA d
  let cb := compressedB d
  (((List.range (if twoPlanes d then 2 else 1)).flatMap fun p =>
    let up := fun (trans comp : Bool) (stride : Nat) => p * planeRows d trans comp * stride
    (if t.rows.isEmpty then
        operandReads d (T.fa d) (T.aAddr d + up (T.aTrans d) ca (T.aStride d)) (T.aStride d) t.m none (T.aTrans d) ca
      else t.rows.flatMap fun r =>
        operandReads d (T.fa d) (r.aAddr + (if T.aTrans d then 0 else r.place * r.aStride) + up (T.aTrans d) ca r.aStride)
          r.aStride 1 (some r.place) (T.aTrans d) ca)
      ++ operandReads d (T.fb d) (T.bAddr d + up (!T.bTrans d) cb (T.bStride d)) (T.bStride d) n none (!T.bTrans d) cb
      ++ metaReads d (T.fa d) (T.aMeta d + p * metaUnits d ca (T.fa d)) t.m ca
      ++ metaReads d (T.fb d) (T.bMeta d + p * metaUnits d cb (T.fb d)) n cb)
    ++ [(64 * (T.occupancy d % 2 ^ 16), if T.occMode d = 2 then ceilDiv (ceilDiv (T.steps d) 64) 8 else 0),
        (64 * T.scaleAddr d, match T.scaleMode d with
          | 1 => 4
          | 2 => 4 * t.m
          | 3 => 4 * n
          | _ => 0),
        (64 * T.biasAddr d, if T.biasEn d then 4 * n else 0)]).filter (·.2 != 0)

/-- Whether a range of scratchpad bytes meets a protected range of a core (R85). -/
def Core.protects (k : Core) (o n : Nat) : Bool :=
  n != 0 && k.tiles.any fun t => t.reads.any fun (a, m) => decide (a < o + n ∧ o < a + m)

end Sys2Proof.Machine
end

