-- ==== Sys2Proof/Machine/Status.lean ====
section
/-! DEFINITION. Status packets and the end of commands (R324, R329, R330, R343). -/

namespace Sys2Proof.Machine

/-! Status codes of R339. -/
/-- OK. -/
def stOk : Nat := 0
/-- ACCEPTED. -/
def stAccepted : Nat := 1
/-- BAD_OPCODE. -/
def stBadOpcode : Nat := 0x10
/-- BAD_PARAM. -/
def stBadParam : Nat := 0x11
/-- NO_RESOURCE. -/
def stNoResource : Nat := 0x12
/-- ABSENT_UNIT. -/
def stAbsentUnit : Nat := 0x13
/-- PREEMPTED. -/
def stPreempted : Nat := 0x20
/-- ABORTED. -/
def stAborted : Nat := 0x21
/-- TILE_FAULT. -/
def stTileFault : Nat := 0x30
/-- MEM_POISON. -/
def stMemPoison : Nat := 0x31
/-- COURSE_DOWN. -/
def stCourseDown : Nat := 0x32
/-- SECURITY. -/
def stSecurity : Nat := 0x40
/-- VAULT_FULL. -/
def stVaultFull : Nat := 0x50
/-- VAULT_MEDIA. -/
def stVaultMedia : Nat := 0x51

/-- Job `j` of Capo. -/
def State.job (s : State) (j : Nat) : CapoJob := Tab.get {} s.capo j
/-- The state with a Capo job changed. -/
def State.modJob (s : State) (j : Nat) (f : CapoJob → CapoJob) : State := { s with capo := Tab.update {} s.capo j f }

/-- A status packet but for the fields that are set when it is written: phase, sq_head, count and stamp (R329). -/
def statusPacket (tag code q detail : Nat) (final : Bool) : List Byte :=
  toLE 4 tag ++ toLE 2 code ++ toLE 1 (2 * ofBool final) ++ toLE 1 (q % 32) ++ toLE 8 detail

/-- The 32 bytes of a status as it is written to the completion queue. -/
def sealStatus (st : List Byte) (phase : Bool) (sqHead count stamp : Nat) : List Byte :=
  st.take 6 ++ [BitVec.ofNat 8 (leAt st 6 1 + ofBool phase)] ++ (st.drop 7).take 9
    ++ toLE 2 sqHead ++ toLE 2 0 ++ toLE 4 count ++ toLE 8 stamp

/-- A completion queue that is full (R324). -/
def Queue.cqFull (q : Queue) : Bool := q.size != 0 && (q.cqTail + 1) % q.size == q.cqHead

/-- One status is written at the completion queue's tail (R324). -/
def State.putStatus (s : State) (f q : Nat) (st : List Byte) : State :=
  let x := s.queue f q
  let (k, s) := s.draw
  let count := wrapAdd 32 x.count 1
  let s := s.hostWrite (x.cqBase + 32 * x.cqTail) (sealStatus st x.phase x.sqHead count (Config.hubTime k % 2 ^ 64))
  s.modQueue f q fun x =>
    let t := if x.cqTail + 1 = x.size then 0 else x.cqTail + 1
    { x with cqTail := t, phase := if t = 0 then !x.phase else x.phase, count := count }

/-- Statuses that wait are written, oldest first, while the queue has room. -/
def State.flushStatuses (s : State) (f q : Nat) : Nat → State
  | 0 => s
  | k + 1 =>
    let x := s.queue f q
    match x.waiting with
    | [] => s
    | st :: rest =>
      if x.cqFull then s
      else ((s.modQueue f q fun x => { x with waiting := rest }).putStatus f q st).flushStatuses f q k

/-- A status of a function's queue: discarded while its Bus Master Enable is 0 (R343), held while the queue is full or
others wait (R324), and otherwise written. -/
def State.status (s : State) (f q : Nat) (st : List Byte) : State :=
  if !(s.fn f).busMaster then s
  else
    let s := s.modQueue f q fun x => { x with waiting := x.waiting ++ [st] }
    s.flushStatuses f q (s.queue f q).waiting.length

/-- The accepted command of a number. -/
def State.cmd (s : State) (n : Nat) : Option Cmd := s.hub.accepted.find? (·.number == n)

/-- The state with an accepted command changed. -/
def State.modCmd (s : State) (n : Nat) (f : Cmd → Cmd) : State :=
  { s with hub := { s.hub with accepted := s.hub.accepted.map fun c => if c.number = n then f c else c } }

/-- A command receives its final status and leaves the accepted commands (R330). -/
def State.finish (s : State) (n code detail : Nat) : State :=
  match s.cmd n with
  | none => s
  | some c =>
    let s := { s with hub := { s.hub with accepted := s.hub.accepted.filter (·.number != n) } }
    if c.silent then s else s.status c.fn c.queue (statusPacket c.tag code c.queue detail true)

/-- A command receives its interim ACCEPTED, once (R330). -/
def State.interim (s : State) (n : Nat) : State :=
  match s.cmd n with
  | none => s
  | some c =>
    if c.interim then s
    else
      let s := s.modCmd n fun c => { c with interim := true }
      if c.silent then s else s.status c.fn c.queue (statusPacket c.tag stAccepted c.queue 0 false)

/-- Several commands end on one event: their statuses are written in acceptance order (R330). -/
def State.finishAll (s : State) (ns : List Nat) (code detail : Nat) : State :=
  ((s.hub.accepted.map (·.number)).filter ns.contains).foldl (fun s n => s.finish n code detail) s

end Sys2Proof.Machine
end

