-- ==== Sys2Proof/Machine/Seq.lean ====
section
/-! DEFINITION. The sequencer: descriptor fetch and issue (R90 to R97), completion (R103), faults (R121), the version
selector and pins (R203, R205), context switches (R306 to R311) and the end of a LAUNCH (R335, R315 to R317). -/

namespace Sys2Proof.Machine

/-! ### Capo's frame end and log (R315 to R317) -/

/-- Capo writes a log entry and asserts its source (R317). -/
def State.capoEntry (s : State) (j frame kind milestone t p : Nat) : State :=
  let b := s.job j
  let bs := toLE 8 frame ++ toLE 1 kind ++ toLE 1 milestone ++ toLE 2 0 ++ toLE 4 t ++ toLE 4 p ++ fill 12 0
  let a := b.rec_.logBase + 32 * (b.logWritten % max 1 b.rec_.logEntries)
  let s := s.hubWrite b.part 9 .plain a bs
  s.modJob j fun b => { b with logWritten := wrapAdd 24 b.logWritten 1, event := true }

/-- A frame of a Capo job ends with its LAUNCH, whatever the status: its slack is kept, and a frame that finishes after D is a
miss (R315, R316). -/
def State.capoFinish (s : State) (j : Nat) : State :=
  match (s.job j).frame with
  | none => s
  | some fr =>
    let (k, s) := s.draw
    let t := Config.elapsedCycles k
    let slack : Int := (s.job j).rec_.budget - t
    let s := s.modJob j fun b => { b with
      frame := none
      slacks := (slack :: b.slacks).take 255 }
    if fr.late && !fr.missed then
      (s.capoEntry j fr.number 2 0xFF (t % 2 ^ 32) 0).modJob j fun b => { b with misses := satAdd 8 b.misses 1 }
    else s

/-- The Capo job whose frame in progress is the LAUNCH of a command. -/
def State.capoOf (s : State) (cmd : Nat) : Option Nat :=
  (List.range 16).find? fun j => match (s.job j).frame with
    | some fr => fr.cmd == cmd
    | none => false

/-- A context's LAUNCH ends with a status (R335). -/
def State.endLaunch (s : State) (n c code detail : Nat) : State :=
  match s.ctx n c with
  | none => s
  | some x =>
    match x.launch with
    | none => s
    | some l =>
      let s := s.modCtx n c fun x => { x with launch := none }
      let s := match s.capoOf l.cmd with
        | some j => s.capoFinish j
        | none => s
      s.finish l.cmd code (if code = stOk then l.detail else detail)

/-! ### Faults (R121) -/

/-- Every core of a context stops issuing at its next descriptor and runs to a core boundary. -/
def State.stopCores (s : State) (n c : Nat) : State :=
  match s.ctx n c with
  | none => s
  | some x => x.coreList.foldl (fun s g =>
      let k := s.core g
      if k.part = n && k.ctx = some c && (k.state = .issuing || k.state = .waiting || k.state = .held) then
        s.modCore g fun k => { k with stopReq := true, state := .stopping }
      else s) s

/-- The context stops as R121 describes: its cores run to a boundary and its LAUNCH completes with a status. -/
def State.stopContext (s : State) (n c code detail : Nat) : State :=
  let s := s.stopCores n c
  let s := s.modCtx n c fun x => { x with stopped := true }
  s.endLaunch n c code detail

/-- The cycles that a WAIT has spent in state 2 are counted as it completes or is abandoned (R122): a measured interval. -/
def State.waitedCycles (s : State) (g : Nat) : State :=
  if (s.core g).wait.isNone then s
  else
    let (k, s) := s.draw
    s.modCore g fun q => { q with waitCycles := wrapAdd 48 q.waitCycles (Config.elapsedCycles k) }

/-- A sequencer fault (R121): the first is recorded, the core stops, the context stops. -/
def State.seqFault (s : State) (g cause kind index : Nat) : State :=
  let s := s.waitedCycles g
  let k := s.core g
  let s := s.modCore g fun k => { k with
    seqErr := match k.seqErr with
      | some r => some r
      | none => some { cause := cause, kind := kind, index := index }
    state := .faulted, fenceWait := false, queueFull := false, wait := none }
  match k.ctx with
  | none => s
  | some c => s.stopContext k.part c (if cause = 8 || cause = 9 then stMemPoison else stTileFault) g

/-- A tile fault (R87, R466): recorded in ENG_FAULT_INFO, then a sequencer fault of cause 0x0B. -/
def State.tileFault (s : State) (g cause engine step kind index : Nat) : State :=
  let s := s.modCore g fun k => { k with
    engErr := match k.engErr with
      | some r => some r
      | none => some { cause := cause, engine := engine, step := step, index := index }
    tileFaults := satAdd 8 k.tileFaults 1 }
  let s := s.census 1
  s.seqFault g 0x0B kind index

/-- An access of a core that translation refused (R229): FRT_FAULT_INFO and a sequencer fault. -/
def State.accessFault (s : State) (g addr : Nat) (poison : Bool) (kind index : Nat) : State :=
  (s.noteFault (s.core g).part (dieOf g) addr poison).seqFault g (if poison then 9 else 3) kind index

/-- What reads meet: in an on-die memory an error that parity or ECC finds, in the scratchpad of core `m` where `sp` says that one
is read, in the memory of cluster `cl` where `cm` does; in device memory, where `dev` says that it is accessed, a correction by
its controller, or a host that stops answering. An error is counted; the result says whether nothing mends it (R235, R236, R239,
R242, R244, R361, R389). -/
def State.readMet (s : State) (m cl : Nat) (sp cm dev : Bool) (e : ReadError) : State × Bool :=
  match e with
  | .none => (s, false)
  | .spSoft =>
    (if sp then ((s.modCore m fun k => { k with spSoft := satAdd 16 k.spSoft 1 }).census 1).corrected 1 else s, false)
  | .spHard => (if sp then (s.modCore m fun k => { k with spHard := satAdd 16 k.spHard 1 }).census 1 else s, sp)
  | .cmSingle =>
    (if cm then (s.modCluster cl fun c => { c with cmCorrected := satAdd 24 c.cmCorrected 1 }).memCorrected 1 else s, false)
  | .cmDouble =>
    (if cm then (s.modCluster cl fun c => { c with cmUncorrectable := satAdd 8 c.cmUncorrectable 1 }).memUncorrected 1 else s, cm)
  | .demand c r => (if dev && s.carries c then s.countFix c r else s, false)
  | .unanswered => (if dev then s.modFrt fun f => { f with silent := true } else s, false)

/-- A descriptor of core `g` reads. An error that nothing mends stops the core with cause 0x09, and otherwise `go` goes on (R235,
R236). -/
def State.onDieRead (s : State) (g m cl kind index : Nat) (sp cm dev : Bool) (e : ReadError) (go : State → State) : State :=
  let (t, bad) := s.readMet m cl sp cm dev e
  if bad then t.seqFault g 9 kind index else go t

/-! ### Scalar registers and the version selector (R93, R203, R205) -/

/-- The version that a value of SQ_A14 selects. -/
def selectorOf (v : W64) : Option Nat := if bit v.toNat 4 then some (v.toNat % 16) else none

/-- The core's selector for the reads of R203. -/
def Core.sel (k : Core) : Sel :=
  match selectorOf (k.sq.getD 14 0) with
  | some v => .version v
  | none => .newest

/-- A scalar register is written; a change of SQ_A14 moves the core's pin in the same operation (R203). -/
def State.setSq (s : State) (g r : Nat) (v : W64) : State :=
  let k := s.core g
  let s := s.modCore g fun k => { k with sq := k.sq.set r v }
  match k.ctx with
  | some c => if r = 14 then s.modCtxCore k.part c g fun y => { y with pin := selectorOf v } else s
  | none => s

/-- The pin count of a context for a version (R205). -/
def Ctx.pins (x : Ctx) (v : Nat) : Nat :=
  (x.cores.filter fun e => e.2.pin == some (v % 16)).length + (x.segPins.filter fun q => q.version == v % 16).length

/-! ### Descriptor fetch (R90 to R92) -/

/-- The line of 8 descriptors that holds an index. -/
def lineOf (i : Nat) : Nat := i / 8

/-- What the descriptor cache holds for an index. -/
def Core.fetched (k : Core) (i : Nat) : Option Fetched :=
  (k.cacheLines.find? (·.1 == lineOf i)).bind fun e => e.2[i % 8]?

/-- The descriptor of an index as device memory holds it now. -/
def State.fetchAt (s : State) (g i : Nat) : Acc Nat :=
  let k := s.core g
  match s.devRead k.part .plain .newest (k.base + 64 * i) 64 with
  | .ok bs => .ok (ofLE bs)
  | .bad a p => .bad a p
  | .wait a => .wait a

/-- The descriptor of an index of a core's program: as the descriptor cache holds it, and otherwise as device memory does. -/
def State.descriptor (s : State) (g i : Nat) : Acc Nat :=
  match (s.core g).fetched i with
  | some (.word d) => .ok d
  | some (.refused a p) => .bad a p
  | none => s.fetchAt g i

/-- The descriptors of line `l` that belong to the program, as a fetch brings them now; none where one of them waits. -/
def State.fetchLine (s : State) (g l : Nat) : Option (List Fetched) :=
  (List.range (min 8 ((s.core g).count - 8 * l))).foldr (fun i r =>
    match s.fetchAt g (8 * l + i), r with
    | .ok d, some t => some (.word d :: t)
    | .bad a p, some t => some (.refused a p :: t)
    | _, _ => none) (some [])

/-- A fetched line enters the descriptor cache of 64 lines, the oldest leaving it. -/
def Core.fillLine (k : Core) (l : Nat) (ds : List Fetched) : Core :=
  { k with cacheLines := ((l, ds) :: k.cacheLines.filter (·.1 != l)).take 64 }

/-- Whether a core is issuing: a context runs on it, nothing holds it, and no stopped UPDATE or COLL has to
be resumed first (R208). -/
def Core.issuing (k : Core) : Bool := k.ctx.isSome && k.state == .issuing && !k.stopReq && k.resumePoint.isNone && decide (k.pc < k.count)

/-- Whether a fold of a context runs, during which none of its core programs runs (R155). -/
def State.folding (s : State) (n c : Nat) : Bool := (Tab.get {} s.res.parts n).fold.any (·.ctx == c)

/-- What the issue point finds. -/
inductive Gate where
  | stay (s : State)           -- nothing is issued
  | go (d : Nat)               -- the descriptor, as stored
  deriving DecidableEq, Repr

/-- The issue point of a core for descriptors that `sel` picks out: the line must be cached (R92), the fence satisfied
(R96) and the unit's queue not full (R94). A template, which is not issued, waits for neither (R103). -/
def State.gate (s : State) (g : Nat) (sel : Nat → Bool) (fenced : Bool) (load depth : Nat) : Gate :=
  let k := s.core g
  if !(decide (g < numCores) && k.issuing) || k.ctx.any (s.folding k.part) then .stay s
  else match k.fetched k.pc with
    | none =>
      .stay (if k.missing then s
        else s.modCore g fun k => { k with missing := true, dcMisses := wrapAdd 32 k.dcMisses 1 })
    | some (.refused _ p) => .stay (s.seqFault g (if p then 8 else 3) 0 k.pc)
    | some (.word d) =>
      if !sel d then .stay s
      else if dType d = tyTile && dTemplate d then .go d
      else if (fenced || dFence d) && !k.issued.isEmpty then .stay (s.modCore g fun k => { k with fenceWait := true })
      else if load ≥ depth then
        .stay (if k.queueFull then s
          else s.modCore g fun k => { k with
            queueFull := true
            moveFull := if dType d = tyMove then satAdd 16 k.moveFull 1 else k.moveFull })
      else .go d

/-- A descriptor has been issued: the next one follows it. -/
def State.advance (s : State) (g : Nat) : State :=
  s.modCore g fun k => { k with
    pc := k.pc + 1, issueCnt := wrapAdd 64 k.issueCnt 1, dcHits := wrapAdd 32 k.dcHits 1
    serial := k.serial + 1, fenceWait := false, queueFull := false
    pairs := k.pairs.filter fun e => e.2 + 1 != k.pc
    seg := k.seg.map fun q => { q with count := q.count + 1 } }

/-- The checks that every descriptor meets at issue: the content of a replay segment (R111) and its done counter
(R99). DESIGN CHOICE: the descriptors of a handler that runs while a segment is open are no content of it (log 176). -/
def State.headerFault (s : State) (g d : Nat) : Option Nat :=
  let k := s.core g
  if k.seg.isSome && !k.inHandler && !([1, 2, 3, 6, 9].contains (dType d)) then some 5
  else if dDoneEn d && !s.clusterIn k.part (counterCluster (ownDie g (dDoneCtr d))) then some 2
  else none

/-! ### Context switches (R306 to R311) -/

/-- Bytes of one record of a save area (R310). -/
def Ctx.recordBytes (x : Ctx) : Nat := alignUp (0x1000 + 0x8000 * popcount 8 x.lsMask + 64 * x.spUnits) 0x10000

/-- The device address of the record of a core. -/
def Ctx.recordOf (x : Ctx) (g : Nat) : Nat := x.saveBase + (x.coreList.idxOf g) * x.recordBytes

/-- The sequencer state as a record holds it (R311). DESIGN CHOICE: bit 48 of an entry tells axis 5, whose group is the package
itself. -/
def seqImage (k : Core) : List Byte :=
  let pc := k.pc + ofBool k.inHandler * 2 ^ 32 + ofBool k.seg.isSome * 2 ^ 33 + ofBool k.lastStep.isSome * 2 ^ 34
  let seg := match k.seg with
    | some q => q.id
    | none => 0
  let (ri, rk, rb) := match k.resumePoint with
    | some (i, e) => (i, e, 1)
    | none => (0, 0, 0)
  toLE 8 pc ++ toLE 4 k.irqRet ++ toLE 4 seg ++ (k.sq.flatMap fun v => toLE 8 v.toNat)
    ++ toLE 4 ri ++ toLE 4 rb ++ toLE 8 rk ++ fill 96 0
    ++ padTo 3840 ((k.cseq.take 480).flatMap fun (grp, c) => toLE 8 (grp % 2 ^ 16 + c % 2 ^ 32 * 2 ^ 16 + grp / 2 ^ 16 * 2 ^ 48))

/-- The groups of a saved sequencer state: entries that are zero are unused (R311). -/
def groupsOf (bs : List Byte) : Tab Nat :=
  (List.range 480).foldl (fun t i =>
    let e := leAt bs (8 * i) 8
    if e = 0 then t else Tab.insert (field e 15 0 + 2 ^ 16 * field e 48 48) (field e 47 16) t) []

/-- Where a context's extent unit stands in its record. -/
def Ctx.unitOffset (x : Ctx) (u : Nat) : Nat := 0x1000 + 0x8000 * popcount 8 x.lsMask + 64 * (u - x.spBase)
/-- Where a long-sum slot stands in a record: slots of the mask in ascending order. -/
def Ctx.slotOffset (x : Ctx) (slot : Nat) : Nat := 0x1000 + 0x8000 * popcount slot x.lsMask

/-- A context stops under R121 with cause 3, or 9 for poison, while a switch of a core saves or restores it. The descriptor that
SEQ_FAULT_INFO names is a free value: the manual names none. -/
def State.recordStop (s : State) (n c g : Nat) (poison : Bool) : State :=
  let (i, s) := s.draw
  let s := s.modCore g fun k => { k with
    seqErr := match k.seqErr with
      | some r => some r
      | none => some
          { cause := if poison then 9 else 3
            kind := field (Config.value i).toNat 7 0, index := field (Config.value i).toNat 39 8 } }
  s.stopContext n c (if poison then stMemPoison else stTileFault) g

/-- An access to a context's record is refused: it stops the context (R229, R310). -/
def State.recordRefused (s : State) (n c g a : Nat) (poison : Bool) : State :=
  (s.noteFault n (dieOf g) a poison).recordStop n c g poison

/-- Bytes written to a context's record, and counted in saved_kib. A refusal stops the context under R121 and writes nothing
(R310); a page that moves or drains takes them once it may (R228). -/
def State.recordWrite (s : State) (n c g off : Nat) (bs : List Byte) : State :=
  match s.ctx n c with
  | none => s
  | some x =>
    match s.devCheckWrite n .plain (x.recordOf g + off) bs.length with
    | .bad a p => s.recordRefused n c g a p
    | _ => (s.hubWrite n 9 .plain (x.recordOf g + off) bs).modCore g fun k => { k with
        savedBytes := wrapAdd 42 k.savedBytes bs.length }

/-- A context's units of `[a, a + k)` and slots of a mask that stand on a core are saved and no longer resident. -/
def State.saveData (s : State) (n c g a k slots : Nat) : State :=
  match s.ctx n c with
  | none => s
  | some x =>
    let y := x.core g
    let rs := y.resident.within a k
    let ms := (bitsOf 8 (y.slotsResident &&& slots))
    let s := ms.foldl (fun s i => s.recordWrite n c g (x.slotOffset i) (s.mems.ls.read (lsAddr g i 0 0) 0x8000)) s
    let s := rs.foldl (fun s (b, m) => s.recordWrite n c g (x.unitOffset b) (s.spRead g (64 * b) (64 * m))) s
    s.modCtxCore n c g fun y => { y with
      resident := y.resident.minus a k, saved := rs ++ y.saved
      slotsResident := y.slotsResident - (y.slotsResident &&& slots)
      slotsSaved := y.slotsSaved ||| (y.slotsResident &&& slots) }

/-- A waiting WAIT is abandoned at the core boundary; it is the next descriptor to issue (R119, R308). -/
def Core.dropWait (k : Core) : Core :=
  { k with
    pc := match k.wait with
      | some w => w.index
      | none => k.pc
    wait := none }

/-- The sequencer state of the running context is saved; a waiting WAIT is abandoned and will be issued again. -/
def State.saveSeq (s : State) (g : Nat) : State :=
  let k := s.core g
  match k.ctx with
  | none => s
  | some c =>
    let s := (s.waitedCycles g).modCore g fun k => k.dropWait
    let k := s.core g
    let s := s.recordWrite k.part c g 0 (seqImage k)
    s.modCtxCore k.part c g fun y => { y with
      held := k.lastStep, slotOpen := k.slotOpen, normOwner := k.normOwner, handlerSrc := k.handlerSrc
      handling := k.inHandler, resumes := k.resumes }

/-- A record part is read back; a refusal stops the context under R121. -/
def State.recordRead (s : State) (n c g off len : Nat) : List Byte × State :=
  match s.ctx n c with
  | none => (fill len 0, s)
  | some x =>
    match s.devRead n .plain .newest (x.recordOf g + off) len with
    | .ok bs => (s.withLate n (x.recordOf g + off) bs, s)
    | .bad a p => (fill len 0, s.recordRefused n c g a p)
    | .wait _ => (fill len 0, s)

/-- The units and slots of a context that stand in its record are restored, and all of its extent is resident. -/
def State.restoreData (s : State) (n c g : Nat) : State :=
  match s.ctx n c with
  | none => s
  | some x =>
    let y := x.core g
    let s := (bitsOf 8 y.slotsSaved).foldl (fun s i =>
      let (bs, s) := s.recordRead n c g (x.slotOffset i) 0x8000
      s.modMems fun m => { m with ls := m.ls.write (lsAddr g i 0 0) bs }) s
    let s := y.saved.foldl (fun s (b, m) =>
      let (bs, s) := s.recordRead n c g (x.unitOffset b) (64 * m)
      s.spWrite g (64 * b) bs) s
    let s := s.modCtxCore n c g fun y => { y with
      resident := [(x.spBase, x.spUnits)], saved := [], slotsResident := x.lsMask, slotsSaved := 0 }
    if y.saved.isEmpty && y.slotsSaved == 0 then s
    else s.modPart n fun p => { p with restores := satAdd 16 p.restores 1 }

/-- The sequencer state of a context is loaded on a core: from the image of its LAUNCH when it has not started, and
otherwise from its record. What a stopped UPDATE or COLL has read is kept beside the record, and goes on where the record still names
it (R208, R311). The descriptor cache is emptied (R92, R308). -/
def State.loadSeq (s : State) (n c g : Nat) : State :=
  match s.ctx n c with
  | none => s
  | some x =>
    let y := x.core g
    let (bs, s) := if y.fresh then ([], s) else s.recordRead n c g 0 0x1000
    let w := leAt bs 0 8
    let fresh := y.fresh
    let s := s.modCore g fun k => { k with
      part := n, ctx := some c, switching := false, stopReq := false, state := .issuing
      pc := if fresh then 0 else field w 23 0
      base := y.progBase, count := y.progCount, vbase := x.vbase
      irqRet := if fresh then 0 else leAt bs 8 4
      inHandler := !fresh && bit w 32
      seg := if !fresh && bit w 33 then some { id := leAt bs 12 4 } else none
      wait := none
      lastStep := if fresh || bit w 34 then y.held else none
      sq := if fresh then y.image else (List.range 16).map fun i => BitVec.ofNat 64 (leAt bs (16 + 8 * i) 8)
      resumePoint := if !fresh && bit (leAt bs 0x94 1) 0 then some (leAt bs 0x90 4, leAt bs 0x98 8) else none
      resumes := if !fresh && bit (leAt bs 0x94 1) 0 && y.resumes.head?.any (fun e => e.1.index == leAt bs 0x90 4) then
          y.resumes.zipIdx.map fun (e, j) => ({ e.1 with serial := 2 ^ 64 + j }, e.2)   -- after everything issued here
        else []
      rotate := false
      cseq := if fresh then [] else groupsOf (bs.drop 0x100)
      slotOpen := if fresh then 0 else y.slotOpen
      normOwner := !fresh && y.normOwner
      handlerSrc := if fresh then none else y.handlerSrc
      cacheLines := [], pairs := [], missing := false, fenceWait := false, queueFull := false
      serial := 0, waitBound := x.waitBound, lastCtx := some c
      switchesIn := wrapAdd 32 k.switchesIn 1 }
    let s := s.modCtxCore n c g fun y => { y with
      fresh := false, pin := selectorOf ((s.core g).sq.getD 14 0), held := none, handling := false, resumes := [] }
    s.modPart n fun p => { p with switches := wrapAdd 32 p.switches 1 }

/-- Whether the running context of a core still needs its state there: its program has not finished. -/
def State.occupied (s : State) (g : Nat) : Bool :=
  let k := s.core g
  match k.ctx with
  | none => false
  | some c => match s.ctx k.part c with
    | none => false
    | some x => x.launch.isSome && !(x.core g).finished && !(x.core g).fresh

/-- Whether the sequencer state on a core has to be saved before a switch to context `c` of partition `n`: another context stands
there, which is not saved yet and which LAUNCH has not loaded anew (R308). -/
def State.leaves (s : State) (n c g : Nat) : Bool :=
  let k := s.core g
  match k.ctx with
  | none => false
  | some z => (k.part != n || z != c) && k.state != .preempted && (s.ctx k.part z).any fun x => !(x.core g).fresh

/-- The switch of R308 to context `c`. Every other context's data in `c`'s extent is saved first. -/
def State.switchTo (s : State) (n c g : Nat) : State :=
  match s.ctx n c with
  | none => s
  | some x =>
    let s := if s.leaves n c g || (s.occupied g && (s.core g).state != .preempted) then s.saveSeq g else s
    let others := ((s.part n).ctxs.map (·.1)).filter (· != c)
    let s := others.foldl (fun s z => s.saveData n z g x.spBase x.spUnits x.lsMask) s
    let s := (s.restoreData n c g).loadSeq n c g
    if (s.ctx n c).any (·.stopped) then s.modCore g fun k => { k with state := .faulted } else s

/-- A context that is ready on a core (R306). -/
def Ctx.ready (x : Ctx) (g : Nat) : Bool :=
  bit x.gmask (granuleOf g) && x.launch.isSome && !(x.core g).finished && (x.core g).held.isNone
    && !x.preempted && !x.stopped && x.abandon.isNone

/-- The rank of a context: real-time above ordinary, then priority (R306). -/
def Ctx.rank (x : Ctx) : Nat := ofBool x.realTime * 8 + x.prio

/-- Whether a switch to a context would restore data (R308). -/
def Ctx.needsRestore (x : Ctx) (g : Nat) : Bool := !(x.core g).saved.isEmpty || (x.core g).slotsSaved != 0

/-- Whether the context that runs on a core is ready there, so that it may go on. -/
def State.runsReady (s : State) (g : Nat) : Bool :=
  let k := s.core g
  match k.ctx with
  | none => false
  | some c => match s.ctx k.part c with
    | none => false
    | some x => x.ready g && !(x.core g).fresh && k.lastStep.isNone && k.state != .faulted && k.state != .preempted

/-- Whether the record of a context for a core cannot be read yet (R244). -/
def State.recordWaits (s : State) (n : Nat) (x : Ctx) (g : Nat) : Bool :=
  match s.devRead n .plain .newest (x.recordOf g) (x.recordBytes) with
  | .wait _ => true
  | _ => false

/-- The ready contexts of the highest rank on a core of a partition, in round-robin order after the one that ran last
(R306). One whose record the host does not answer for is not ready. The context whose quantum has expired gives way to any other of them (R307). -/
def State.candidates (s : State) (n g : Nat) : List Nat :=
  let k := s.core g
  let rs := (s.part n).ctxs.filter fun e => e.2.ready g && !k.ctx.any (· == e.1 && k.lastStep.isSome)
    && !(s.frt.silent && s.recordWaits n e.2 g)
  let top := (rs.map fun e => e.2.rank).foldl max 0
  let cs := (rs.filter fun e => e.2.rank == top).map (·.1)
  let last := k.lastCtx.getD 64
  let order := cs.filter (· > last) ++ cs.filter (· ≤ last)
  let others := order.filter fun c => k.ctx != some c
  if k.rotate && !others.isEmpty then others else order

/-- The choice of R306 among the candidates: one that has been skipped twice in a row, else the first that needs no restore, else
the first. -/
def State.pickCtx (s : State) (n g : Nat) (cs : List Nat) : Option Nat :=
  let test := fun (p : Ctx → Bool) => cs.find? fun c => (s.ctx n c).any p
  match test fun x => decide (2 ≤ (x.core g).skips) with
  | some c => some c
  | none => match test fun x => !x.needsRestore g with
    | some c => some c
    | none => cs.head?

/-- The choice of R306. A candidate before the one chosen that needs a restore is skipped once more; every other candidate has not
been skipped. -/
def State.choose (s : State) (n g : Nat) : Option (Nat × State) :=
  let cs := s.candidates n g
  match s.pickCtx n g cs with
  | none => none
  | some c =>
    let before := cs.takeWhile (· != c)
    some (c, cs.foldl (fun (s : State) z => s.modCtxCore n z g fun y => { y with
      skips := if before.contains z && (s.ctx n z).any (·.needsRestore g) then y.skips + 1 else 0 }) s)

/-- A core at its boundary (R120): nothing issued is incomplete. -/
def Core.atBoundary (k : Core) : Bool := k.issued.isEmpty && k.tiles.isEmpty && k.gatherOpen.isEmpty && k.gatherWait.isEmpty

/-- Whether a core is the helper of a replay that has not delivered (R190). -/
def State.helping (s : State) (g : Nat) : Bool := s.scr.parts.any fun e => e.2.replays.any fun r => r.helper == some g

/-- A core may be switched: it is at its boundary, and no replay runs on it (R120, R194). -/
def State.boundary (s : State) (g : Nat) : Bool := (s.core g).atBoundary && !s.helping g

/-- A request that the core stops issuing and runs to its boundary (R120). -/
def State.requestStop (s : State) (g : Nat) : State :=
  s.modCore g fun k => { k with stopReq := true, state := if k.state = .faulted then .faulted else .stopping }

/-- Whether a switch to context `c` moves units or slots to or from save areas (R308). -/
def State.movesData (s : State) (n c g : Nat) : Bool :=
  match s.ctx n c with
  | none => false
  | some x => x.needsRestore g || (s.part n).ctxs.any fun e => e.1 != c &&
      (!((e.2.core g).resident.within x.spBase x.spUnits).isEmpty || (e.2.core g).slotsResident &&& x.lsMask != 0)

/-- No switch waits for a core's boundary (R318). -/
def State.noSwitch (s : State) (g : Nat) : State :=
  if (s.core g).switching then s.modCore g fun k => { k with switching := false } else s

/-- The scheduler looks at a core (R306, R307): a core that nothing occupies takes a ready context; a core whose context is outranked,
or is no longer ready, switches at its next boundary. With `full` the core stands in CORE_BOUNDARY_REACHED, which makes the switches
that move data (R308); elsewhere such a one waits for that row. -/
def State.settleWith (full : Bool) (s : State) (g : Nat) : State :=
  match s.ownerOf (granuleOf g) with
  | none => s
  | some n =>
    match s.choose n g with
    | none => if (s.core g).stopReq then s else s.noSwitch g
    | some (c, t) =>
      let k := s.core g
      if k.ctx = some c && k.part = n && s.runsReady g then s.noSwitch g
      else if !s.runsReady g then
        if s.boundary g && (k.state == .idle || k.state == .preempted || k.state == .held || k.state == .faulted)
            && (full || !s.movesData n c g) then
          t.switchTo n c g
        else s.modCore g fun k => { k with switching := true }
      else match s.ctx n c, k.ctx.bind (s.ctx n ·) with
        | some y, some x =>
          if y.rank > x.rank then (s.modCore g fun k => { k with switching := true }).requestStop g else s
        | _, _ => s

/-- The scheduler looks at a core, in any row but CORE_BOUNDARY_REACHED. -/
def State.settle (s : State) (g : Nat) : State := s.settleWith false g

/-- The scheduler looks at every core of a list. -/
def State.settleAll (s : State) (gs : List Nat) : State := gs.foldl (fun s g => s.settle g) s

/-! ### Program finish and descriptor completion -/

/-- A core's program finishes when its PC has reached its count and every issued descriptor has completed (R335). -/
def State.finishProgram (s : State) (g : Nat) : State :=
  let k := s.core g
  match k.ctx with
  | none => s
  | some c =>
    match s.ctx k.part c with
    | none => s
    | some x =>
      if x.launch.isSome && !(x.core g).finished && !(x.core g).fresh && decide (k.count ≤ k.pc) && k.atBoundary && k.resumePoint.isNone && k.wait.isNone
          && (k.state == .issuing || k.state == .stopping || k.state == .held) && x.abandon.isNone then
        let s := s.modCore g fun k => { k with state := .idle, stopReq := false, switching := false }
        let s := s.modCtxCore k.part c g fun y => { y with finished := true, held := k.lastStep }
        let s := match s.ctx k.part c with
          | some x => if x.coreList.all fun h => (x.core h).finished then s.endLaunch k.part c stOk 0 else s
          | none => s
        s.settle g
      else s

/-- An issued descriptor completes: its done counter and its interrupt follow (R103). -/
def State.complete (s : State) (g serial : Nat) : State :=
  match (s.core g).issued.find? (·.serial == serial) with
  | none => s
  | some i =>
    let s := s.modCore g fun k => { k with issued := k.issued.filter (·.serial != serial) }
    let s := if dDoneEn i.desc then s.addCounter (ownDie g (dDoneCtr i.desc)) 1 else s
    let s := if dIrq i.desc then
        s.modCore g fun k => { k with descDone := satAdd 16 k.descDone 1 }
      else s
    s.finishProgram g

/-- A descriptor that the sequencer itself carries out completes as it is issued. -/
def State.completeNow (s : State) (g d : Nat) : State :=
  let s := if dDoneEn d then s.addCounter (ownDie g (dDoneCtr d)) 1 else s
  let s := if dIrq d then s.modCore g fun k => { k with descDone := satAdd 16 k.descDone 1 } else s
  s.finishProgram g

/-- Whether an UPDATE holds the vector unit: one that has started (R214). -/
def Core.updating (k : Core) : Bool := k.issued.any fun i => match i.work with
  | .update u => !u.hyper.isEmpty
  | _ => false

/-- The UPDATE that the vector unit runs, or takes next: the one that has started, or the first in program order, unless a VEC or a
ready epilogue comes before it (R95, R214). -/
def Core.runningUpdate (k : Core) : Option (Issued × UpdRun) :=
  let us := k.issued.filterMap fun i => match i.work with
    | .update u => some (i, u)
    | _ => none
  match us.find? fun e => !e.2.hyper.isEmpty with
  | some e => some e
  | none => us.head?.filter fun e =>
    !(k.issued.any fun i => i.work == .vec && decide (i.serial < e.1.serial))
      && !(k.tiles.any fun t => t.phase == .drained && decide (t.serial < e.1.serial))

/-- A descriptor is handed to its unit. -/
def State.issue (s : State) (g d : Nat) (w : Work) : State :=
  let k := s.core g
  let s := s.advance g
  s.modCore g fun q => { q with issued := q.issued ++
    [{ serial := k.serial, index := k.pc, desc := d, regs := k.sq, work := w }] }

/-- The work of an issued descriptor is changed. -/
def State.setWork (s : State) (g serial : Nat) (w : Work) : State :=
  s.modCore g fun k => { k with issued := k.issued.map fun i => if i.serial = serial then { i with work := w } else i }

/-- An issued descriptor's write to plain pages marked for a drain waits for it, and adds each of them, once, to the drain waits of its
context (R220, R221). -/
def State.countDrains (s : State) (g serial : Nat) (ranges : List (Nat × Nat)) : State :=
  let k := s.core g
  match k.issued.find? (·.serial == serial), k.ctx with
  | some i, some c =>
    let xs := ((ranges.flatMap fun (a, n) => (pieces a n).map (pageOf ·.1)).eraseDups).filter fun x =>
      eDrain (s.entry x) && !s.inWindow k.part (x * pageBytes) && !i.drainSeen.contains x
    let s := s.modCore g fun k => { k with
      issued := k.issued.map fun j => if j.serial = serial then { j with drainSeen := xs ++ j.drainSeen } else j }
    s.modCtx k.part c fun x => { x with drainWaits := satAdd 16 x.drainWaits xs.length }
  | _, _ => s

/-- Descriptors of a type that a core has outstanding. -/
def Core.outstanding (k : Core) (ty : Nat) : Nat := (k.issued.filter fun i => dType i.desc == ty).length

end Sys2Proof.Machine
end

