-- ==== Sys2Proof/Machine/Elem.lean ====
section
/-! DEFINITION. The elementary functions of R115. Each is computed as an integer in units of `2^-512` and rounded once
with a sticky last bit, so that the FP32 result is the correctly rounded one (see the assumption log). -/

namespace Sys2Proof.Machine.Elem

/-- Fraction bits of the fixed-point numbers of this file. -/
def prec : Nat := 512
/-- One, in fixed point. -/
def unit : Nat := 2 ^ prec

/-- `z + z^3/3 + z^5/5 + …`: the inverse hyperbolic tangent of a fixed-point `z` of at most 1/3, `n` terms. -/
def atanhGo (z2 : Nat) : Nat → Nat → Nat → Nat → Nat
  | 0, _, _, acc => acc
  | n + 1, k, p, acc => atanhGo z2 n (k + 2) (p * z2 / unit) (acc + p / k)

/-- The inverse hyperbolic tangent of a fixed-point number of at most 1/3. -/
def atanh (z : Nat) : Nat := atanhGo (z * z / unit) 170 1 z 0

/-- ln 2 = 2 atanh (1/3). -/
def ln2 : Nat := 2 * atanh (unit / 3)

/-- `z - z^3/3 + z^5/5 - …`, the inverse tangent of `1/d`, `n` terms. -/
def atanInvGo (d2 : Nat) : Nat → Nat → Int → Int → Int
  | 0, _, _, acc => acc
  | n + 1, k, p, acc => atanInvGo d2 n (k + 2) (-p / d2) (acc + p / k)

/-- π by Machin's formula. -/
def pi : Nat := (16 * atanInvGo 25 120 1 (unit / 5) 0 - 4 * atanInvGo 57121 40 1 (unit / 239) 0).toNat

/-- The Taylor sum of `e^r` for a fixed-point `r` in `[0, 1)`, `n` terms after the first. -/
def expGo (r : Nat) : Nat → Nat → Nat → Nat → Nat
  | 0, _, _, acc => acc
  | n + 1, k, t, acc => expGo r n (k + 1) (t * r / unit / k) (acc + t * r / unit / k)

/-- A dyadic number in fixed point, rounded down. -/
def toFixed (m : Nat) (e : Int) : Nat :=
  if 0 ≤ e + prec then m * 2 ^ (e + prec).toNat else m / 2 ^ (-(e + prec)).toNat

/-- `e^x` of a fixed-point integer, as a mantissa in fixed point and a power of two. -/
def expFixed (x : Int) : Nat × Int :=
  let l := ln2
  let k := x / l
  let r := (x - k * l).toNat
  (expGo r 110 1 unit unit, k)

/-- A fixed-point magnitude as a value to be rounded: a sticky last bit says it is not exact. -/
def sticky (neg : Bool) (a : Nat) (k : Int) : Fp := .fin neg (2 * a + 1) (k - prec - 1)

/-- A finite value in fixed point, with its sign. -/
def signedFixed (n : Bool) (m : Nat) (e : Int) : Int := if n then -(toFixed m e : Int) else toFixed m e

/-- The exact value's magnitude is at least the whole number `k`. -/
def atLeast (m : Nat) (e : Int) (k : Nat) : Bool := Fp.le (.fin false k 0) (.fin false m e)

/-- EXP. -/
def exp : Fp → Fp
  | .nan => .nan
  | .inf n => if n then .zero else .inf false
  | .fin n m e =>
    if m = 0 then .one
    else if atLeast m e 128 then (if n then sticky false 0 (-300) else .fin false 1 300)
    else
      let (a, k) := expFixed (signedFixed n m e)
      sticky false a k

/-- LOG. -/
def log : Fp → Fp
  | .nan => .nan
  | .inf n => if n then .nan else .inf false
  | .fin n m e =>
    if m = 0 then .inf true
    else if n then .nan
    else
      let b := Nat.log2 m
      let y := toFixed m (-(b : Int))
      let z := (y - unit) * unit / (y + unit)
      let s : Int := (e + b) * ln2 + 2 * atanh z
      if m = 2 ^ b && e + b == 0 then .zero
      else sticky (decide (s < 0)) s.natAbs 0

/-- RSQRT. -/
def rsqrt (x : Fp) : Fp := x.rsqrt

/-- RECIP. -/
def recip (x : Fp) : Fp := Fp.div .one x

/-- TANH. -/
def tanh : Fp → Fp
  | .nan => .nan
  | .inf n => .fin n 1 0
  | .fin n m e =>
    if m = 0 then .fin n 0 0
    else if atLeast m e 10 then .fin n (2 ^ 60 - 1) (-60)
    else
      let (a, k) := expFixed (2 * toFixed m e)
      let y := a * 2 ^ k.toNat
      sticky n ((y - unit) * unit / (y + unit)) 0

/-- The Taylor sum of `x - x^3/3 + x^5/10 - …`, of which term `n` is `(-1)^n x^(2n+1) / (n! (2n+1))`. -/
def erfGo (x2 : Nat) : Nat → Nat → Int → Int → Int
  | 0, _, _, acc => acc
  | j + 1, k, t, acc => erfGo x2 j (k + 1) (-(t * x2) / unit / (k + 1)) (acc + t / (2 * k + 1))

/-- ERF. -/
def erf : Fp → Fp
  | .nan => .nan
  | .inf n => .fin n 1 0
  | .fin n m e =>
    if m = 0 then .fin n 0 0
    else if atLeast m e 4 then .fin n (2 ^ 60 - 1) (-60)
    else
      let x := toFixed m e
      let s := erfGo (x * x / unit) 240 0 x 0
      let r := isqrt (pi * unit)
      sticky n (2 * s.toNat * unit / r) 0

end Sys2Proof.Machine.Elem
end

