-- ==== Sys2Proof/Machine/Working.lean ====
section
/-! DEFINITION. The vector unit's working format, its activation functions and its cycle costs (R114, R115, R118). -/

namespace Sys2Proof.Machine

/-- Rounding to the working format: FP32, or BF16 under work16 (R114). -/
def toWork (w16 : Bool) (x : Fp) : Fp := if w16 then rneBf16 x else rne32 x

/-- The result of an elementary function: the correctly rounded FP32 value, then BF16 under work16 (R115). -/
def elemWork (w16 : Bool) (x : Fp) : Fp := toWork w16 (rne32 x)

/-- An FP32 constant of R115. -/
def const32 (c : Nat) : Fp := f32.decode c

/-- relu of R115. -/
def relu (x : Fp) : Fp := Fp.max x .zero

/-- sigmoid of R115. -/
def sigmoid (w : Bool) (x : Fp) : Fp :=
  elemWork w (Elem.recip (toWork w (Fp.one.add (elemWork w (Elem.exp x.neg)))))

/-- The ACT functions by code (R82, R115); each operation's result is rounded to the working format. -/
def act (w : Bool) (code : Nat) (x : Fp) : Fp :=
  let r := toWork w
  let half := const32 0x3F000000
  match code with
  | 1 => relu x
  | 2 => r (half.mul (r (x.mul (r (Fp.one.add (elemWork w (Elem.erf (r (x.mul (const32 0x3F3504F3))))))))))
  | 3 =>
    let cube := r (x.mul (r (x.mul x)))
    let inner := r (x.add (r ((const32 0x3D372713).mul cube)))
    let t := elemWork w (Elem.tanh (r ((const32 0x3F4C422A).mul inner)))
    r (half.mul (r (x.mul (r (Fp.one.add t)))))
  | 4 => r (x.mul (sigmoid w x))
  | 5 => sigmoid w x
  | 6 => elemWork w (Elem.tanh x)
  | 7 => r ((relu x).mul (relu x))
  | _ => x

/-- Cycles of an operation at a rate (R118). -/
def cyclesAt (elements rate : Nat) : Nat := ceilDiv elements rate

/-- The rate of the simple operations. -/
def baseRate (w16 : Bool) : Nat := if w16 then 256 else 128

/-- Cycles of an ACT (R118). -/
def actCycles (w16 : Bool) (code elements : Nat) : Nat :=
  match code with
  | 2 | 3 | 6 => cyclesAt elements 64
  | 4 | 5 => 2 * cyclesAt elements 64
  | 1 | 7 => cyclesAt elements (baseRate w16)
  | _ => 0

end Sys2Proof.Machine
end

