-- ==== Sys2Proof/Machine/Vector.lean ====
section
/-! DEFINITION. The vector unit: VEC descriptors (R114 to R118) and how they run. -/

namespace Sys2Proof.Machine

/-! ### VEC fields (R105) -/
namespace V
/-- tensor_id. -/
def tensor (d : Nat) : Nat := d32 d 8
/-- row_base. -/
def rowBase (d : Nat) : Nat := dfield d 12 39 0
/-- col_base. -/
def colBase (d : Nat) : Nat := dfield d 17 23 0
/-- rows. -/
def rows (d : Nat) : Nat := d16 d 20
/-- cols. -/
def cols (d : Nat) : Nat := d16 d 22
/-- Address of source `i`, 0 to 2. -/
def srcAddr (d i : Nat) : Nat := d16 d (24 + 4 * i)
/-- Stride of source `i`. -/
def srcStride (d i : Nat) : Nat := d16 d (26 + 4 * i)
/-- dst_addr. -/
def dstAddr (d : Nat) : Nat := d16 d 36
/-- dst_stride. -/
def dstStride (d : Nat) : Nat := d16 d 38
/-- Format code of source `i`. -/
def srcFmt (d i : Nat) : Nat :=
  match i with
  | 0 => dfield d 40 3 0
  | 1 => dfield d 40 7 4
  | _ => dfield d 41 3 0
/-- dst_fmt. -/
def dstFmt (d : Nat) : Nat := dfield d 41 7 4
/-- round. -/
def round (d : Nat) : Nat := dfield d 42 1 0
/-- sat. -/
def sat (d : Nat) : Bool := bit d (8 * 42 + 2)
/-- work16. -/
def work16 (d : Nat) : Bool := bit d (8 * 42 + 3)
/-- bc1 or bc2: the shape of source 1 or 2; source 0 is a full view. -/
def shape (d i : Nat) : Nat :=
  match i with
  | 1 => dfield d 42 5 4
  | 2 => dfield d 42 7 6
  | _ => 0
/-- nops. -/
def nops (d : Nat) : Nat := dfield d 43 2 0
/-- seed_reg. -/
def seedReg (d : Nat) : Nat := dfield d 43 7 4
/-- Opcode of operation `i`. -/
def op (d i : Nat) : Nat := dfield d (44 + 2 * i) 7 0
/-- Operand a of operation `i`. -/
def opA (d i : Nat) : Nat := dfield d (44 + 2 * i) 11 8
/-- Operand b of operation `i`. -/
def opB (d i : Nat) : Nat := dfield d (44 + 2 * i) 15 12
/-- Immediate `i`. -/
def imm (d i : Nat) : Nat := d32 d (52 + 4 * i)
/-- The opcodes of a descriptor's operations. -/
def ops (d : Nat) : List Nat := (List.range (nops d)).map (op d)
end V

/-- Operations with one operand read from a source or an immediate. -/
def vecUsesA (o : Nat) : Bool := [1, 2, 3, 4, 5, 6].contains o

/-- The operand codes that a descriptor's operations read. -/
def vecOperands (d : Nat) : List Nat :=
  (List.range (V.nops d)).flatMap fun i =>
    if V.op d i = 4 then [V.opA d i, V.opB d i] else if vecUsesA (V.op d i) then [V.opA d i] else []

/-- Whether a source's format field is read: source 0 always, the others when an operation reads them. -/
def vecReads (d i : Nat) : Bool := i == 0 || (vecOperands d).contains (i - 1)

/-- A reduction: ROWSUM or ROWMAX. -/
def vecReduces (o : Nat) : Bool := o == 0x20 || o == 0x21

/-- Whether operation `i` comes after a reduction. -/
def vecAfterReduction (d i : Nat) : Bool := (List.range i).any fun j => vecReduces (V.op d j)

/-- A GATE descriptor. -/
def vecIsGate (d : Nat) : Bool := (V.ops d).contains 0x30

/-- Columns of the view that operation results have at the end. -/
def vecOutCols (d : Nat) : Nat := if (V.ops d).any vecReduces then 1 else V.cols d

/-- Rows and columns of a source as its shape gives them (R114, R116). -/
def vecSrcExtent (d i : Nat) : Nat × Nat :=
  let full := if i != 0 && (V.ops d).any vecReduces &&
      -- read only after the reduction: a rows x 1 view
      !((List.range (V.nops d)).any fun j => !vecAfterReduction d j && vecUsesA (V.op d j) &&
        (V.opA d j == i - 1 || (V.op d j == 4 && V.opB d j == i - 1)))
    then (V.rows d, 1) else (V.rows d, V.cols d)
  match V.shape d i with
  | 1 => (full.1, 1)
  | 2 => (1, full.2)
  | 3 => (1, 1)
  | _ => full

/-- The scratchpad ranges, ends in units, of a VEC (R104). -/
def vecInRange (d : Nat) : Bool :=
  let w := fun (c : Nat) => ((Fmt.ofCode c).getD .fp32)
  let srcs := ([0, 1, 2].filter (vecReads d)).map fun i =>
    let (r, c) := vecSrcExtent d i
    rowsEnd (V.srcAddr d i) (V.srcStride d i) r (packedBytes (w (V.srcFmt d i)) c)
  let ends := if vecIsGate d then
      [rowsEnd (V.srcAddr d 0) (V.srcStride d 0) (V.rows d) (4 * V.cols d),
       rowsEnd (V.dstAddr d) (V.dstStride d) (V.rows d) (8 * V.opA d 0),
       rowsEnd (V.srcAddr d 1) 0 1 (4 * V.cols d)]
    else rowsEnd (V.dstAddr d) (V.dstStride d) (V.rows d) (packedBytes (w (V.dstFmt d)) (vecOutCols d)) :: srcs
  ends.all (· ≤ 65536)

/-- The fault of a VEC at issue: reserved codes and counts (R8, R467), then operations and formats (R114, R116, R117,
R24), then addresses (R41, R104). DEDUCED: GATE beside another operation has cause 0x0A, which R117 gives its other limits; and of a
GATE with k above cols every expert is written and no more (log 174). -/
def vecFault (d : Nat) : Option Nat :=
  let opOk := fun (o : Nat) =>
    (1 ≤ o && o ≤ 8) || (0x10 ≤ o && o ≤ 0x15) || o == 0x18 || o == 0x20 || o == 0x21 || o == 0x30
  let fmts := (([0, 1, 2].filter (vecReads d)).map (V.srcFmt d)) ++ [V.dstFmt d]
  let gate := vecIsGate d
  let acts := (List.range (V.nops d)).any fun i => V.op d i == 0x18 && V.opA d i ≥ 8
  let seen := (List.range (V.nops d)).filter fun i => vecReduces (V.op d i)
  let shape2 := (List.range (V.nops d)).any fun i => vecAfterReduction d i &&
    (([V.opA d i] ++ if V.op d i == 4 then [V.opB d i] else []).any fun c =>
      vecUsesA (V.op d i) && (c == 0 || c == 1) && V.shape d (c + 1) == 2)
  if V.rows d = 0 || V.cols d = 0 || V.nops d = 0 || V.nops d > 4 || (V.ops d).any (fun o => !opOk o)
      || (vecOperands d).any (· ≥ 5) || acts || (!gate && (fmts.any (· ≥ 11) || V.round d = 3)) then some 1
  else if gate && (V.nops d != 1 || V.srcFmt d 0 != 0 || V.dstFmt d != 0 || V.cols d > 1024 || V.opA d 0 = 0
      || V.opA d 0 > 8) then some 0xA
  else if !gate && fmts.any (fun c => 5 ≤ c && c ≤ 7 || c == 10) then some 0xA
  else if seen.length > 1 || shape2 then some 0xA
  else if V.rowBase d + V.rows d > 2 ^ 38 || V.colBase d + V.cols d > 2 ^ 22 then some 3
  else if !vecInRange d then some 3
  else none

/-- The value of an element of a source: shapes 1, 2 and 3 give element (r, 0), (0, c) or (0, 0). -/
def vecSource (s : State) (g d i r c : Nat) : Fp :=
  let f := (Fmt.ofCode (V.srcFmt d i)).getD .fp32
  let (r, c) := match V.shape d i with
    | 1 => (r, 0)
    | 2 => (0, c)
    | 3 => (0, 0)
    | _ => (r, c)
  let lo := packedBytes f (c / 4 * 4)
  f.decode (elemBits f (s.spRead g (64 * (V.srcAddr d i + r * V.srcStride d i) + lo) (packedBytes f 4)) (c % 4))

/-- The value an operand code selects at an element. -/
def vecOperand (s : State) (g d code r c : Nat) : Fp :=
  toWork (V.work16 d) (if code ≤ 1 then vecSource s g d (code + 1) r c else f32.decode (V.imm d (code - 2)))

/-- One elementwise operation (R114, R115). -/
def vecOp (s : State) (g d i r c : Nat) (x : Fp) : Fp :=
  let w := V.work16 d
  let x := toWork w x
  let a := vecOperand s g d (V.opA d i) r c
  match V.op d i with
  | 1 => toWork w (x.add a)
  | 2 => toWork w (x.sub a)
  | 3 => toWork w (x.mul a)
  | 4 => toWork w (x.add (a.mul (vecOperand s g d (V.opB d i) r c)))
  | 5 => Fp.max x a
  | 6 => Fp.min x a
  | 7 => x.abs
  | 8 => x.neg
  | 0x10 => elemWork w (Elem.exp x)
  | 0x11 => elemWork w (Elem.log x)
  | 0x12 => elemWork w (Elem.rsqrt x)
  | 0x13 => elemWork w (Elem.recip x)
  | 0x14 => elemWork w (Elem.tanh x)
  | 0x15 => elemWork w (Elem.erf x)
  | 0x18 => act w (V.opA d i) x
  | _ => x

/-- One round of the pairwise tree of R116. -/
def pairSums (rnd : Fp → Fp) : List Fp → List Fp
  | a :: b :: t => rnd (a.add b) :: pairSums rnd t
  | l => l

/-- The pairwise tree over 128 values: seven rounds. -/
def tree128 (rnd : Fp → Fp) (w : List Fp) : Fp :=
  ((List.range 7).foldl (fun w _ => pairSums rnd w) (w ++ List.replicate (128 - w.length) Fp.zero)).headD Fp.zero

/-- A sum in groups of 128 by the fixed tree (R116, R216). `k` bounds the groups. -/
def groupSum (rnd : Fp → Fp) : Nat → Fp → List Fp → Fp
  | 0, acc, _ => acc
  | k + 1, acc, v => if v.isEmpty then acc else groupSum rnd k (rnd (acc.add (tree128 rnd (v.take 128)))) (v.drop 128)

/-- rowsum of R116. -/
def rowsum (v : List Fp) : Fp := groupSum rne32 v.length .zero v

/-- rowmax: exact (R116). -/
def rowmax : List Fp → Fp
  | [] => .zero
  | x :: t => t.foldl Fp.max x

/-- The result of one row of a VEC, before conversion. -/
def vecRow (s : State) (g d r : Nat) : List Fp :=
  let x0 := (List.range (V.cols d)).map fun c => toWork (V.work16 d) (vecSource s g d 0 r c)
  (List.range (V.nops d)).foldl (fun xs i =>
    match V.op d i with
    | 0x20 => [rowsum xs]
    | 0x21 => [rowmax xs]
    | _ => (xs.zip (List.range xs.length)).map fun (x, c) => vecOp s g d i r c x) x0

/-! ### GATE (R117) -/

/-- Whether score `a` of expert `i` ranks above score `b` of expert `j`: higher score, ties to the lower index, NaN below
every number. -/
def ranksAbove (a : Fp) (i : Nat) (b : Fp) (j : Nat) : Bool :=
  if a.isNan then b.isNan && decide (i < j)
  else if b.isNan then true
  else if Fp.lt b a then true
  else !Fp.lt a b && decide (i < j)

/-- The experts of a row by rank, the first `k`. -/
def topExperts (sc : List Fp) (k : Nat) : List Nat :=
  let idx := List.range sc.length
  let rank := fun i => (idx.filter fun j => j != i && ranksAbove (sc.getD j .nan) j (sc.getD i .nan) i).length
  (List.range (min k sc.length)).filterMap fun t => idx.find? fun i => rank i == t

/-- One row of GATE: the experts chosen, and their weights as FP32 codes. -/
def gateRow (sc : List Fp) (k : Nat) : List Nat × List Nat :=
  let top := topExperts sc k
  let s0 := sc.getD (top.headD 0) .nan
  let es := top.map fun i => rne32 (Elem.exp (rne32 ((sc.getD i .nan).sub s0)))
  let sum := match es with
    | [] => Fp.zero
    | e :: t => t.foldl (fun a b => rne32 (a.add b)) e
  (top, es.map fun e => f32.encode .rne false 0 (Fp.div e sum))

/-- GATE writes indices and weights by row, and the token counts at src1 (R117). -/
def runGate (s : State) (g d : Nat) : State :=
  let k := V.opA d 0
  let rows := (List.range (V.rows d)).map fun r =>
    gateRow ((List.range (V.cols d)).map fun c => vecSource s g d 0 r c) k
  let s := (rows.zip (List.range rows.length)).foldl (fun s ((top, ws), r) =>
    s.spWrite g (64 * (V.dstAddr d + r * V.dstStride d)) ((top ++ ws).flatMap (toLE 4))) s
  let counts := (List.range (V.cols d)).map fun e => (rows.filter fun (top, _) => top.contains e).length
  s.spWrite g (64 * V.srcAddr d 1) (counts.flatMap (toLE 4))

/-! ### Cost and conversion -/

/-- Cycles of a VEC (R118). -/
def vecCycles (d : Nat) : Nat :=
  let w := V.work16 d
  ((List.range (V.nops d)).map fun i =>
    let n := V.rows d * (if vecAfterReduction d i then 1 else V.cols d)
    match V.op d i with
    | 0x18 => actCycles w (V.opA d i) n
    | 0x20 | 0x21 => cyclesAt n 128
    | 0x30 => cyclesAt n 16
    | o => if 0x10 ≤ o then cyclesAt n 64 else cyclesAt n (baseRate w)).sum

/-- The scratchpad ranges, in bytes, that a VEC writes. -/
def vecWrites (d : Nat) : List (Nat × Nat) :=
  let f := (Fmt.ofCode (V.dstFmt d)).getD .fp32
  let n := if vecIsGate d then 8 * V.opA d 0 else packedBytes f (vecOutCols d)
  ((List.range (V.rows d)).map fun r => (64 * (V.dstAddr d + r * V.dstStride d), n))
    ++ if vecIsGate d then [(64 * V.srcAddr d 1, 4 * V.cols d)] else []

/-- A VEC runs over its whole view: its output is written, and conversions from NaN to an integer are counted (R36). -/
def runVec (s : State) (g d : Nat) (sq : List W64) : State :=
  let s := if vecIsGate d then runGate s g d
    else
      let f := (Fmt.ofCode (V.dstFmt d)).getD .fp32
      let mode := (RMode.ofCode (V.round d)).getD .rne
      let seed := sq.getD (V.seedReg d) 0
      (List.range (V.rows d)).foldl (fun (t : State) r =>
        let xs := vecRow s g d r
        let draw := fun c => if mode = .sr then
            (DrawAt.ofView (V.tensor d) 2 (V.nops d) (V.rowBase d + r) (V.colBase d + c)).bits seed
          else 0
        let (codes, _) := convertRow f mode (V.sat d) draw xs
        let t := t.spWrite g (64 * (V.dstAddr d + r * V.dstStride d)) (packElems f codes)
        t.modCore g fun k => { k with vecNan := satAdd 16 k.vecNan (nanToIntCount f xs) }) s
  s.modCore g fun k => { k with vecBusy := k.vecBusy + vecCycles d, vecItems := wrapAdd 32 k.vecItems 1 }

/-- Whether a VEC's writes wait for the input of a tile in progress (R85). -/
def Core.blocksVec (k : Core) (d : Nat) : Bool := (vecWrites d).any fun (o, n) => k.protects o n

/-- The VEC that the vector unit takes next: the first that waits, unless an UPDATE holds the unit (R214), a protected range holds
its writes (R85), or an UPDATE or a ready epilogue comes before it in program order (R95). -/
def Core.nextVec (k : Core) : Option Issued :=
  (k.issued.find? (·.work == .vec)).filter fun i =>
    !k.updating && !k.blocksVec i.desc
      && !(k.issued.any fun j => dType j.desc == tyUpdate && decide (j.serial < i.serial))
      && !k.tiles.any fun t => t.phase == .drained && decide (t.serial < i.serial)

/-- The VECs that wait in the vector unit run in program order, as far as they can. `n` bounds them. -/
def State.runWaitingVecs (s : State) (g : Nat) : Nat → State
  | 0 => s
  | n + 1 =>
    match (s.core g).nextVec with
    | none => s
    | some i => ((runVec s g i.desc i.regs).complete g i.serial).runWaitingVecs g n

/-- The vector unit goes on with the VECs that wait. -/
def State.runVecs (s : State) (g : Nat) : State := s.runWaitingVecs g (s.core g).issued.length

/-- VEC: the sequencer issues it, and the vector unit runs it over its view (R94, R95, R114). -/
def execVec (g : Nat) (err : ReadError) (s : State) : Host.Outcome State Fault Refusal :=
  if s.dieOff (dieOf g) then .next s else
  match s.gate g (dType · == tyVec) false ((s.core g).outstanding tyVec + (s.core g).outstanding tyUpdate) 16 with
  | .stay s => .next s
  | .go d0 =>
    let k := s.core g
    let d := applyOffsets d0 k.sq
    match s.headerFault g d with
    | some c => .next (s.seqFault g c tyVec k.pc)
    | none =>
      match vecFault d with
      | some c => .next (s.seqFault g c tyVec k.pc)
      | none =>
        .next (s.onDieRead g g (clusterOf g) tyVec k.pc true false false err fun s =>
          (s.issue g d .vec).runVecs g)

end Sys2Proof.Machine
end

