-- ==== Sys2Proof/Machine/Engine.lean ====
section
/-! DEFINITION. The matrix engines: TILE, TILE_START, SPILL_POINT, TILE_DRAIN, EPILOGUE, PARITY_ERROR, REPLAY_START, and
the gather stage: GATHER, GATHER_WAIT_BOUND (03). -/

namespace Sys2Proof.Machine

/-! ### Accumulator storage (R60, R62) -/

/-- The half-bank units of an engine that a tile may take, in order of preference: unit `4 h + b` is half-bank `b` of
column half `h`. A 32-bit tile takes a whole bank, a tile of 64 columns takes it in both halves. -/
def unitSets (d : Nat) (classF : Bool) : List (List Nat) :=
  let halves := if T.subtile d then [T.half d] else [0, 1]
  if classF && T.acc16 d then (List.range 4).map fun b => halves.map fun h => 4 * h + b
  else [[0, 1], [2, 3]].map fun bs => halves.flatMap fun h => bs.map (4 * h + ·)

/-- The units of an engine that tiles hold. -/
def Core.heldUnits (k : Core) (e : Nat) : List Nat :=
  k.tiles.flatMap fun t => if t.engine = e && (t.phase == .streaming || t.phase == .finished) then t.units else []

/-- A free unit set of an engine for a tile. -/
def Core.freeUnits (k : Core) (e d : Nat) (classF : Bool) : Option (List Nat) :=
  (unitSets d classF).find? fun us => us.all fun u => !(k.heldUnits e).contains u

/-- The address of a cell in the accumulators: engine `n` of the package, first unit of the tile, 16-bit or not. -/
def accAddr (n unit : Nat) (half16 : Bool) (i j : Nat) : Nat :=
  n * 2 ^ 15 + unit % 4 / 2 * 2 ^ 14 + (64 * i + j + 32 * (unit / 4)) * 4 + (if half16 then 2 * (unit % 2) else 0)

/-- Bytes of an accumulator. -/
def accBytes (half16 : Bool) : Nat := if half16 then 2 else 4

/-- The cells of a block, row by row. -/
def cellsOf (m n : Nat) : List (Nat × Nat) := (List.range m).flatMap fun i => (List.range n).map fun j => (i, j)

/-- Whether a core's partition has class F. -/
def State.classF (s : State) (g : Nat) : Bool := (s.part (s.core g).part).classF

/-- The block that a tile's accumulators hold. -/
def State.accBlock (s : State) (g : Nat) (t : TileRun) : List Nat :=
  let w := s.classF g && T.acc16 t.desc
  (cellsOf t.m (T.n t.desc)).map fun (i, j) =>
    s.mems.acc.num (accAddr (4 * g + t.engine) (t.units.headD 0) w i j) (accBytes w)

/-- A block written into units of a tile's engine. -/
def State.setAccBlock (s : State) (g : Nat) (t : TileRun) (units vals : List Nat) : State :=
  let w := s.classF g && T.acc16 t.desc
  ((cellsOf t.m (T.n t.desc)).zip vals).foldl (fun s ((i, j), v) => s.modMems fun m =>
    { m with acc := m.acc.setNum (accAddr (4 * g + t.engine) (units.headD 0) w i j) (accBytes w) v }) s

/-- A tile entry is replaced. -/
def State.setTile (s : State) (g : Nat) (t : TileRun) : State :=
  s.modCore g fun k => { k with tiles := k.tiles.map fun u =>
    if u.serial = t.serial && u.pass = t.pass then t else u }

/-- A tile entry ends. -/
def State.dropTile (s : State) (g : Nat) (t : TileRun) : State :=
  s.modCore g fun k => { k with tiles := k.tiles.filter fun u => !(u.serial == t.serial && u.pass == t.pass) }

/-- A tile streams the segment that starts at its `at_`: the running sums go from +0 through the segment's steps (R56). DESIGN
CHOICE: the accumulators take the sums of the whole segment as it starts, and DEBUG_READ_ACC, which holds the stream at a beat that
the manual leaves open, finds those of its last step (log 144). -/
def State.stream (s : State) (g : Nat) (t : TileRun) : State :=
  let d := t.desc
  let f := accFmt d (s.classF g)
  let vals := (cellsOf t.m (T.n d)).map fun (i, j) => (t.cell s g f i j t.at_ (segmentEnd d t.at_) (0, false)).1
  (s.setAccBlock g t t.units vals).setTile g { t with phase := .streaming }

/-- What a streaming tile has sent of its segment, up to step `hi`, is counted: beats, zero beats and unoccupied blocks (R17, R71,
R72), and once for each cell of the tile an overflow of a 16-bit sum (R57). DESIGN CHOICE: the counters move as a segment ends or
is stopped, and two halves that stream together count a beat each. -/
def State.countStream (s : State) (g : Nat) (t : TileRun) (hi : Nat) : State × TileRun :=
  let d := t.desc
  let f := accFmt d (s.classF g)
  let beyond := if f = .f16 || f = .i16 then
      (cellsOf t.m (T.n d)).filter fun e => !t.sat.contains e && (t.cell s g f e.1 e.2 t.at_ hi (0, false)).2
    else []
  let (on, skipped, empty) := t.work s g t.at_ hi
  (s.modCore g fun k => { k with
    beats := wrapAdd 64 k.beats on, zeroBeats := wrapAdd 32 k.zeroBeats skipped
    emptyBlocks := wrapAdd 32 k.emptyBlocks empty, accOverflow := satAdd 16 k.accOverflow beyond.length },
   { t with sat := t.sat ++ beyond })

/-- Whether a streaming tile is in its last segment. -/
def TileRun.lastSegment (t : TileRun) : Bool := segmentEnd t.desc t.at_ == T.steps t.desc

/-- Whether a tile occupies a column half while it fills. -/
def TileRun.inHalf (t : TileRun) (h : Nat) : Bool := !T.subtile t.desc || T.half t.desc == h

/-- A tile that still has beats to stream on an engine, in any of the halves a new tile needs. -/
def Core.filling (k : Core) (e : Nat) (halves : List Nat) : Bool :=
  k.tiles.any fun t => t.engine == e && t.phase == .streaming && !t.lastSegment && halves.any t.inHalf

/-- A tile in its last segment has finished streaming. -/
def State.finishStream (s : State) (g : Nat) (t : TileRun) : State :=
  let (s, t) := s.countStream g t (segmentEnd t.desc t.at_)
  s.setTile g { t with phase := .finished }

/-- The tiles of an engine that are in their last segment have finished streaming when another tile starts (R63). -/
def State.finishStreams (s : State) (g e : Nat) (halves : List Nat) : State :=
  ((s.core g).tiles.filter fun t => t.engine = e && t.phase == .streaming && t.lastSegment && halves.any t.inHalf).foldl
    (fun (s : State) t => s.finishStream g t) s

/-- Whether an engine can start a tile: nothing fills the halves it needs, and a bank or slot is free (R51, R62, R63). A
single half starts only while the other half does not stream. -/
def Core.canStart (k : Core) (e d : Nat) (classF : Bool) : Bool :=
  !k.filling e [0, 1] && (k.freeUnits e d classF).isSome

/-- The lowest-numbered engine that can start every tile of a list (R95), those of `avoid` excepted. -/
def Core.pickEngine (k : Core) (ds : List Nat) (classF : Bool) (avoid : List Nat) : Option Nat :=
  (List.range 4).find? fun e => !avoid.contains e && ds.all fun d => k.canStart e d classF

/-- A tile is put on an engine and starts to stream. -/
def State.startOn (s : State) (g e : Nat) (t : TileRun) : State :=
  match (s.core g).freeUnits e t.desc (s.classF g) with
  | none => s
  | some us => s.stream g { t with engine := e, units := us, phase := .streaming }

/-- The half-1 tile that streams together with a half-0 tile (R108). -/
def Core.partner (k : Core) (t : TileRun) : Option TileRun :=
  k.tiles.find? fun u => u.phase == .queued && u.pairWith == some t.serial && u.pass == t.pass

/-- Whether a half-0 tile waits for the issue of its half 1 (R108). A core that has stopped issuing will not issue it, and the
tile streams alone. -/
def Core.awaitsHalf (k : Core) (t : TileRun) : Bool :=
  k.pairs.any (·.1 == t.serial) && !k.stopReq && (k.state == .issuing || k.state == .waiting || k.state == .held)

/-- Engines of a die that stream a tile. -/
def State.streamingEngines (s : State) (d : Nat) : Nat :=
  ((s.cores.filter fun e => dieOf e.1 == d).map fun e =>
    ((List.range 4).filter fun i => e.2.tiles.any fun t => t.phase == .streaming && t.engine == i).length).sum

/-- Whether the current ramp of a core's die permits another streaming engine (R423). -/
def State.rampAllows (s : State) (g : Nat) : Bool :=
  decide (s.streamingEngines (dieOf g) < 32 * (Tab.get {} s.bow.dies (dieOf g)).stage)

/-- The tiles that start next, and an engine that can start them (R51, R95, R108). -/
def Core.nextStart (k : Core) (classF : Bool) : Option (Nat × List TileRun) :=
  match k.tiles.find? (·.phase == .queued) with
  | none => none
  | some t =>
    let us := t :: (k.partner t).toList
    if k.awaitsHalf t then none else (k.pickEngine (us.map (·.desc)) classF []).map fun e => (e, us)
/-- An engine of a core could start a tile. -/
def Core.tileReady (k : Core) (classF : Bool) : Bool := (k.nextStart classF).isSome

/-- TILE_START: the next tile in program order starts on the lowest-numbered engine with a free bank or slot (R51, R95);
two sub-tile halves that belong together start together (R108). It waits while its die's current ramp permits no more
streaming engines (R423). DEDUCED: tiles that were issued before a pre-emption was requested still start (log 148). -/
def execTileStart (g : Nat) (s : State) : Host.Outcome State Fault Refusal :=
  if s.dieOff (dieOf g) then .next s else
  match (if s.rampAllows g then (s.core g).nextStart (s.classF g) else none) with
  | none => .next s
  | some (e, us) => .next (us.foldl (fun (s : State) u => s.startOn g e u) (s.finishStreams g e [0, 1]))

/-! ### Long sums (R65 to R68) -/

/-- Whether `u` comes before `t` in program order, passes in order. -/
def TileRun.before (u t : TileRun) : Bool := u.serial < t.serial || (u.serial == t.serial && u.pass < t.pass)

/-- Whether a tile's pass is the first of its descriptor that adds to a slot. -/
def TileRun.firstFor (t : TileRun) (off : Nat) : Bool :=
  (passes (T.passMode t.desc)).findIdx (fun p => p.adds.any (·.1 == off)) == t.pass

/-- Whether a tile may add to its slots: every earlier tile on them, gathered tiles not yet issued included, has made its
last add, and for a tile with ls_first the slot is free (R67). -/
def Core.mayAdd (k : Core) (t : TileRun) : Bool :=
  (k.tiles.all fun u =>
    !(u.before t && usesSlot u.desc && u.slots.any t.slots.contains) ||
      (u.closed && (u.serial == t.serial || !T.lsFirst t.desc || t.opened)))
  && (k.gatherOpen :: k.gatherWait).all fun l => match l with
    | q :: _ => !(decide (q.serial < t.serial) && usesSlot q.template && t.slots.contains (T.lsSlot q.template))
    | [] => true

/-- The value that a pass adds for an accumulator value: its sign and its exact scale (R66, R78). -/
def addend (f : AccFmt) (neg : Bool) (sh v : Nat) : Fp :=
  let x := (f.value v).scale sh
  if neg then x.neg else x

/-- The values of a tile's cells are added to its slots in binary64 under RNE (R47, R66). DESIGN CHOICE: column `j` of a half-1
sub-tile adds to column `j` of the slot, as it takes element `j` of its output rows. -/
def State.addToSlots (s : State) (g : Nat) (t : TileRun) (vals : List Nat) : State :=
  let d := t.desc
  let f := accFmt d (s.classF g)
  t.passInfo.adds.foldl (fun s (off, neg, sh) =>
    let slot := (T.lsSlot d + off) % 8
    let s := if T.lsFirst d && !t.opened && t.firstFor off then
        s.modMems fun m => { m with ls := m.ls.clear (lsAddr g slot 0 0) 0x8000 }
      else s
    ((cellsOf t.m (T.n d)).zip vals).foldl (fun s ((i, j), v) =>
      s.lsSet g slot i j (f64.encode .rne false 0 ((f64.decode (s.lsGet g slot i j)).add (addend f neg sh v)))) s) s

/-- A streaming tile's running sums pass to other units, are added to the long-sum slot, and the tile continues from +0 (R65,
R66). -/
def State.spill (s : State) (g : Nat) (t : TileRun) (us : List Nat) : State :=
  let vals := s.accBlock g t
  let (s, t) := s.countStream g t (segmentEnd t.desc t.at_)
  let s := s.setAccBlock g t us vals
  let s := s.addToSlots g t vals
  s.stream g { t with at_ := segmentEnd t.desc t.at_, opened := true }

/-- SPILL_POINT: at a spill point the running sums pass to the other bank or a free slot, which stalls until one is free,
and are added to the long-sum slot; the tile continues from +0 (R65, R66). -/
def execSpillPoint (g e h : Nat) (s : State) : Host.Outcome State Fault Refusal :=
  if s.dieOff (dieOf g) then .next s else
  let k := s.core g
  match k.tiles.find? fun t => t.engine == e && t.phase == .streaming && t.inHalf h && !t.lastSegment with
  | none => .next s
  | some t =>
    match k.freeUnits e t.desc (s.classF g) with
    | none => .next s
    | some us => if !k.mayAdd t then .next s else .next (s.spill g t us)

/-! ### Drain and completion (R81, R94) -/

/-- The descriptors that a tile entry belongs to: its TILE, or its GATHER requests. -/
def TileRun.owners (t : TileRun) : List Nat :=
  if t.rows.isEmpty then [t.serial] else (t.rows.map (·.serial)).eraseDups

/-- A tile ends: it is counted, and its descriptors complete with the last of their tiles. -/
def State.endTile (s : State) (g : Nat) (t : TileRun) : State :=
  let s := s.dropTile g t
  let s := s.modCore g fun k => { k with completed := wrapAdd 32 k.completed 1 }
  if (s.core g).tiles.any (·.serial == t.serial) then s
  else t.owners.foldl (fun s i => s.complete g i) s

/-- Half places of an engine's drain buffer that are taken (R81). -/
def Core.placesTaken (k : Core) (e : Nat) : Nat :=
  ((k.tiles.filter fun t => t.engine == e && t.phase == .drained && !usesSlot t.desc).map fun t =>
    if T.subtile t.desc then 1 else 2).sum

/-- Whether a tile's drain has room: always into the long-sum adder once its turn has come, and otherwise in the drain
buffer. -/
def Core.canDrain (k : Core) (t : TileRun) : Bool :=
  if usesSlot t.desc then k.mayAdd t
  else decide (k.placesTaken t.engine + (if T.subtile t.desc then 1 else 2) ≤ 4)

/-- Whether a tile has an epilogue: every tile without a slot, and the last pass of each plane with ls_last. -/
def TileRun.hasEpilogue (t : TileRun) : Bool := t.passInfo.epi.isSome && (!usesSlot t.desc || T.lsLast t.desc)

/-- A tile that has streamed whole gives up its units: its end-of-tile values go to the long-sum adder, or its block into
the drain buffer (R62, R66, R81). -/
def State.drainTile (s : State) (g : Nat) (t : TileRun) : State :=
  let vals := s.accBlock g t
  let (s, t) := if t.phase = .streaming then s.countStream g t (segmentEnd t.desc t.at_) else (s, t)
  if usesSlot t.desc then
    let s := s.addToSlots g t vals
    let t := { t with phase := .drained, units := [], opened := true, closed := true }
    if t.hasEpilogue then s.setTile g t else s.endTile g t
  else s.setTile g { t with phase := .drained, units := [], block := vals }

/-- TILE_DRAIN: a tile that has streamed whole drains into a place of the drain buffer, or its end-of-tile values go to
the long-sum adder (R62, R66, R81). With no room it has finished streaming and keeps its bank (R63). A tile that ends here frees the
VECs that waited for its input (R85). -/
def execTileDrain (g e : Nat) (s : State) : Host.Outcome State Fault Refusal :=
  if s.dieOff (dieOf g) then .next s else
  let k := s.core g
  match k.tiles.find? fun t => t.engine == e && (t.phase == .finished || (t.phase == .streaming && t.lastSegment))
      && k.canDrain t with
  | some t => .next ((s.drainTile g t).runVecs g)
  | none =>
    match k.tiles.find? fun t => t.engine == e && t.phase == .streaming && t.lastSegment with
    | some t => .next (s.finishStream g t)
    | none => .next s

/-! ### The epilogue (R82, R83) -/

/-- Tensor, logical row and output unit of row `i` of a tile, on output plane `p` (R76, R107). -/
def TileRun.rowInfo (t : TileRun) (p i : Nat) : Nat × Nat × Nat :=
  match t.rows[i]? with
  | some r => (r.tensor, r.row, r.out)
  | none => (T.tensor t.desc + p, 64 * T.tileRow t.desc + i, T.outAddr t.desc + (64 * p + i) * T.outStride t.desc)

/-- The FP32 element `i` of an array that starts at a scratchpad unit. -/
def spF32 (s : State) (g unit i : Nat) : Fp := f32.decode (leAt (s.spRead g (64 * unit + 4 * i) 4) 0 4)

/-- The FP32 value of a cell after SCALE, BIAS and ACT (R82). -/
def epilogueValue (s : State) (g d i j : Nat) (x : Fp) : Fp :=
  let x := match T.scaleMode d with
    | 1 => rne32 (x.mul (spF32 s g (T.scaleAddr d) 0))
    | 2 => rne32 (x.mul (spF32 s g (T.scaleAddr d) i))
    | 3 => rne32 (x.mul (spF32 s g (T.scaleAddr d) j))
    | _ => x
  let x := if T.biasEn d then rne32 (x.add (spF32 s g (T.biasAddr d) j)) else x
  act false (T.act d) x

/-- Cycles of an epilogue over a number of elements (R118). -/
def epilogueCycles (d elements : Nat) : Nat :=
  (if T.scaleMode d = 0 then 0 else cyclesAt elements 128) + (if T.biasEn d then cyclesAt elements 128 else 0)
    + actCycles false (T.act d) elements + (if T.outFmt d = 0 then 0 else cyclesAt elements 128)

/-- The value that enters a tile's epilogue at a cell: of the drained block, or of the long-sum slot (R81, R82). DESIGN CHOICE: an
INT32 sum beyond 2^24, which R82 calls exact in FP32 and which is not always so, is rounded under RNE. -/
def TileRun.epiInput (t : TileRun) (s : State) (g p i j : Nat) : Fp :=
  if usesSlot t.desc then rne32 (f64.decode (s.lsGet g ((T.lsSlot t.desc + p) % 8) i j))
  else rne32 ((accFmt t.desc (s.classF g)).value (t.block.getD (i * T.n t.desc + j) 0))

/-- The rows of a tile that lie in one MX block of the column axis with row `i`: same tensor, same 32 logical rows. DESIGN CHOICE: the
manual gives no blocks for gathered rows; each row counts at its own logical row, in its block and in its scale byte (log 175). -/
def TileRun.blockRows (t : TileRun) (p i : Nat) : List Nat :=
  let (a, r, _) := t.rowInfo p i
  (List.range t.m).filter fun i' => let (a', r', _) := t.rowInfo p i'; a' == a && r' / 32 == r / 32

/-- The scale code of the MX block of a cell (R30, R83). -/
def TileRun.outScale (t : TileRun) (x : Nat → Nat → Fp) (p i j : Nat) : Nat :=
  let d := t.desc
  let vals := if T.mxAxis d then (t.blockRows p i).map fun i' => x i' j
    else ((List.range (T.n d)).filter (· / 32 == j / 32)).map fun j' => x i j'
  mxScale (T.fo d) (T.outSat d) vals

/-- The 24-bit draw of CONVERT at a cell: purpose 1, draw 3 (R41, R82). -/
def TileRun.convertDraw (t : TileRun) (p i j : Nat) : Nat :=
  let (a, r, _) := t.rowInfo p i
  let at_ : DrawAt := { tensor := a, tileRow := r / 64, tileCol := T.tileCol t.desc, cellRow := r % 64, cellCol := j
                        purpose := 1, draw := 3 }
  at_.bits t.seed

/-- The epilogue of a tile runs whole: outputs, MX scales, counters (R82, R83). -/
def runEpilogue (s : State) (g : Nat) (t : TileRun) : State :=
  let d := t.desc
  let p := t.passInfo.epi.getD 0
  let n := T.n d
  let fo := T.fo d
  let mode := (RMode.ofCode (T.outRound d)).getD .rne
  let vals := (cellsOf t.m n).map fun (i, j) => epilogueValue s g d i j (t.epiInput s g p i j)
  let x := fun i j => vals.getD (i * n + j) .zero
  let draw := fun i j => if mode = .sr then t.convertDraw p i j else 0
  let s1 := (List.range t.m).foldl (fun (s : State) i =>
    let (_, r, out) := t.rowInfo p i
    let scales := fun j => if fo.isMx then t.outScale x p i j else 0x7F
    let codes := (List.range n).map fun j =>
      if fo.isMx then mxElement fo (scales j) mode (draw i j) (x i j)
      else convert fo mode (T.outSat d && fo != .fp32) (draw i j) (x i j)   -- CONVERT to FP32 does nothing
    let s := s.spWrite g (64 * out) (packElems fo codes)
    if !fo.isMx then s
    else if T.mxAxis d then
      (List.range n).foldl (fun s j =>
        s.spWrite g (64 * (T.outMeta d + (64 * p + j) * T.metaPitch d) + 2 * (r / 64 % 32) + r % 64 / 32)
          [BitVec.ofNat 8 (scales j)]) s
    else
      (List.range (ceilDiv n 32)).foldl (fun s b =>
        s.spWrite g (64 * (T.outMeta d + (64 * p + i) * T.metaPitch d) + 2 * (T.tileCol d % 32) + b)
          [BitVec.ofNat 8 (scales (32 * b))]) s) s
  s1.modCore g fun k => { k with
    nanToInt := satAdd 16 k.nanToInt (nanToIntCount fo vals)
    vecBusy := k.vecBusy + epilogueCycles d (t.m * n), vecItems := wrapAdd 32 k.vecItems 1 }

/-- The epilogue that the vector unit takes next: the first ready one in program order, unless an UPDATE holds the unit (R214), or a
VEC or an UPDATE that the unit can take was issued before it (R95). -/
def Core.nextEpilogue (k : Core) : Option TileRun :=
  (k.tiles.find? (·.phase == .drained)).filter fun t =>
    !k.updating && !(k.nextVec.any fun i => decide (i.serial < t.serial))
      && !(k.runningUpdate.any fun e => decide (e.1.serial < t.serial))

/-- EPILOGUE: the vector unit takes the next ready epilogue, runs it to its end, and the tile completes (R81, R82, R95). VECs that
waited for the tile's input run after it (R85). -/
def execEpilogue (g : Nat) (err : ReadError) (s : State) : Host.Outcome State Fault Refusal :=
  if s.dieOff (dieOf g) then .next s else
  match (s.core g).nextEpilogue with
  | none => .next s
  | some t =>
    let kind := if t.rows.isEmpty then tyTile else tyGather
    let go := fun (s : State) => ((runEpilogue s g t).endTile g t).runVecs g
    let s' := s.onDieRead g g (clusterOf g) kind t.index true false false err go
    .next (if err = .spHard then (s'.modCore g fun k => { k with
        tiles := k.tiles.filter fun u => !(u.serial == t.serial)
        issued := k.issued.filter fun i => !(t.owners.contains i.serial) }).runVecs g
      else s')

/-! ### Parity and replay (R84 to R87) -/

/-- A tile ends with a tile fault: its entries and its descriptors leave the core without completing, and VECs that waited for its
input run (R85). -/
def State.faultTile (s : State) (g : Nat) (t : TileRun) (cause engine step : Nat) : State :=
  let kind := if t.rows.isEmpty then tyTile else tyGather
  let index := match (s.core g).issued.find? (·.serial == t.owners.headD 0) with
    | some i => i.index
    | none => t.index
  let s := s.modCore g fun k => { k with
    tiles := k.tiles.filter fun u => !(u.serial == t.serial)
    issued := k.issued.filter fun i => !(t.owners.contains i.serial) }
  (s.tileFault g cause engine step kind index).runVecs g

/-- The tile on an engine that a parity error hits (R84): operands as they stream; accumulators and the drain path as values drain
at a spill point or at the tile's end; the drain buffer until the epilogue has read it; a long-sum word at an add, or as the
epilogue reads the slot. -/
def Core.parityTarget (k : Core) (e h : Nat) (kind : ParityKind) : Option TileRun :=
  k.tiles.find? fun t => t.engine == e && t.inHalf h &&
    match kind with
    | .operand => t.phase == .streaming
    | .accumulator => t.phase == .streaming || t.phase == .finished
    | .drain => t.phase == .streaming || t.phase == .finished || (t.phase == .drained && !usesSlot t.desc)
    | .longSum => usesSlot t.desc && (t.phase == .streaming || t.phase == .finished || t.phase == .drained)

/-- The step of its segment up to which a streaming tile has sent its beats when an error stops it: an operand error stops it at
the step given, the other kinds are found as the segment drains. -/
def TileRun.sentUpTo (t : TileRun) (step : Nat) (kind : ParityKind) : Nat :=
  let hi := segmentEnd t.desc t.at_
  if kind = .operand then min hi (max t.at_ step) else hi

/-- PARITY_ERROR: the filling bank is discarded and the tile will resume at its last completed spill on another engine; the
fourth failure, or one in a long-sum slot, is a tile fault (R86, R87). -/
def execParityError (g e h step : Nat) (kind : ParityKind) (s : State) : Host.Outcome State Fault Refusal :=
  if s.dieOff (dieOf g) then .next s else
  match (s.core g).parityTarget e h kind with
  | none => .next s
  | some t =>
    let s := ((s.modCore g fun k => { k with parityEvents := satAdd 8 k.parityEvents 1 }).census 1).corrected 1
    let (s, t) := if t.phase = .streaming then s.countStream g t (t.sentUpTo step kind) else (s, t)
    if kind = .longSum then
      let s := s.modCore g fun k => { k with longsumParity := satAdd 8 k.longsumParity 1 }
      .next (s.faultTile g t 2 e (step % 2 ^ 14))
    else if t.attempts ≥ 3 then .next (s.faultTile g t 1 e (step % 2 ^ 14))
    else .next (s.setTile g { t with
      phase := .replayWait, attempts := t.attempts + 1, avoid := [e], units := [], block := [] })

/-- REPLAY_START: the replay of a failed tile starts on the first other engine of the core that is free (R86),
as its die's current ramp permits (R423). -/
def execReplayStart (g : Nat) (s : State) : Host.Outcome State Fault Refusal :=
  if s.dieOff (dieOf g) then .next s else
  let k := s.core g
  match k.tiles.find? (·.phase == .replayWait) with
  | none => .next s
  | some t =>
    if !s.rampAllows g then .next s else
    match k.pickEngine [t.desc] (s.classF g) t.avoid with
    | none => .next s
    | some e =>
      let s := s.finishStreams g e [0, 1]
      let s := s.modCore g fun k => { k with replayCnt := satAdd 8 k.replayCnt 1 }
      .next (s.startOn g e t)

/-! ### TILE (R48, R49, R73, R466) -/

/-- The TileRuns of a descriptor, one for each pass (R78). -/
def tileRuns (t : TileRun) : List TileRun :=
  (List.range (passes (T.passMode t.desc)).length).map fun p => { t with pass := p }

/-- The mask of open slots after a tile has been issued (R67). -/
def slotsAfter (d mask : Nat) : Nat :=
  if !T.lsUse d then mask
  else
    let bits := if T.passMode d = 1 || T.passMode d = 2 then 3 * 2 ^ T.lsSlot d else 2 ^ T.lsSlot d
    if T.lsLast d then mask &&& (255 - bits % 256) else mask ||| bits

/-- Whether the next descriptor of the program is the other half of a half-0 tile (R108). -/
def State.pairFollows (s : State) (g d : Nat) : Bool :=
  let k := s.core g
  T.subtile d && T.half d == 0 && decide (k.pc + 1 < k.count) &&
    match s.descriptor g (k.pc + 1) with
    | .ok e0 =>
      let e := applyOffsets e0 k.sq
      dType e == tyTile && !dFence e && !dTemplate e && T.subtile e && T.half e == 1 && T.aAddr e == T.aAddr d
        && T.m e == T.m d && T.steps e == T.steps d
    | _ => false

/-- TILE: a template is skipped; the descriptor is checked in the order of R466; a tile without output, or suppressed by
its token counter, completes at once; any other is queued for an engine. DESIGN CHOICE: the tile faults of R466 come before the
header's faults (R99, R111); a tile with M or N of 0 ends EMPTY_OUTPUT whatever its token counter holds; and a tile that ends
EMPTY_OUTPUT or SUPPRESSED neither opens nor closes its slot. -/
def execTile (g : Nat) (s : State) : Host.Outcome State Fault Refusal :=
  if s.dieOff (dieOf g) then .next s else
  let load := ((((s.core g).tiles.filter (·.phase == .queued)).map (·.serial)).eraseDups).length
  match s.gate g (dType · == tyTile) false load 16 with
  | .stay s => .next s
  | .go d0 =>
    let k := s.core g
    if dTemplate d0 then
      .next ((s.modCore g fun k => { k with pc := k.pc + 1, fenceWait := false, queueFull := false }).finishProgram g)
    else
      let d := applyOffsets d0 k.sq
      let tok := T.tokCtr d
      let ref := ownDie g (tok % 2 ^ 15)
      match tileFaultCause d (s.classF g) false k.normOwner k.slotOpen with
      | some c => .next (s.tileFault g c 0 0 tyTile k.pc)
      | none =>
        match s.headerFault g d with
        | some c => .next (s.seqFault g c tyTile k.pc)
        | none =>
          if tok != 0xFFFF && !s.clusterIn k.part (counterCluster ref) then .next (s.seqFault g 2 tyTile k.pc)
          else if T.m d = 0 || T.n d = 0 then
            let s := s.modCore g fun k => { k with empty := wrapAdd 16 k.empty 1 }
            .next ((s.advance g).completeNow g d)
          else if !tileInRange d 0 (T.m d) (T.aAddr d, T.aStride d) (T.outAddr d, T.outStride d) then
            .next (s.seqFault g 3 tyTile k.pc)
          else
            let count := (s.counter ref).toNat
            if tok != 0xFFFF && count ≤ T.rowBase d then
              let s := s.modCore g fun k => { k with suppressed := wrapAdd 16 k.suppressed 1 }
              .next ((s.advance g).completeNow g d)
            else
              let m := if tok = 0xFFFF then T.m d else min (T.m d) (count - T.rowBase d)
              let t : TileRun := { serial := k.serial, index := k.pc, desc := d, seed := k.sq.getD (T.seedReg d) 0, m := m
                                   pairWith := (k.pairs.find? fun e => e.2 + 1 == k.pc).map (·.1) }
              let pairs := if s.pairFollows g d then [(k.serial, k.pc)] else []
              let s := s.issue g d .tile
              .next (s.modCore g fun k => { k with
                tiles := k.tiles ++ tileRuns t, pairs := pairs ++ k.pairs, slotOpen := slotsAfter d k.slotOpen })

/-! ### The gather stage (R74 to R77) -/
namespace G
/-- template. -/
def template (d : Nat) : Nat := d32 d 8
/-- tensor_id. -/
def tensor (d : Nat) : Nat := d32 d 12
/-- first_row. -/
def firstRow (d : Nat) : Nat := dfield d 16 39 0
/-- rows. -/
def rows (d : Nat) : Nat := dfield d 21 6 0
/-- a_addr. -/
def aAddr (d : Nat) : Nat := d16 d 22
/-- a_stride. -/
def aStride (d : Nat) : Nat := d16 d 24
/-- out_addr. -/
def outAddr (d : Nat) : Nat := d16 d 26
/-- out_stride. -/
def outStride (d : Nat) : Nat := d16 d 28
end G

/-- Rows of a list of requests. -/
def gatherRows (l : List GatherReq) : Nat := (l.map fun q => G.rows q.desc).sum

/-- The row table of a gathered tile (R76). -/
def rowTable (l : List GatherReq) : List GatherRow :=
  l.flatMap fun q => (List.range (G.rows q.desc)).map fun r =>
    { serial := q.serial, tensor := G.tensor q.desc, row := G.firstRow q.desc + r
      aAddr := G.aAddr q.desc, aStride := G.aStride q.desc, place := r, out := G.outAddr q.desc + r * G.outStride q.desc }

/-- A template without the fields that each request gives for its own rows (R110): tensor_id, tile_row, m, a_addr, a_stride,
out_addr and out_stride. -/
def templateKey (t : Nat) : Nat :=
  [(8, 31), (12, 15), (20, 6), (28, 15), (32, 15), (34, 15), (38, 15)].foldl (fun d (b, hi) => dset d b hi 0 0) t

/-- Two requests belong in one gathered tile: the same template, with the same seed and the same fields after offsets (R74,
R110). -/
def GatherReq.matches (a b : GatherReq) : Bool :=
  G.template a.desc == G.template b.desc && a.seed == b.seed && templateKey a.template == templateKey b.template

/-- Whether a request joins the requests of a tile: it matches them and fits in the rows that remain (R74). -/
def GatherReq.joins (q : GatherReq) (l : List GatherReq) : Bool :=
  match l with
  | o :: _ => o.matches q && decide (gatherRows l + G.rows q.desc ≤ 64)
  | [] => false

/-- The requests that a new one joins: those of the open tile, or of the first tile after it that takes it. -/
def Core.gatherGroup (k : Core) (q : GatherReq) : Option (List GatherReq) :=
  (k.gatherOpen :: k.gatherWait).find? q.joins

/-- A request joins the first list that takes it, or opens a tile after the others. -/
def GatherReq.enter (q : GatherReq) : List (List GatherReq) → List (List GatherReq)
  | [] => [[q]]
  | l :: t => if q.joins l then (l ++ [q]) :: t else l :: q.enter t

/-- A request enters the gather stage (R74). -/
def Core.addRequest (k : Core) (q : GatherReq) : Core :=
  if k.gatherOpen.isEmpty then { k with gatherOpen := [q] }
  else if q.joins k.gatherOpen then { k with gatherOpen := k.gatherOpen ++ [q] }
  else { k with gatherWait := q.enter k.gatherWait }

/-- Requests that the gather stage holds. -/
def Core.gatherLoad (k : Core) : Nat := ((k.gatherOpen :: k.gatherWait).map List.length).sum

/-- The gather stage issues its open tile, in its place in program order, and the next one opens (R74, R75, R77, R81). DESIGN
CHOICE: the token counter and the row base of a template have no effect, since R73 gives them to a TILE descriptor. -/
def State.issueGathered (s : State) (g : Nat) : State :=
  let k := s.core g
  match k.gatherOpen with
  | [] => s
  | q :: _ =>
    let rows := rowTable k.gatherOpen
    let t : TileRun := { serial := q.serial, index := G.template q.desc, desc := q.template, seed := q.seed
                         m := rows.length, rows := rows }
    let s := s.modCore g fun k => { k with
      gatherOpen := k.gatherWait.headD [], gatherWait := k.gatherWait.drop 1
      gatherFull := wrapAdd 32 k.gatherFull (if rows.length = 64 then 1 else 0)
      gatherPartial := wrapAdd 32 k.gatherPartial (if rows.length = 64 then 0 else 1) }
    if T.n q.template = 0 then
      -- EMPTY_OUTPUT (R49)
      t.owners.foldl (fun s i => s.complete g i) (s.modCore g fun k => { k with empty := wrapAdd 16 k.empty 1 })
    else s.modCore g fun k => { k with
      tiles := (k.tiles.filter (·.serial < q.serial)) ++ tileRuns t ++ k.tiles.filter (q.serial < ·.serial) }

/-- Open tiles that have 64 rows, or any tile under a wait bound of 0, are issued at once (R75); with `all` every tile is
(R120). `n` bounds them. -/
def State.fillGather (s : State) (g : Nat) (all : Bool) : Nat → State
  | 0 => s
  | n + 1 =>
    let k := s.core g
    if !k.gatherOpen.isEmpty && (all || k.waitBound == 0 || decide (64 ≤ gatherRows k.gatherOpen)) then
      (s.issueGathered g).fillGather g all n
    else s

/-- GATHER: a request is checked with its template and added to the gather stage (R74, R110, R466). The rules on slots are those of
its tile, and hold for the request that opens it (R67). DESIGN CHOICE: a template index that names no template of the program is a
reserved code, cause 0x05. -/
def execGather (g : Nat) (s : State) : Host.Outcome State Fault Refusal :=
  if s.dieOff (dieOf g) then .next s else
  let k := s.core g
  match s.gate g (dType · == tyGather) false k.gatherLoad 64 with
  | .stay s => .next s
  | .go d0 =>
    let d := applyOffsets d0 k.sq
    if k.count ≤ G.template d then .next (s.tileFault g 5 0 0 tyGather k.pc) else
    match s.descriptor g (G.template d) with
    | .bad a p => .next ((s.noteFault k.part (dieOf g) a p).seqFault g (if p then 8 else 3) tyGather k.pc)
    | .wait _ => .next s
    | .ok t0 =>
      let t := applyOffsets t0 k.sq
      let req : GatherReq := { serial := k.serial, desc := d, template := t, seed := k.sq.getD (T.seedReg t) 0 }
      if dType t0 != tyTile || !dTemplate t0 then .next (s.tileFault g 5 0 0 tyGather k.pc)
      else
        let group := k.gatherGroup req
        match tileFaultCause (dset t 20 6 0 (G.rows d)) (s.classF g) true k.normOwner
            (if group.isSome then 255 else k.slotOpen) with
        | some c => .next (s.tileFault g c 0 0 tyGather k.pc)
        | none =>
          match s.headerFault g d with
          | some c => .next (s.seqFault g c tyGather k.pc)
          | none =>
            if !tileInRange t (gatherRows (group.getD [])) (G.rows d) (G.aAddr d, G.aStride d) (G.outAddr d, G.outStride d) then
              .next (s.seqFault g 3 tyGather k.pc)
            else
              let s := (s.issue g d .gather).modCore g fun k => { k.addRequest req with
                slotOpen := if group.isSome then k.slotOpen else slotsAfter t k.slotOpen }
              .next (s.fillGather g false 66)

/-- GATHER_WAIT_BOUND: the wait bound of the open tile has passed, and it is issued with the rows it holds (R75). Requests
that waited for it open the next tile. -/
def execGatherWaitBound (g : Nat) (s : State) : Host.Outcome State Fault Refusal :=
  if s.dieOff (dieOf g) then .next s else
  if (s.core g).gatherOpen.isEmpty then .next s else .next ((s.issueGathered g).fillGather g false 66)

end Sys2Proof.Machine
end

