-- ==== Sys2Proof/Machine/Bridge.lean ====
section
/-! DEFINITION. The Bridges (R345 to R358): source lines, arrivals and coalescing, claims, completions and the register
writes that act on them. Bridge `d` below 4 is die `d`'s; Bridge 4 is the hub's. -/

namespace Sys2Proof.Machine

/-- Bridge `b`. -/
def State.bridge (s : State) (b : Nat) : Bridge := Tab.get {} s.bridges b
/-- The state with a Bridge changed. -/
def State.modBridge (s : State) (b : Nat) (f : Bridge → Bridge) : State :=
  { s with bridges := Tab.update {} s.bridges b f }
/-- A coalescing group. -/
def Bridge.group (x : Bridge) (g : Nat) : BrgGroup := Tab.get {} x.groups g

/-- BRG_SRC_CFGs at reset (R358). -/
def srcConfigReset (b src : Nat) : Nat :=
  ofBool (b != 4 && decide (64 ≤ src ∧ src ≤ 511)) * 2 ^ 31 + (if src = 1023 then 0x3FF else src)

/-- BRG_SRC_CFGs. -/
def State.srcConfig (s : State) (b src : Nat) : Nat :=
  if b = 4 && src < 576 then (s.queue (src / 32) (src % 32)).vector
  else ((s.bridge b).configs.find src).getD (srcConfigReset b src)

/-- The vector of a source: a queue pair's is the whole field of HUB_QCFGq (R348). -/
def State.srcVector (s : State) (b src : Nat) : Nat :=
  if b = 4 && src < 576 then s.srcConfig b src else field (s.srcConfig b src) 9 0

/-- The target mask of a source (R348): a queue pair's is the forwarder. -/
def State.srcTargets (s : State) (b src : Nat) : Nat :=
  if b = 4 && src < 576 then 2 ^ 4 else Tab.get 0 (s.bridge b).targets src

/-- route 1, on a die only (R348). -/
def State.routed (s : State) (b src : Nat) : Bool := b != 4 && bit (s.srcConfig b src) 31

/-- The partition of a die source: sources 0 to 127 take that of their core (R348). -/
def State.srcPart (s : State) (b src : Nat) : Option Nat :=
  if src < 128 then s.ownerOf (granuleOf (64 * b + src % 64)) else some (field (s.srcConfig b src) 27 24)

/-- The line of a die source (R346). -/
def State.dieLine (s : State) (d src : Nat) : Bool :=
  if src < 64 then decide (0 < (s.core (64 * d + src)).descDone)
  else if src < 128 then
    let k := s.core (64 * d + src - 64)
    k.seqErr.isSome || k.engErr.isSome
  else if src < 131 then (Tab.get {} s.hbms (3 * d + src - 128)).state == 3
  else if src = 131 then (List.range 8).any fun k => decide (0 < (s.cluster (8 * d + k)).cmUncorrectable)
  else if src < 136 then (s.port (d + 4 * (src - 132))).state == 3
  else if src = 136 then (s.die d).collFault.isSome
  else false

/-- Whether a put of a partition waits for room (R186). -/
def State.putWaits (s : State) (n : Nat) : Bool :=
  s.cores.any fun e => e.2.part == n && e.2.issued.any fun i => i.work == .scroll .room

/-- Whether a die source is pending (R345). -/
def State.diePending (s : State) (d src : Nat) : Bool := s.dieLine d src || bit (s.bridge d).soft src

/-- The summary of a die: any of its route-1 sources pending and unmasked (R348). Only sources 0 to 136 have a line. -/
def State.dieSummary (s : State) (d : Nat) : Bool :=
  (List.range 1024).any fun src => s.routed d src && s.diePending d src && !bit (s.bridge d).mask src

/-- The line of a hub source (R347, R363, R416, R432, R448). -/
def State.hubLine (s : State) (src : Nat) : Bool :=
  if src < 576 then
    let q := s.queue (src / 32) (src % 32)
    q.irqEn && q.cqTail != q.cqHead
  else if src < 592 then (Tab.get {} s.peg.queues (src - 576)).batchFailed
  else if src < 608 then s.putWaits (src - 592)
  else if src < 624 then (s.job (src - 608)).event
  else if src < 628 then s.dieSummary (src - 624)
  else if src = 628 then s.res.err.isSome
  else if src = 629 then s.scr.err.isSome
  else if src = 630 then s.frt.faultValid
  else if src = 631 then s.peg.err.isSome
  else if src = 632 then s.lth.evFailed || s.lth.evCommitted || s.lth.evRaised
  else if src = 633 then s.bow.evHot || s.bow.evFloor
  else if src = 634 then s.vault.evMedia || s.vault.evSpares
  else if src = 635 then decide (0 < s.flash.dropped) || s.flash.fail
  else if src = 636 then s.sec.evStageFail || s.sec.evUnlock || s.sec.evUnlockFail
  else false

/-- A source is pending while its line is high or its soft bit is set (R345). -/
def State.pendingSrc (s : State) (b src : Nat) : Bool :=
  (if b = 4 then s.hubLine src else s.dieLine b src) || bit (s.bridge b).soft src

/-- Whether a group releases its sources (R357). -/
def BrgGroup.released (g : BrgGroup) : Bool := decide (g.countThr ≤ 1) || g.state == 2

/-- A holding group whose arrivals have reached its threshold is released; one with a threshold of 0 or 1 is so always (R357). -/
def BrgGroup.check (g : BrgGroup) : BrgGroup :=
  if g.state == 1 && decide (g.countThr ≤ g.arrivals) then { g with state := 2 } else g

/-- Whether a source is active. -/
def Bridge.isActive (x : Bridge) (src : Nat) : Bool := (x.active.find src).isSome

/-- A source is eligible (R349). -/
def State.eligible (s : State) (b src : Nat) : Bool :=
  let x := s.bridge b
  s.pendingSrc b src && !bit x.mask src && !x.isActive src && s.srcVector b src != 0x3FF
    && (x.group (src / 64)).released && x.enable && !(x.maskMode && x.gdis) && !s.routed b src

/-- Whether a target may be offered a source: its mask, and on a die the partition of its core (R348). -/
def State.offersTo (s : State) (b src t : Nat) : Bool :=
  bit (s.srcTargets b src) t && (b == 4 || s.srcPart b src == s.ownerOf (granuleOf (64 * b + t)))

/-- A target is available (R350). A control core is available as its firmware declares: whenever it claims. -/
def State.available (s : State) (b t : Nat) : Bool :=
  if b = 4 then decide (t ≤ 4)
  else
    let k := s.core (64 * b + t)
    decide (t < 64) && k.ctx.isSome && !k.inHandler && !k.stopReq
      && (k.state == .issuing || k.state == .waiting || k.state == .held)

/-- The source a claim is answered with: the lowest eligible one whose mask holds the claimant (R350). -/
def State.claimed (s : State) (b t : Nat) : Option Nat :=
  (List.range 1024).find? fun src => s.eligible b src && s.offersTo b src t

/-- The MSI-X vectors of a function (R321). -/
def vectorCount (f : Nat) : Nat := if f = 1 then 2048 else 64

/-- An entry of a function's MSI-X table. -/
def State.msixEntry (s : State) (f v : Nat) : MsixEntry := Tab.get {} (s.fn f).msix v

/-- An MSI-X message of a vector: discarded while the function's Bus Master Enable is 0 or its MSI-X Enable is 0, held in the PBA while
the vector or the whole function is masked, and otherwise sent (R340). PRESUMED: what MSI-X Enable and Function Mask do is the PCIe
standard's (log 186). -/
def State.sendMsix (s : State) (f v : Nat) : State :=
  let e := s.msixEntry f v
  if !(s.fn f).busMaster || !(s.fn f).msixEnable then s
  else if e.masked || (s.fn f).msixMask then s.modFn f fun x => { x with pba := x.pba ||| 2 ^ v }
  else { s with hub := { s.hub with
    msix := { fn := f, vector := v, addr := e.addrHigh * 2 ^ 32 + e.addrLow, data := e.data } :: s.hub.msix } }

/-- The function and the vector that a source of the hub is forwarded to: a queue pair's function, or PF0 (R351). A vector is taken
modulo the function's number of vectors (R344). -/
def State.vectorOf (s : State) (src : Nat) : Nat × Nat :=
  let f := if src < 576 then src / 32 else 0
  (f, s.srcVector 4 src % vectorCount f)

/-- Pending messages of which no source is asserted any more are forgotten, as PCIe asks of a function whose events have been served
(R340). -/
def State.dropPending (s : State) : State :=
  if s.hub.fns.all fun e => e.2.pba == 0 then s
  else
    let on := ((List.range 1024).filter fun src => s.pendingSrc 4 src).map s.vectorOf
    { s with hub := { s.hub with fns := s.hub.fns.map fun e => (e.1, { e.2 with
        pba := maskOf ((bitsOf 2048 e.2.pba).filter fun v => on.contains (e.1, v)) }) } }

/-- The forwarder sends an MSI-X message for a source (R351). -/
def State.forward (s : State) (src : Nat) : State :=
  let (f, v) := s.vectorOf src
  s.sendMsix f v

/-- A Bridge looks at its lines again: sources that are no longer pending are forgotten, a released group none of whose
route-0 sources is pending and unmasked or active is idle again (R357), a target that is no longer available claims nothing
more, and the hub's pending messages follow its sources (R340). -/
def State.bridgeSettle (s : State) (b : Nat) : State :=
  let x := s.bridge b
  let groups := x.groups.map fun (g, y) =>
    let y := y.check
    if y.state == 2 && !(rangeFrom (64 * g) 64).any fun src =>
        !s.routed b src && ((s.pendingSrc b src && !bit x.mask src) || x.isActive src)
    then (g, { y with state := 0, arrivals := 0 })
    else (g, y)
  let s := s.modBridge b fun x => { x with
    seen := x.seen.filter (s.pendingSrc b), groups := groups.filter (·.2 != {}), lost := x.lost.filter (s.available b) }
  if b = 4 then s.dropPending else s

/-- A Bridge looks at its lines again, and then the hub's, whose summary sources follow the dies'. -/
def State.settleFrom (s : State) (b : Nat) : State := (s.bridgeSettle b).bridgeSettle 4

/-- The targets of a Bridge. -/
def bridgeTargets (b : Nat) : List Nat := List.range (if b = 4 then 5 else 64)

/-- The targets other than `t` that hold an offer (R350). -/
def State.offersBut (s : State) (b t : Nat) : List Nat :=
  (bridgeTargets b).filter fun u => u != t && s.available b u && (s.claimed b u).isSome

/-- A source that is pending now and was not before: an arrival when it is unmasked, not active and not routed to the
hub (R357). -/
def State.arrive (s : State) (b src : Nat) : State :=
  let x := s.bridge b
  let x := { x with seen := x.seen.filter (s.pendingSrc b) }
  if s.pendingSrc b src && !x.seen.contains src then
    let counts := !bit x.mask src && !x.isActive src && !s.routed b src
    let bump := fun (g : BrgGroup) =>
      if !counts || decide (g.countThr ≤ 1) then g
      else if g.state == 0 then ({ g with state := 1, arrivals := 1 } : BrgGroup).check
      else ({ g with arrivals := g.arrivals + 1 } : BrgGroup).check
    s.modBridge b fun _ => { x with seen := src :: x.seen, groups := Tab.update {} x.groups (src / 64) bump }
  else s.modBridge b fun _ => x

/-- SOURCE_ASSERT: the Bridge samples a source whose line has risen (R345, R356, R357). -/
def execSourceAssert (b src : Nat) (s : State) : Host.Outcome State Fault Refusal :=
  if s.dieOff b then .next s else
  if b ≤ 4 ∧ src < 1024 then .next ((s.arrive b src).settleFrom b) else .next s

/-- GROUP_TIMER_RELEASE: the timer of a holding group has reached time_thr (R357). -/
def execGroupTimerRelease (b group : Nat) (s : State) : Host.Outcome State Fault Refusal :=
  if s.dieOff b then .next s else
  if b ≤ 4 ∧ group < 16 then
    let s := s.modBridge b fun x => { x with groups := Tab.update {} x.groups group fun g =>
      if g.state == 1 && g.timeThr != 0 then { g with state := 2 } else g }
    .next (s.bridgeSettle b)
  else .next s

/-- A source is completed: it is active no more, its soft bit is cleared, and a descriptor-done count falls by 1
(R352). -/
def State.completeSource (s : State) (b src : Nat) : State :=
  let s := s.modBridge b fun x => { x with
    active := x.active.erase src
    soft := if bit x.soft src then x.soft - 2 ^ src else x.soft }
  let s := if b < 4 && src < 64 then s.modCore (64 * b + src) fun k => { k with descDone := k.descDone - 1 } else s
  s.bridgeSettle b

/-- The source that a core's handler claimed is completed by its return; a return from vector 0x3FF completes nothing
(R352). -/
def State.handlerReturn (s : State) (g : Nat) : State :=
  match (s.core g).handlerSrc with
  | some src =>
    let s := s.modCore g fun k => { k with handlerSrc := none }
    if (s.bridge (dieOf g)).isActive src then s.completeSource (dieOf g) src else s
  | none => s

/-- A sequencer enters its handler (R119): a WAIT in progress is abandoned and issued again on return. -/
def State.enterHandler (s : State) (g vector : Nat) (src : Option Nat) : State :=
  (s.waitedCycles g).modCore g fun k => { k with
    irqRet := match k.wait with
      | some w => w.index
      | none => k.pc
    wait := none, inHandler := true, handlerSrc := src, state := .issuing, fenceWait := false, queueFull := false
    pc := (k.vbase + 64 * vector + 2 ^ 41 - k.base) % 2 ^ 41 / 64 }

/-- A target's claim takes a source. The other targets whose last source it was will claim in vain (R350). -/
def State.claimSource (s : State) (b t src : Nat) : State :=
  let others := s.offersBut b t
  let s := s.modBridge b fun x => { x with
    active := x.active.insert src t, delivered := wrapAdd 32 x.delivered 1, lost := x.lost.filter (· != t) }
  s.modBridge b fun x => { x with lost := x.lost ++ others.filter fun u => (s.claimed b u).isNone && !x.lost.contains u }

/-- CLAIM: a target that holds an offer claims, or one whose offer another target's claim has taken away: that one is answered with
the spurious vector (R350, R351). -/
def execClaim (b t : Nat) (s : State) : Host.Outcome State Fault Refusal :=
  if s.dieOff b then .next s else
  if b ≤ 4 && s.available b t then
    match s.claimed b t with
    | some src =>
      let s := s.claimSource b t src
      let s := if b < 4 then s.enterHandler (64 * b + t) (s.srcVector b src) (some src)
        else if t = 4 then s.forward src else s
      .next (s.settleFrom b)
    | none =>
      if (s.bridge b).lost.contains t then
        let s := s.modBridge b fun x => { x with
          spurious := wrapAdd 32 x.spurious 1, lost := x.lost.filter (· != t) }
        let s := if b < 4 then s.enterHandler (64 * b + t) 0x3FF none else s
        .next (s.settleFrom b)
      else .next s
  else .next s

/-- BRG_COMPLETE: a write of a source's number completes it, or counts a stray (R352, R353). -/
def execBrgComplete (b value : Nat) (s : State) : Host.Outcome State Fault Refusal :=
  if s.dieOff b then .next s else
  let src := field value 9 0
  if b ≤ 4 then
    if (s.bridge b).isActive src then .next ((s.completeSource b src).settleFrom b)
    else .next (s.modBridge b fun x => { x with stray := satAdd 32 x.stray 1 })
  else .next s

/-- Bits of a 32-bit word of a 1,024-bit field, in place. -/
def wordBits (w value : Nat) : Nat := value % 2 ^ 32 * 2 ^ (32 * w)

/-- BRG_PEND_SETw: soft bits are set, which is an arrival of each source that was not pending (R345, R357). -/
def execBrgPendSet (b w value : Nat) (s : State) : Host.Outcome State Fault Refusal :=
  if s.dieOff b then .next s else
  if b ≤ 4 ∧ w < 32 then
    let s := s.modBridge b fun x => { x with seen := x.seen.filter (s.pendingSrc b) }
    let s := s.modBridge b fun x => { x with soft := x.soft ||| wordBits w value }
    .next (((bitsOf 32 value).foldl (fun s i => s.arrive b (32 * w + i)) s).settleFrom b)
  else .next s

/-- BRG_PEND_CLRw: soft bits are cleared (R345). -/
def execBrgPendClr (b w value : Nat) (s : State) : Host.Outcome State Fault Refusal :=
  if s.dieOff b then .next s else
  if b ≤ 4 ∧ w < 32 then
    let s := s.modBridge b fun x => { x with soft := x.soft - (x.soft &&& wordBits w value) }
    .next (s.settleFrom b)
  else .next s

/-- BRG_MASK_SETw: sources are masked, in mask_mode 0 (R355). -/
def execBrgMaskSet (b w value : Nat) (s : State) : Host.Outcome State Fault Refusal :=
  if s.dieOff b then .next s else
  if b ≤ 4 && decide (w < 32) && !(s.bridge b).maskMode then
    .next ((s.modBridge b fun x => { x with mask := x.mask ||| wordBits w value }).settleFrom b)
  else .next s

/-- BRG_MASK_CLRw: sources are unmasked, in mask_mode 0 (R355). -/
def execBrgMaskClr (b w value : Nat) (s : State) : Host.Outcome State Fault Refusal :=
  if s.dieOff b then .next s else
  if b ≤ 4 && decide (w < 32) && !(s.bridge b).maskMode then
    .next ((s.modBridge b fun x => { x with mask := x.mask - (x.mask &&& wordBits w value) }).settleFrom b)
  else .next s

/-- BRG_CTRL: enable, mask_mode while enable is 0, and gdis in mask_mode 1, which withdraws every offer, as a Bridge without enable
does (R349, R355, R358). -/
def execBrgCtrl (b value : Nat) (s : State) : Host.Outcome State Fault Refusal :=
  if s.dieOff b then .next s else
  if b ≤ 4 then
    let s := s.modBridge b fun x =>
      let mode := if x.enable then x.maskMode else bit value 1
      let gdis := mode && bit value 2
      { x with
        enable := bit value 0, maskMode := mode, gdis := gdis, lost := if gdis || !bit value 0 then [] else x.lost }
    .next (s.settleFrom b)
  else .next s

/-- Every Bridge looks at its lines again, after a command that may have let some fall. -/
def State.settleBridges (s : State) : State := (List.range 5).foldl (fun s b => s.bridgeSettle b) s

end Sys2Proof.Machine
end

