-- ==== Sys2Proof/Machine/Checks.lean ====
section
/-! DEFINITION. The checks that a command meets (R331): opcode, function, class, units, partition, handle, and each
opcode's own parameter and state rules. A failed check gives a status code and a detail. -/

namespace Sys2Proof.Machine

/-- The opcodes of R333. -/
def opcodes : List Nat :=
  [0x01, 0x02, 0x10, 0x11, 0x12, 0x20, 0x21, 0x30, 0x31, 0x32, 0x40, 0x41, 0x42, 0x43, 0x50, 0x51, 0x60, 0x61,
   0x70, 0x71, 0x72, 0x80, 0x81, 0x82, 0x83, 0x84, 0x90, 0x91, 0x92, 0x93, 0xA0, 0xA1, 0xB0, 0xC0, 0xC1, 0xD0, 0xD1,
   0xE0]
/-- Opcodes of PF0 alone. -/
def pf0Only : List Nat := [0x10, 0x11, 0x83, 0x84, 0x91, 0xA0, 0xA1, 0xB0, 0xC0, 0xC1, 0xD1, 0xE0]
/-- Opcodes that read a whole context handle. -/
def usesHandle : List Nat :=
  [0x21, 0x40, 0x41, 0x42, 0x43, 0x50, 0x51, 0x60, 0x70, 0x71, 0x72, 0x80, 0x81, 0x82, 0x90, 0x92, 0x93]
/-- Opcodes with an interim status. -/
def hasInterim : List Nat := [0x81, 0x82, 0x90, 0x92]

/-! Presence of units (R2, R278, R334, R405). -/
/-- Pegbox and Unison. -/
def State.hasPegbox (s : State) : Bool := s.partCode != 3
/-- The vault. -/
def State.hasVault (s : State) : Bool := s.partCode != 2
/-- The LPDDR5X tier. -/
def State.hasLpddr (s : State) : Bool := s.partCode != 2

/-- The context that a handle names, where it is live with its generation (R332). -/
def State.handleCtx (s : State) (h : Nat) : Option (Nat × Nat × Ctx) :=
  let n := field h 3 0
  let c := field h 9 4
  match s.ctx n c with
  | some x => if h = handleOf n c x.gen then some (n, c, x) else none
  | none => none

/-- The handle of a packet. -/
def pkHandle (p : List Byte) : Nat := pk p 8 8

/-- The reference queue that a SENSOR_CONFIG concerns: of the group it forms, or of the active group it names (R293, R333). A group
that is not active has none. -/
def State.sensorRef (s : State) (p : List Byte) : Option Nat :=
  if pk p 17 1 = 0 then some (pk p (32 + 2 * (pk p 19 1)) 2 % 16)
  else
    let g := Tab.get ({} : UniGroup) s.uni.groups (pk p 16 1 % 4)
    if g.active then some (g.streams.getD g.ref (0, false)).1 else none

/-- The partition that a command names, where it names one (R333). -/
def State.cmdPart (s : State) (p : List Byte) : Option Nat :=
  let op := pkOpcode p
  if op = 0x20 || usesHandle.contains op then some (field (pkHandle p) 3 0)
  else if [0x10, 0x11, 0x12, 0x30, 0x31, 0x32].contains op then some (pk p 16 1 % 16)
  else if op = 0x61 then
    (s.sensorRef p).map fun q => (Tab.get ({} : PegQueue) s.peg.queues q).part
  else none

/-- The pages of a range of bytes. -/
def pageRange (base pages : Nat) : List Nat := rangeFrom (pageOf base) pages

/-- Whether a page lies in the shadow range of a window, or in the primary range of another partition's (R225). -/
def State.foreignWindow (s : State) (n x : Nat) : Bool :=
  s.inShadow (x * pageBytes) || (List.range 16).any fun m => m != n && s.inWindow m (x * pageBytes)

/-- Frames that mapping a page of a partition takes: two in its version window (R225). -/
def State.framesFor (s : State) (n x : Nat) : Nat := if s.inWindow n (x * pageBytes) then 2 else 1

/-- Whether any view of the Resonator pins a page (R160, R226). -/
def State.pinned (s : State) (x : Nat) : Bool :=
  s.res.parts.any fun e => e.2.views.any (fun v => v.2.contains x) || e.2.swapping.any fun w => w.2.1 == x

/-- Whether a step of a context is open (R336): from the acceptance of its STEP_BEGIN. `n` is the command that asks. -/
def State.stepIsOpen (s : State) (x : Ctx) (h : Nat) (num : Nat) : Bool :=
  x.stepOpen || s.hub.accepted.any fun c => c.opcode == 0x50 && pkHandle c.packet == h && decide (c.number < num)

/-- Whether a fill involves a partition (R364, R365). -/
def State.filling (s : State) (n : Nat) : Bool := s.jobs.fills.any (·.part == n)

/-- The open checkpoint of a context. -/
def State.openCkpt (s : State) (n c : Nat) : Option Ckpt := s.jobs.ckpts.find? fun k => k.part == n && k.ctx == c

/-- The plan of a partition (VLT_PLANn). -/
def State.plan (s : State) (n : Nat) : Nat := Tab.get 0 s.jobs.plans n

/-- The field of a plan in device memory (R364). -/
def State.planField (s : State) (n off len : Nat) : Nat :=
  match s.devRead n .plain .newest (s.plan n + off) len with
  | .ok bs => ofLE bs
  | _ => 0

/-- A refused read of a partition's plan is recorded, with the control complex as its requester (R229, R364). DESIGN CHOICE: its fields
then read as zero (log 180). -/
def State.notePlan (s : State) (n : Nat) : State :=
  if s.plan n = 0 then s else s.noteBad n 9 (s.devRead n .plain .newest (s.plan n) 0x480)

/-- Pages of a partition's ranges are all mapped. -/
def State.allMapped (s : State) (n base pages : Nat) : Bool :=
  (pageRange base pages).all fun x => eValid (s.entry x) && ePart (s.entry x) == n

/-- Whether two ranges of pages overlap. -/
def overlaps (a m b k : Nat) : Bool := m != 0 && k != 0 && decide (pageOf a < pageOf b + k) && decide (pageOf b < pageOf a + m)

/-- Areas of the vault that hold one of the two newest committed generations of some partition are kept apart by
`newest` (R412, R415): a committed area's commit sequence, checkpoint id, partition and node, as its record gives. -/
structure GenInfo where
  area : Nat
  seq : Nat
  id : Nat
  step : Nat
  part : Nat
  node : Nat
  dirBytes : Nat
  dataBytes : Nat
  deriving DecidableEq, Repr

/-- One step of the CRC-64 of R275, bits taken least significant first. -/
def crc64Bits : Nat → Nat → Nat
  | 0, r => r
  | k + 1, r => crc64Bits k (if r % 2 = 1 then Nat.xor (r / 2) 0xC96C5795D7870F42 else r / 2)
/-- The CRC-64 of R275: polynomial 0x42F0_E1EB_A9EA_3693, initial value zero, no final inversion, least significant bit
first. -/
def crc64 (bs : List Byte) : Nat := bs.foldl (fun r b => crc64Bits 8 (Nat.xor r b.toNat)) 0

/-- Bytes of an area. -/
def Vault.areaBytes (v : Vault) : Nat := v.areaGib * 2 ^ 30
/-- Bytes of the vault at an area's offset. -/
def Vault.bytes (v : Vault) (area off n : Nat) : List Byte := v.media.read (area * v.areaBytes + off) n
/-- A field of an area's commit record. -/
def Vault.recField (v : Vault) (area off n : Nat) : Nat := ofLE (v.bytes area off n)

/-- What an area's commit record says, where the record's own CRC is valid (R411). -/
def Vault.recorded (v : Vault) (area : Nat) : Option GenInfo :=
  let dir := v.recField area 0x28 8
  let data := v.recField area 0x30 8
  if v.recField area 0 4 = 0x56410001 && v.recField area 0xFF8 8 == crc64 (v.bytes area 0 0xFF8)
      && decide (0x1000 + dir + data ≤ v.areaBytes) then
    some { area := area, seq := v.recField area 8 8, id := v.recField area 0x10 4, step := v.recField area 0x18 8
           part := field (v.recField area 0x20 2) 15 12, node := field (v.recField area 0x20 2) 11 0
           dirBytes := dir, dataBytes := data }
  else none

/-- The CRC over a generation's directory and data is valid (R411). -/
def Vault.dataValid (v : Vault) (g : GenInfo) : Bool :=
  v.recField g.area 0x38 8 == crc64 (v.bytes g.area 0x1000 (g.dirBytes + g.dataBytes))

/-- The generation of an area, where it is committed: its commit record's two CRCs are valid (R411). -/
def Vault.generation (v : Vault) (area : Nat) : Option GenInfo := (v.recorded area).filter v.dataValid

/-- The committed generations. -/
def Vault.generations (v : Vault) : List GenInfo := (List.range v.areas).filterMap v.generation
/-- A generation with an uncorrectable codeword is damaged (R406). -/
def Vault.isDamaged (v : Vault) (g : GenInfo) : Bool :=
  v.damaged.any fun w => decide (g.area * v.areaBytes ≤ w * 0x1000 ∧
    w * 0x1000 < g.area * v.areaBytes + 0x1000 + g.dirBytes + g.dataBytes)
/-- The generation of a list with the largest commit sequence. -/
def newestGen : List GenInfo → Option GenInfo
  | [] => none
  | g :: t => match newestGen t with
    | some h => if h.seq > g.seq then some h else some g
    | none => some g
/-- The areas of the two newest committed generations of a partition. -/
def Vault.keptAreas (v : Vault) (n : Nat) : List Nat :=
  let gs := v.generations.filter (·.part == n)
  match newestGen gs with
  | none => []
  | some g => g.area :: (match newestGen (gs.filter (·.area != g.area)) with
    | some h => [h.area]
    | none => [])

/-- A course of the pair axis that is up and whose peer is a node (R272, R373). -/
def State.pairCourse (s : State) (node : Nat) : Bool :=
  [14, 15].any fun c => (s.port c).state == 1 && (s.port c).peer == node

/-- Bytes of a boot slot: a quarter of the flash (R396). -/
def State.slotBytes (s : State) : Nat := s.flash.capacity * 2 ^ 24

/-- Whether a FW_STAGE accepted before command `num` has not completed (R439, R440). -/
def State.staging (s : State) (num : Nat) : Bool :=
  s.hub.accepted.any fun c => c.opcode == 0xC0 && decide (c.number < num)

/-- The granules of a partition in ascending order with no context placed on them, or with no real-time context
(R305). -/
def State.freeGranules (s : State) (n : Nat) (all : Bool) : List Nat :=
  (bitsOf 16 (s.part n).gmask).filter fun i =>
    !((s.part n).ctxs.any fun e => bit e.2.gmask i && (all || e.2.realTime))

/-- Pages of an affinity range held in the HBM3E of a die. -/
def State.affinityOf (s : State) (base pages d : Nat) : Nat :=
  ((pageRange base pages).filter fun x => eValid (s.entry x) && eTier (s.entry x) == d).length

/-- Whether granule `i` ranks above granule `j` for an affinity (R305). -/
def State.outranks (s : State) (n base pages i j : Nat) : Bool :=
  let a := s.affinityOf base pages (i / 4)
  let b := s.affinityOf base pages (j / 4)
  let placed := fun k => ((s.part n).ctxs.filter fun e => bit e.2.gmask k).length
  decide (a > b) || (a == b && (decide (placed i < placed j) || (placed i == placed j && decide (i < j))))

/-- The granules chosen at CONTEXT_CREATE (R305). -/
def State.placement (s : State) (n : Nat) (p : List Byte) : Option Nat :=
  let g := pk p 17 1
  let base := pk p 50 6
  let pages := pk p 56 4
  match field (pk p 16 1) 5 4 with
  | 0 => some (pk p 18 2)
  | 1 =>
    let gs := bitsOf 16 (s.part n).gmask
    some (maskOf (gs.filter fun i => ((gs.filter fun j => s.outranks n base pages j i).length < g)))
  | _ =>
    let a := s.freeGranules n true
    let b := s.freeGranules n false
    if g ≤ a.length then some (maskOf (a.take g))
    else if g ≤ b.length then some (maskOf (b.take g))
    else none

/-- A parameter that failed: its byte offset. -/
def badParam (off : Nat) : Option (Nat × Nat) := some (stBadParam, off)

/-- The rules of CONTEXT_CREATE (R304). -/
def State.createRules (s : State) (f n : Nat) (p : List Byte) : Option (Nat × Nat) :=
  let x := s.part n
  let place := field (pk p 16 1) 5 4
  let g := pk p 17 1
  let mask := pk p 18 2
  let units := if pk p 26 2 = 0 then 0x10000 else pk p 26 2
  let replay := if pk p 32 2 = 0 then 0x10000 else pk p 32 2
  if x.state = 0 then badParam 8
  else if place = 3 || (place = 2 && !bit (pk p 16 1) 0) then badParam 16
  else if g = 0 || g > popcount 16 x.gmask then badParam 17
  else if place = 0 && (mask &&& x.gmask != mask || popcount 16 mask != g) then badParam 18
  else if pk p 24 2 + units > 0x10000 then badParam 24
  else if pk p 30 2 + replay > 0x10000 then badParam 30
  else if pk p 34 6 ≥ 2 ^ 41 then badParam 34
  else if pk p 44 6 ≥ 2 ^ 41 || pk p 44 6 % 0x10000 != 0 then badParam 44
  else if place = 1 && pk p 50 6 ≥ 2 ^ 41 then badParam 50
  else if place = 1 && pk p 50 6 + pk p 56 4 * pageBytes > 2 ^ 41 then badParam 56
  else if f ≥ 2 && bit (pk p 16 1) 0 && (x.ctxs.filter fun e => e.2.realTime && e.2.fromFn == f).length ≥ x.rtQuota then
    some (stSecurity, 0)
  else if x.ctxs.length ≥ 64 then some (stNoResource, 0)
  else if (s.placement n p).isNone then some (stNoResource, 0)
  else none

/-- The rules of MAP_PAGES (R225, R245). -/
def State.mapRules (s : State) (n : Nat) (p : List Byte) : Option (Nat × Nat) :=
  let tier := pk p 17 1 % 8
  let base := pk p 20 6
  let pages := pk p 26 4
  let xs := pageRange base pages
  if bit (pk p 18 1) 0 then
    if base % pageBytes != 0 || base + pages * pageBytes > 2 ^ 41 then badParam 20
    else if pages > 2 ^ 17 then badParam 26
    else none
  else if (s.part n).state = 0 then badParam 16
  else if tier ≥ 6 || 11 ≤ pk p 17 1 / 16 then badParam 17
  else if base % pageBytes != 0 || base + pages * pageBytes > 2 ^ 41 then badParam 20
  else if pages = 0 then badParam 26
  else if xs.any fun x => eValid (s.entry x) || s.foreignWindow n x then badParam 20
  else if tier ≤ 4 && (xs.map (s.framesFor n)).sum > s.tierFree tier then some (stNoResource, 0)
  else none

/-- The rules of UNMAP_PAGES (R226). -/
def State.unmapRules (s : State) (n : Nat) (p : List Byte) : Option (Nat × Nat) :=
  let base := pk p 20 6
  let pages := pk p 26 4
  if base % pageBytes != 0 || base + pages * pageBytes > 2 ^ 41 then badParam 20
  else if pages = 0 then badParam 26
  else if (pageRange base pages).any fun x =>
      let e := s.entry x
      !eValid e || ePart e != n || s.inShadow (x * pageBytes) || decide (eShare e > 1) || s.pinned x then badParam 20
  else none

/-- The rules of COPY (R337). -/
def State.copyRules (s : State) (n : Nat) (p : List Byte) : Option (Nat × Nat) :=
  let fl := pk p 40 1
  if pk p 36 4 = 0 then badParam 36
  else if bit fl 0 && bit fl 1 then badParam 40
  else if bit fl 2 && !s.clusterIn n (counterCluster (pk p 44 4)) then badParam 44
  else none

/-- The rules of LOAD_PROGRAM (R335). -/
def State.loadRules (s : State) (n : Nat) (p : List Byte) : Option (Nat × Nat) :=
  let k := pk p 24 4
  let a := pk p 28 6
  let xs := rangeFrom (pageOf a) (pageOf (a + 64 * k - 1) + 1 - pageOf a)
  if k = 0 || k > 2 ^ 24 then badParam 24
  else if a % 64 != 0 || a + 64 * k > 2 ^ 41 then badParam 28
  else if xs.any fun x => !eValid (s.entry x) || ePart (s.entry x) != n || s.foreignWindow n x
      || s.inWindow n (x * pageBytes) then badParam 28
  else if (s.part n).ctxs.any fun e => e.2.launch.isSome && e.2.cores.any fun c =>
      c.2.progCount != 0 && decide (pageOf c.2.progBase ≤ pageOf (a + 64 * k - 1) ∧
        pageOf a ≤ pageOf (c.2.progBase + 64 * c.2.progCount - 1)) then badParam 0
  else none

/-- The Capo job that is enabled for a context. -/
def State.jobOf (s : State) (n c : Nat) : Option Nat :=
  (List.range 16).find? fun j => let b := s.job j; b.enable && b.part == n && b.ctx == c

/-- The rules of KV_SEQ_OPEN (R145, R147, R166). -/
def State.openRules (s : State) (n : Nat) (p : List Byte) : Option (Nat × Nat) :=
  let heads := pk p 22 1
  let d := 16 * pk p 23 1
  let fmt := pk p 24 1 % 16
  let cc := field (pk p 24 1) 5 4
  let cap := 16 * 2 ^ cc
  let dr := if fmt = 7 then alignUp d 32 else d
  let bits := if fmt = 7 then 4 else 8
  let sc := if fmt = 7 then 2 * heads * cap * dr / 32 else 0
  let decay := f32.decode (pk p 36 4)
  if !s.res.enable then some (stNoResource, 0)
  else if s.res.seqs.any fun q => q.part == n && q.key == pk p 16 4 then badParam 16
  else if pk p 20 2 = 0 || pk p 20 2 > 1024 then badParam 20
  else if heads = 0 || heads > 128 then badParam 22
  else if d = 0 || d > 256 then badParam 23
  else if (fmt != 3 && fmt != 7) || cc = 3 || (fmt = 7 && cap = 16) then badParam 24
  else if decay.isNan || !(Fp.lt .zero decay) || !(Fp.le decay .one) then badParam 36
  else if pk p 40 2 = 0 || pk p 40 2 > 16384 then badParam 40
  else if pk p 42 2 = 0 then badParam 42
  else if pk p 48 6 % 64 != 0 || pk p 48 6 ≥ 2 ^ 41 then badParam 48
  else if pk p 54 6 % 64 != 0 || pk p 54 6 ≥ 2 ^ 41 then badParam 54
  else if 2 * heads * cap * dr * bits / 8 + sc > 520192 then badParam 0
  else if s.res.seqs.length ≥ 65536 then some (stNoResource, 0)
  else none

/-- The rules of SENSOR_CONFIG (R293). -/
def State.sensorRules (s : State) (p : List Byte) : Option (Nat × Nat) :=
  let g := Tab.get {} s.uni.groups (pk p 16 1 % 4)
  let m := pk p 18 1
  let r := pk p 19 1
  let qs := (List.range m).map fun k => pk p (32 + 2 * k) 2 % 16
  let q := fun i => Tab.get ({} : PegQueue) s.peg.queues i
  let refQ := q (pk p (32 + 2 * r) 2 % 16)
  match pk p 17 1 with
  | 0 =>
    if g.active then badParam 16
    else if m = 0 || m > 16 then badParam 18
    else if r ≥ m then badParam 19
    else if qs.any fun i => s.uni.groups.any (fun e => e.2.active && e.2.streams.any (·.1 == i))
        || (q i).part != refQ.part || !(q i).samples.isEmpty || (qs.filter (· == i)).length > 1 then badParam 32
    else none
  | 1 => if g.active then none else badParam 16
  | 2 =>
    if !g.active then badParam 16
    else if !(q (g.streams.getD g.ref (0, false)).1).samples.isEmpty then badParam 0
    else none
  | _ => badParam 17

/-- The rules of SUBMIT_SAMPLES (R282). -/
def State.submitRules (s : State) (n : Nat) (p : List Byte) : Option (Nat × Nat) :=
  let q := Tab.get ({} : PegQueue) s.peg.queues (pk p 16 1 % 16)
  let k := pk p 18 2
  if !q.enable || q.part != n then badParam 16
  else if k = 0 || k > 4096 || (q.failBatch && k > 256) then badParam 18
  else if pk p 44 6 % 64 != 0 || pk p 44 6 ≥ 2 ^ 41 then badParam 44
  else if q.batches.length ≥ 16 then some (stNoResource, 0)
  else none

/-- The rules of PAIR_BIND (R272). -/
def State.bindRules (s : State) (n : Nat) (x : Ctx) (h num : Nat) (p : List Byte) : Option (Nat × Nat) :=
  let node := pk p 16 2 % 2 ^ 12
  let mb := pk p 20 6; let mp := pk p 26 4
  let pb := pk p 30 6; let pp := pk p 36 4
  let pm := pk p 40 6
  let lb := pk p 46 6; let lp := pk p 52 4
  if (s.port 14).state != 1 && (s.port 15).state != 1 then some (stCourseDown, 0)
  else if !s.pairCourse node then badParam 16
  else if pk p 18 1 % 16 != n then badParam 18
  else if mp != 0 && !(s.inWindow n mb && s.inWindow n (mb + mp * pageBytes - 1)) then badParam 20
  else if !s.allMapped n mb mp then badParam 20
  else if !s.allMapped n pb pp then badParam 30
  else if !s.allMapped n pm pp then badParam 40
  else if !s.allMapped n lb lp then badParam 46
  else if overlaps mb mp pb pp || overlaps mb mp pm pp || overlaps mb mp lb lp || overlaps pb pp pm pp
      || overlaps pb pp lb lp || overlaps pm pp lb lp then badParam 0
  else if (s.pair n).state != 0 then badParam 0
  else if s.stepIsOpen x h num then badParam 0
  else none

/-- The rules of SPARE_FILL (R373, R375). -/
def State.fillRules (s : State) (n c : Nat) (x : Ctx) (h num : Nat) (p : List Byte) : Option (Nat × Nat) :=
  let w := pk p 16 2
  let role := pk p 18 1
  let pr := s.pair n
  if role > 1 then badParam 18
  else if x.launch.isSome || s.stepIsOpen x h num || s.plan n = 0 || (s.openCkpt n c).isSome then badParam 0
  else if !s.pairCourse (w % 2 ^ 12) then badParam 16
  else if role = 0 && (!pr.valid || pr.state = 3) then badParam 0
  else if role = 1 && pr.state = 2 && pr.node != w % 2 ^ 12 then badParam 16
  else if s.jobs.fills.any fun f => f.receiver == (role == 1) then some (stNoResource, 0)
  else none

/-- The generations of a partition that an id names: those that are committed, or, where none is, those whose commit record alone is
valid; reading one of these finds the mismatch (R370, R414). -/
def Vault.named (v : Vault) (n id : Nat) : List GenInfo :=
  let mine := fun (g : GenInfo) => g.part == n && (id == 0xFFFFFFFF || g.id == id)
  match v.generations.filter mine with
  | [] => ((List.range v.areas).filterMap v.recorded).filter mine
  | gs => gs

/-- The rules of CHECKPOINT_RESTORE that do not need the generation's content (R370). -/
def State.restoreRules (s : State) (n c : Nat) (x : Ctx) (h num : Nat) (p : List Byte) : Option (Nat × Nat) :=
  let id := pk p 16 4
  let bound := (s.pair n).state != 0 && (s.pair n).ctx == c
  if x.launch.isSome || s.stepIsOpen x h num || bound || s.jobs.fills.any (fun f => f.part == n && f.ctx == c) then badParam 0
  else if (s.vault.named n id).isEmpty then badParam 16
  else none

/-- A vault range crosses no area boundary, ends within the areas and lies in no area that a drain writes (R415). -/
def State.vaultRules (s : State) (write : Bool) (p : List Byte) : Option (Nat × Nat) :=
  let off := pk p 24 8
  let n := pk p 32 4
  let a := s.vault.areaBytes
  if off % 0x1000 != 0 then badParam 24
  else if n % 0x1000 != 0 || n = 0 then badParam 32
  else if a = 0 || off / a != (off + n - 1) / a || off + n > s.vault.areas * a then badParam 24
  else if s.jobs.ckpts.any fun k => k.area == some (off / a) then badParam 24
  else if write && (List.range 16).any fun m => (s.vault.keptAreas m).contains (off / a) then badParam 24
  else none

/-- The parameter and state rules of an opcode (check 8 of R331). `num` is the command's place in the acceptance order. -/
def State.rules (s : State) (f num : Nat) (p : List Byte) : Option (Nat × Nat) :=
  let n := (s.cmdPart p).getD 0
  let h := pkHandle p
  match s.handleCtx h, pkOpcode p with
  | _, 0x10 =>
    let mask := pk p 18 2
    if (s.part n).state != 0 then badParam 16
    else if field (pk p 17 1) 3 1 > 4 then badParam 17
    else if mask = 0 || mask &&& s.boot.granuleOk != mask || (bitsOf 16 mask).any fun i => (s.ownerOf i).isSome then
      badParam 18
    else none
  | _, 0x11 | _, 0x12 => if (s.part n).state = 0 then badParam 16 else none
  | _, 0x20 => s.createRules f n p
  | _, 0x30 => s.mapRules n p
  | _, 0x31 => s.unmapRules n p
  | _, 0x32 => s.copyRules n p
  | _, 0x40 => s.loadRules n p
  | some (_, c, x), 0x41 =>
    if x.launch.isSome then badParam 0
    else if bit (pk p 28 1) 1 then (if (s.jobOf n c).isNone then badParam 28 else none)
    else if pk p 16 6 ≥ 2 ^ 41 then badParam 16
    else if pk p 22 6 ≥ 2 ^ 41 then badParam 22
    else none
  | some (_, _, x), 0x43 => if x.preempted then none else badParam 0
  | some (_, _, x), 0x50 => if s.stepIsOpen x h num then badParam 0 else none
  | some (_, _, x), 0x51 =>
    let n := pk p 16 8
    let begun := (s.hub.accepted.filter fun c => c.opcode == 0x50 && pkHandle c.packet == h).any fun c => pk c.packet 16 8 == n
    if (x.stepOpen && x.step.toNat == n) || begun then none else badParam 16
  | _, 0x60 => s.submitRules n p
  | _, 0x61 => s.sensorRules p
  | _, 0x70 => s.openRules n p
  | _, 0x71 =>
    if !s.res.enable then some (stNoResource, 0)
    else if s.res.seqs.any fun q => q.part == n && q.key == pk p 16 4 then none
    else badParam 16
  | _, 0x72 =>
    if !s.res.enable then some (stNoResource, 0)
    else if !(s.res.seqs.any fun q => q.part == n && q.key == pk p 16 4) then badParam 16
    else if s.res.seqs.any fun q => q.part == n && q.key == pk p 20 4 then badParam 20
    else if pk p 28 6 % 64 != 0 || pk p 28 6 ≥ 2 ^ 41 then badParam 28
    else if pk p 34 6 % 64 != 0 || pk p 34 6 ≥ 2 ^ 41 then badParam 34
    else if s.res.seqs.length ≥ 65536 then some (stNoResource, 0)
    else none
  | some (_, c, _), 0x80 =>
    if s.plan n = 0 || (s.openCkpt n c).isSome || s.filling n then badParam 0
    else if s.planField n 0 8 != h then badParam 8
    else none
  | some (_, c, _), 0x81 =>
    if (s.openCkpt n c).any fun k => k.id == pk p 16 4 then none else badParam 16
  | some (_, c, x), 0x82 => s.restoreRules n c x h num p
  | _, 0x83 => s.vaultRules false p
  | _, 0x84 => s.vaultRules true p
  | some (_, _, x), 0x90 => s.bindRules n x h num p
  | _, 0x91 => if s.parts.any fun e => e.2.ctxs.any fun c => c.2.launch.isSome then badParam 0 else none
  | some (_, c, x), 0x92 => s.fillRules n c x h num p
  | _, 0xA1 => if pk p 24 4 % 64 != 0 then badParam 24 else none
  | _, 0xB0 => if pk p 16 2 < 100 || pk p 16 2 > 2600 then badParam 16 else none
  | _, 0xC0 =>
    if pk p 24 4 < 4096 || pk p 24 4 > s.slotBytes then badParam 24
    else if s.staging num then some (stNoResource, 0)
    else none
  | _, 0xC1 => if s.sec.stageValid && !s.staging num then none else badParam 0
  | _, 0xD0 =>
    if pk p 24 4 < 312 then badParam 24
    else if !s.sec.keyOk || s.boot.stage != 5 then some (stSecurity, 0)
    else none
  | _, 0xD1 =>
    let op := pk p 16 1
    if op > 2 then badParam 16
    else if op < 2 && decide (3 ≤ s.sec.failures) then some (stSecurity, 0)
    else if op = 0 && pk p 32 4 < 64 then badParam 32
    else none
  | _, 0xE0 =>
    let relocks := s.hub.accepted.any fun c => c.opcode == 0xD1 && pk c.packet 16 1 == 2 && decide (c.number < num)
    if s.sec.debug = 1 && !relocks then none else some (stSecurity, 0)
  | _, _ => none

/-- The checks 6 to 8 of R331, which look at what the command finds: its partition, its context, and its opcode's rules. -/
def State.stateCheck (s : State) (f num : Nat) (p : List Byte) : Option (Nat × Nat) :=
  match s.cmdPart p with
  | some n =>
    if (s.part n).state = 2 then some (stAborted, 0)
    else if usesHandle.contains (pkOpcode p) && (s.handleCtx (pkHandle p)).isNone then badParam 8
    else s.rules f num p
  | none => s.rules f num p

/-- The checks of R331 in their order; before them, a virtual function without a partition (R321) and recovery mode
(R383). -/
def State.check (s : State) (f q num : Nat) (p : List Byte) : Option (Nat × Nat) :=
  let op := pkOpcode p
  if f ≥ 2 && (s.part (f - 2)).state = 0 then some (stNoResource, 0)
  else if s.boot.recovery && !([0x01, 0x02, 0xC0, 0xC1, 0xA1].contains op) then some (0xFF, 1)
  else if !opcodes.contains op then some (stBadOpcode, 0)
  else if (f != 0 && (pf0Only.contains op || (op = 0x30 && bit (pk p 18 1) 0))) || (f ≥ 2 && op = 0x12) then
    some (stSecurity, 0)
  else if pkClass p != (s.queue f q).cls then badParam 3
  else if ((op = 0x60 || op = 0x61) && !s.hasPegbox) || (decide (0x80 ≤ op ∧ op ≤ 0x84) && !s.hasVault)
      || (op = 0x30 && pk p 17 1 % 8 = 4 && !bit (pk p 18 1) 0 && !s.hasLpddr) then some (stAbsentUnit, 0)
  else if f ≥ 2 && (s.cmdPart p).any (· != f - 2) then some (stSecurity, 0)
  else s.stateCheck f num p

end Sys2Proof.Machine
end

