-- ==== Sys2Proof/Machine/Hub.lean ====
section
/-! DEFINITION. The hub's command path: fetch, arbitration and acceptance (R323 to R327), queue doorbells and enables
(R325, R344), bus mastering (R343), and the life log's queue (R402). -/

namespace Sys2Proof.Machine

/-! ### Life-log records (R399, R402) -/

/-- Bytes 4 to 59 of a life-log record: kind, wall time, cycles and payload (R399). -/
def logBody (kind wall cycles : Nat) (payload : List Byte) : List Byte :=
  toLE 1 kind ++ toLE 3 0 ++ toLE 8 wall ++ toLE 8 cycles ++ padTo 36 payload

/-- A record joins the queue of 64, or is dropped (R402). A summary takes the
place of an earlier summary that still waits. -/
def State.logRecord (s : State) (kind : Nat) (payload : List Byte) : State :=
  let (k, s) := s.draw
  let r := logBody kind s.flash.wall (Config.hubTime k) payload
  let f := s.flash
  if kind = 1 && f.queue.any (fun x => leAt x 0 1 == 1) then
    { s with flash := { f with queue := f.queue.map fun x => if leAt x 0 1 = 1 then r else x } }
  else if f.queue.length < 64 then { s with flash := { f with queue := f.queue ++ [r] } }
  else { s with flash := { f with dropped := satAdd 16 f.dropped 1, drops := wrapAdd 32 f.drops 1 } }

/-! ### Fetch and acceptance -/

/-- The number of functions. -/
def numFns : Nat := 18

/-- A submission queue is read while its pair runs, its function is a bus master, entries wait and the completion queue
is not full (R323 to R325, R343). -/
def State.readable (s : State) (f q : Nat) : Bool :=
  let x := s.queue f q
  !s.off && x.enable && x.error == 0 && (s.fn f).busMaster && x.sqHead != x.sqTail && !x.cqFull

/-- The next entry of a submission queue. -/
def State.nextEntry (s : State) (f q : Nat) : List Byte :=
  let x := s.queue f q
  s.hostRead (x.sqBase + 64 * x.sqHead) 64

/-- The next entry of a queue may be taken: a fenced one only when every earlier command of its queue has its final
status (R327). -/
def State.takeable (s : State) (f q : Nat) : Bool :=
  s.readable f q && !(pkFence (s.nextEntry f q) && s.hub.accepted.any fun c => c.fn == f && c.queue == q && !c.silent)

/-- The queue that is served next: of the highest class, in round-robin order (R326). -/
def State.nextQueue (s : State) : Option Nat :=
  let qs := (List.range (32 * numFns)).filter fun i => s.takeable (i / 32) (i % 32)
  match (List.range 4).reverse.find? fun c => qs.any fun i => (s.queue (i / 32) (i % 32)).cls == c with
  | none => none
  | some c =>
    let qs := qs.filter fun i => (s.queue (i / 32) (i % 32)).cls == c
    let last := s.hub.lastQueue.getD c (32 * numFns)
    (qs.filter (· > last) ++ qs.filter (· ≤ last)).head?

/-- A command that its checks refuse, or that the control firmware fails: one final status, nothing else (R331). An
INTERNAL enters the life log (R339, R400). -/
def State.refuse (s : State) (f q : Nat) (p : List Byte) (code detail : Nat) : State :=
  let s := s.modFn f fun x => { x with rejected := wrapAdd 32 x.rejected 1 }
  let s := if code = 0xFF then s.logRecord 6 (toLE 2 (pkOpcode p) ++ toLE 2 0 ++ toLE 8 detail) else s
  s.status f q (statusPacket (pkTag p) code q detail true)

/-- One entry is read, checked, and accepted or refused (R326, R330, R331). -/
def State.takeOne (s : State) (f q : Nat) : State :=
  let p := s.nextEntry f q
  let s := s.modQueue f q fun x => { x with sqHead := (x.sqHead + 1) % max 1 x.size }
  let c := (s.queue f q).cls
  let s := { s with hub := { s.hub with
    lastQueue := ((List.range 4).map fun i => s.hub.lastQueue.getD i (32 * numFns)).set c (32 * f + q) } }
  let n := s.hub.nextNumber
  match s.check f q n p with
  | some (code, detail) => s.refuse f q p code detail
  | none =>
    let s := { s with hub := { s.hub with
      nextNumber := n + 1
      accepted := s.hub.accepted ++ [({ number := n, fn := f, queue := q, opcode := pkOpcode p, tag := pkTag p, packet := p } : Cmd)] } }
    let s := s.modFn f fun x => { x with accepted := wrapAdd 32 x.accepted 1 }
    if hasInterim.contains (pkOpcode p) then s.interim n else s

/-- Entries are taken while any may be; `k` bounds their number. -/
def State.takeSome (s : State) : Nat → State
  | 0 => s
  | k + 1 => match s.nextQueue with
    | none => s
    | some i => (s.takeOne (i / 32) (i % 32)).takeSome k

/-- Entries that a submission queue holds. -/
def Queue.waitingEntries (x : Queue) : Nat := (x.sqTail + x.size - x.sqHead) % max 1 x.size

/-- The hub fetches and accepts what it can (R326). -/
def State.hubFetch (s : State) : State :=
  s.takeSome ((s.hub.fns.map fun e => (e.2.queues.map fun q => q.2.waitingEntries).sum).sum)

/-- A host command of an opcode is carried out by its row. DESIGN CHOICE: it has passed every check when it was accepted (R326, R331),
and those that look at its partition, its context and its opcode's rules are made again against the state that its row finds (log 2);
then it has its effect. `f` is the effect. -/
def State.hostCommand (s : State) (n op : Nat) (f : Cmd → State → State) : Host.Outcome State Fault Refusal :=
  if s.off then .next s
  else match s.cmd n with
  | none => .next s
  | some c =>
    if c.opcode != op || c.started then .next s
    else match s.stateCheck c.fn n c.packet with
      | some (code, detail) => .next ((s.finish n code detail).hubFetch)
      | none => .next ((f c (s.modCmd n fun c => { c with started := true })).hubFetch)

/-! ### Doorbells and enables -/

/-- Whether a function answers and has a pair: a virtual function answers while VF Enable is 1 (R341). -/
def State.queueExists (s : State) (f q : Nat) : Bool := decide (f < numFns ∧ q < 32) && (decide (f < 2) || s.hub.vfEnable)

/-- SQ_DOORBELL: the new tail; at or beyond size it is an error; then the hub fetches (R323, R325, R344). -/
def execSqDoorbell (f q value : Nat) (s : State) : Host.Outcome State Fault Refusal :=
  if s.off then .next s else
  let x := s.queue f q
  if !s.queueExists f q || !x.enable then .next s
  else
    let t := field value 11 0
    if t ≥ x.size then .next (s.modQueue f q fun x => { x with error := if x.error = 0 then 1 else x.error })
    else .next ((s.modQueue f q fun x => { x with sqTail := t }).hubFetch)

/-- CQ_DOORBELL: the new head completes the pair's Bridge source, and waiting statuses are written (R324, R325, R352,
R353). -/
def execCqDoorbell (f q value : Nat) (s : State) : Host.Outcome State Fault Refusal :=
  if s.off then .next s else
  let x := s.queue f q
  if !s.queueExists f q || !x.enable then .next s
  else
    let h := field value 11 0
    if h ≥ x.size then .next (s.modQueue f q fun x => { x with error := if x.error = 0 then 1 else x.error })
    else
      let s := s.modQueue f q fun x => { x with cqHead := h }
      let s := if (s.bridge 4).isActive (32 * f + q) then s.completeSource 4 (32 * f + q) else s
      let s := s.flushStatuses f q (s.queue f q).waiting.length
      .next (s.hubFetch.bridgeSettle 4)


/-- The fields of HUB_QCFGq but enable, which a write changes while enable is 0 (R344). -/
def Queue.configure (x : Queue) (value : Nat) : Queue :=
  { x with irqEn := bit value 30, cls := field value 29 28, vector := field value 23 13
           size := field value 12 0 }

/-- Whether queues of a function can be enabled now (R383). -/
def State.mayEnable (s : State) (f : Nat) : Bool := s.boot.stage == 5 || (s.boot.recovery && f == 0)

/-- Both rings of a pair start at entry 0 with phase 1, and statuses that waited for room are written (R324, R344). -/
def State.restartQueue (s : State) (f q : Nat) : State :=
  let s := s.modQueue f q fun x => { x with sqTail := 0, sqHead := 0, cqTail := 0, cqHead := 0, phase := true }
  (s.flushStatuses f q (s.queue f q).waiting.length).bridgeSettle 4

/-- QUEUE_ENABLE: a write of HUB_QCFGq with enable 1 starts the pair, or its rings anew where it runs; the other fields are then not
changed (R325, R344, R383). -/
def execQueueEnable (f q value : Nat) (s : State) : Host.Outcome State Fault Refusal :=
  if s.off then .next s else
  let x := s.queue f q
  if !s.queueExists f q then .next s
  else if x.enable then .next (s.restartQueue f q)
  else
    let y := x.configure value
    if s.mayEnable f && decide (2 ≤ y.size ∧ y.size ≤ 4096) then
      .next ((s.modQueue f q fun _ => { y with enable := true, count := 0, error := 0 }).restartQueue f q)
    else .next ((s.modQueue f q fun _ => y).bridgeSettle 4)

/-- QUEUE_DISABLE: a write of HUB_QCFGq with enable 0 stops the reading of its submission queue (R325, R344). -/
def execQueueDisable (f q value : Nat) (s : State) : Host.Outcome State Fault Refusal :=
  if s.off then .next s else
  let x := s.queue f q
  if !s.queueExists f q then .next s
  else if x.enable then .next ((s.modQueue f q fun x => { x with enable := false }).bridgeSettle 4)
  else .next ((s.modQueue f q fun x => x.configure value).bridgeSettle 4)

/-- BUS_MASTER_DISABLE: no request is issued for the function; waiting statuses are discarded, and host reads in progress
end as under R320 (R343). -/
def execBusMasterDisable (f : Nat) (s : State) : Host.Outcome State Fault Refusal :=
  if s.off then .next s else
  if f < numFns then
    .next (s.modFn f fun x => { x with
      busMaster := false, queues := x.queues.map fun e => (e.1, { e.2 with waiting := [] }) })
  else .next s

/-- BUS_MASTER_ENABLE: command fetch, status writes and MSI-X writes resume (R343). -/
def execBusMasterEnable (f : Nat) (s : State) : Host.Outcome State Fault Refusal :=
  if s.off then .next s else
  if f < numFns then .next ((s.modFn f fun x => { x with busMaster := true }).hubFetch) else .next s

end Sys2Proof.Machine
end

