-- ==== Sys2Proof/Machine/Bow.lean ====
section
/-! DEFINITION. Bow: budget and grants (R417 to R420), gating, frequency steps, current ramp and droops (R421 to R424), heat
(R425 to R427) and the core voltage requests (R455). Readings, demands and draws are measurements: operands. -/

namespace Sys2Proof.Machine

/-- Die `d`'s power control. -/
def State.bowDie (s : State) (d : Nat) : BowDie := Tab.get {} s.bow.dies d
/-- The state with a die's power control changed. -/
def State.modBowDie (s : State) (d : Nat) (f : BowDie → BowDie) : State :=
  { s with bow := { s.bow with dies := Tab.update {} s.bow.dies d f } }
/-- The voltage that a die requests is set. -/
def State.setAvs (s : State) (d mv : Nat) : State := { s with pins := { s.pins with avs := s.pins.avs.set d mv } }

/-- Full-load die draw of a step, in watts (R422). -/
def stepWatts (k : Nat) : Nat := [560, 439, 336, 251].getD k 251
/-- Core voltage request of a step, in millivolts (R422). -/
def stepVolts (k : Nat) : Nat := [750, 700, 650, 600].getD k 600

/-! ### The allocation of R418 -/

/-- The most a die is granted. -/
def dieWant (d : List Nat) (i : Nat) : Nat := min (d.getD i 0) 560

/-- The dies that are granted less than they want, ascending. -/
def openDies (d g : List Nat) : List Nat := (List.range 4).filter fun i => decide (g.getD i 0 < dieWant d i)

/-- One watt to each open die in ascending number while any is left. -/
def oneWattEach : List Nat → Nat → List Nat → List Nat
  | [], _, g => g
  | i :: t, left, g => if left = 0 then g else oneWattEach t (left - 1) (g.set i (g.getD i 0 + 1))

/-- One pass of the loop of R418. -/
def allocateRound (weights : List Nat) (d g : List Nat) (left : Nat) : List Nat :=
  let opened := openDies d g
  let w := fun i => max 1 (weights.getD i 1)
  let ws := (opened.map w).sum
  let g' := opened.foldl (fun h i => h.set i (g.getD i 0 + min (left * w i / ws) (dieWant d i - g.getD i 0))) g
  if g' = g then oneWattEach opened left g else g'

/-- The loop of R418; every pass grants at least a watt, so that as many passes as there are watts suffice. -/
def allocateLoop (weights : List Nat) (budget : Nat) (d : List Nat) : Nat → List Nat → List Nat
  | 0, g => g
  | k + 1, g =>
    let left := budget - g.sum
    if left = 0 || (openDies d g).isEmpty then g
    else allocateLoop weights budget d k (allocateRound weights d g left)

/-- The grants for a budget and six demands (R418), and whether the budget lies below the floors. -/
def Bow.allocate (b : Bow) (budget : Nat) (d : List Nat) : List Nat × Bool :=
  let floors := List.replicate 4 b.dieFloor ++ [b.hubFloor, b.memFloor]
  if budget < floors.sum then (floors, true)
  else
    let left := budget - floors.sum
    let x := min left (min (d.getD 4 0) 180 - b.hubFloor)
    let y := min (left - x) (min (d.getD 5 0) 340 - b.memFloor)
    let g := (floors.set 4 (b.hubFloor + x)).set 5 (b.memFloor + y)
    (allocateLoop b.weights budget d budget g, false)

/-! ### Frequency steps (R422, R455) -/

/-- A die starts to glide down one step. -/
def BowDie.down (x : BowDie) : BowDie := { x with gliding := true, goal := x.step + 1, high := 0, low := 0 }

/-- The periods whose level stayed at or above step_down_level, and those whose level stayed 0, are counted, and a die steps down, or asks
for the voltage of the step above, when R422 says so; a step down withdraws a request that is not confirmed. `draw` is its measured
full-rate draw. -/
def State.stepDie (s : State) (d draw : Nat) : State :=
  let b := s.bow
  let s := s.modBowDie d fun x => { x with
    draw := draw
    high := if b.stepDownLevel ≤ x.gateMin then x.high + 1 else 0
    low := if x.gateMax = 0 then x.low + 1 else 0
    gateMin := x.gate, gateMax := x.gate }
  let x := s.bowDie d
  if x.gliding || !b.enable then s
  else if decide (max 1 b.stepPeriods ≤ x.high) && decide (x.step < 3) then
    let s := if x.asking then s.setAvs d (stepVolts x.step) else s
    s.modBowDie d fun x => { x.down with asking := false }
  else if !x.asking && !x.hot && decide (b.upPeriods ≤ x.low) && x.gate == 0 && decide (0 < x.step)
      && decide (draw * stepWatts (x.step - 1) ≤ b.grants.getD d 0 * stepWatts x.step) then
    (s.modBowDie d fun x => { x with asking := true, goal := x.step - 1, high := 0, low := 0 }).setAvs d (stepVolts (x.step - 1))
  else s

/-- ALERT_N is asserted while any die is hot or the budget lies below the floors (R426). -/
def State.setAlert (s : State) : State :=
  { s with pins := { s.pins with
    alert := s.bow.belowFloor || (List.range 4).any fun d => (s.bowDie d).hot } }

/-- The gating level of a die. -/
def BowDie.setGate (x : BowDie) (k : Nat) : BowDie :=
  { x with gate := k, gateMin := min x.gateMin k, gateMax := max x.gateMax k }

/-- Whether a budget lies below the floors. -/
def Bow.under (b : Bow) (budget : Nat) : Bool := decide (budget < 4 * b.dieFloor + b.hubFloor + b.memFloor)

/-- below_floor, its event and ALERT_N follow the budget and the floors (R418, R426, R432). -/
def State.checkFloor (s : State) : State :=
  let below := s.bow.under s.bow.watts
  ({ s with bow := { s.bow with belowFloor := below, evFloor := s.bow.evFloor || (below && !s.bow.belowFloor) } } : State).setAlert

/-- POWER_BUDGET: it waits for the next grant period (R417). -/
def execPowerBudget (n : Nat) (s : State) : Host.Outcome State Fault Refusal := s.hostCommand n 0xB0 fun _ s => s

/-- GRANT_PERIOD: a new budget takes effect and its commands complete; demands are read and grants issued; the dies
update their frequency steps (R417, R418, R422). While Bow is disabled no grants are issued. -/
def execGrantPeriod (demands draws : List Nat) (s : State) : Host.Outcome State Fault Refusal :=
  if s.off then .next s else
  let budgets := s.hub.accepted.filter (·.opcode == 0xB0)
  let watts := match budgets.getLast? with
    | some c => pk c.packet 16 2
    | none => s.bow.watts
  let s := ({ s with bow := { s.bow with watts := watts } } : State).checkFloor
  let s := s.finishAll (budgets.map (·.number)) stOk 0
  if !s.bow.enable then .next (s.hubFetch)
  else
    let d := (List.range 6).map fun i => demands.getD i 0
    let s := { s with bow := { s.bow with demands := d, grants := (s.bow.allocate watts d).1 } }
    let s := ((List.range 4).filter fun i => !s.dieOff i).foldl (fun s i => s.stepDie i (draws.getD i 0)) s
    .next s.hubFetch

/-- The lowest gating level whose projected draw fits a grant (R421), at most 15. -/
def gateFor (draw grant : Nat) : Nat :=
  ((List.range 16).find? fun k => decide ((16 - k) * draw ≤ 16 * grant)).getD 15

/-- GATING_UPDATE: a die sets its gating level; a grant never lowers that of a hot die (R421, R426). -/
def execGatingUpdate (d draw : Nat) (s : State) : Host.Outcome State Fault Refusal :=
  if s.dieOff d then .next s else
  if d < 4 then
    let k := if s.bow.enable then gateFor draw (s.bow.grants.getD d 0) else 0
    .next (s.modBowDie d fun x => { x.setGate (if x.hot then max x.gate k else k) with draw := draw })
  else .next s

/-- VOLTAGE_CONFIRM: a read-back within 10 mV of the request starts the glide up; another leaves the die as it is (R455).
A die that has become hot takes no step up (R426). -/
def execVoltageConfirm (d mv : Nat) (s : State) : Host.Outcome State Fault Refusal :=
  if s.dieOff d then .next s else
  let x := s.bowDie d
  let v := stepVolts x.goal
  if d < 4 && x.asking && decide (v ≤ mv + 10 ∧ mv ≤ v + 10) then
    .next (s.modBowDie d fun x => { x with asking := false, gliding := true })
  else .next s

/-- GLIDE_COMPLETE: the die runs at its new step; the voltage request follows a step down (R422). -/
def execGlideComplete (d : Nat) (s : State) : Host.Outcome State Fault Refusal :=
  if s.dieOff d then .next s else
  let x := s.bowDie d
  if d < 4 && x.gliding then
    .next ((s.modBowDie d fun x => { x with
      step := x.goal, gliding := false, steps := satAdd 16 x.steps 1 }).setAvs d (stepVolts x.goal))
  else .next s

/-! ### Current ramp and droops -/

/-- RAMP_UPDATE: the permitted number of streaming engines rises by 32 while an engine waits to start a tile because of
it, and falls by 32 while fewer than that many less 32 stream (R423). -/
def execRampUpdate (d : Nat) (s : State) : Host.Outcome State Fault Refusal :=
  if s.dieOff d then .next s else
  if d < 4 then
    let n := s.streamingEngines d
    let waits := s.cores.any fun e => dieOf e.1 == d && e.2.tileReady (s.classF e.1)
    .next (s.modBowDie d fun x => { x with
      streaming := n
      stage := if waits && decide (32 * x.stage ≤ n) then min 8 (x.stage + 1)
        else if n < 32 * x.stage - 32 then max 1 (x.stage - 1) else x.stage })
  else .next s

/-- DROOP: the die halves its arithmetic clock; each response is counted (R424). -/
def execDroop (d : Nat) (s : State) : Host.Outcome State Fault Refusal :=
  if s.dieOff d then .next s else
  if d < 4 && !(s.bowDie d).halved then
    let s := s.modBowDie d fun x => { x with halved := true, droops := wrapAdd 32 x.droops 1 }
    .next { s with lth := { s.lth with droops := s.lth.droops + 1 } }
  else .next s

/-- DROOP_RECOVER: the full rate is restored (R424). -/
def execDroopRecover (d : Nat) (s : State) : Host.Outcome State Fault Refusal :=
  if s.dieOff d then .next s else
  if d < 4 then .next (s.modBowDie d fun x => { x with halved := false }) else .next s

/-! ### Heat -/

/-- The largest reading and the lowest index that has it. -/
def hottest (rs : List Nat) : Nat × Nat :=
  rs.zipIdx.foldl (fun (m : Nat × Nat) (r, i) => if m.2 < r then (i, r) else m) (0, 0)

/-- A die's hot state after a sample (R426). -/
def State.sampleDie (s : State) (d : Nat) (rs : List Nat) : State :=
  let b := s.bow
  let x := s.bowDie d
  if !x.hot && rs.any (fun r => decide (b.tThrottle ≤ r)) then
    let s := s.modBowDie d fun x => { x with
      hot := true, hotEntries := satAdd 16 x.hotEntries 1
      asking := false, goal := if x.asking then x.step else x.goal }
    let s := if x.asking then s.setAvs d (stepVolts x.step) else s
    { s with bow := { s.bow with evHot := true } }
  else if x.hot && rs.all (fun r => decide (r + b.thermHyst < b.tThrottle)) then
    s.modBowDie d fun x => { x with hot := false }
  else s

/-- THERMAL_SAMPLE: every sensor is read, die by die and then the hub (R425). Luthier keeps each die's hottest reading of
its period (R361), and the hottest die's course through 85 °C and 45 °C counts thermal cycles (R400). -/
def execThermalSample (readings : List Nat) (s : State) : Host.Outcome State Fault Refusal :=
  if s.off then .next s else
  let of := fun d => (readings.drop (64 * d)).take 64
  let s := (List.range 4).foldl (fun s d => s.sampleDie d (of d)) s
  let now := (List.range 4).map fun d => hottest (of d)
  let s := { s with lth := { s.lth with
    now := now
    peaks := (s.lth.peaks.zip now).map fun (e : (Nat × Nat) × Nat × Nat) =>
      if e.1.2 < e.2.2 then e.2 else e.1 } }
  let top := (now.map (·.2)).foldl max 0
  let f := s.flash
  let s := { s with flash := { f with
    cold := if top < 180 then true else if 340 < top then false else f.cold
    thermalCycles := if f.cold && decide (340 < top) then wrapAdd 32 f.thermalCycles 1 else f.thermalCycles } }
  .next s.setAlert

/-- HOT_STEP: a hot die steps down one step until step 3, and then gates one level more (R426). -/
def execHotStep (d : Nat) (s : State) : Host.Outcome State Fault Refusal :=
  if s.dieOff d then .next s else
  let x := s.bowDie d
  if d < 4 && x.hot && !x.gliding then
    .next (s.modBowDie d fun x => if x.step < 3 then x.down else x.setGate (min 15 (x.gate + 1)))
  else .next s

/-- THERMTRIP: THERMTRIP_N asserts and every PLL stops (R427), whatever runs, while the package has power. Nothing is logged. -/
def execThermtrip (s : State) : Host.Outcome State Fault Refusal :=
  if !s.boot.powered then .next s else
  .next { s with boot := { s.boot with stopped := true }, pins := { s.pins with thermtrip := true } }

end Sys2Proof.Machine
end

