-- ==== Sys2Proof/Machine/Storage.lean ====
section
/-! DEFINITION. The serial flash, its configuration block and the life log (R395 to R404), and the checkpoint vault's
media (R405 to R416). -/

namespace Sys2Proof.Machine

/-! ### Host transfers of a command (R320, R343) -/

/-- Bytes that a command reads from host memory; none while its function is no bus master. -/
def State.fnRead (s : State) (f a n : Nat) : Option (List Byte) :=
  if (s.fn f).busMaster then some (s.hostRead a n) else none
/-- Bytes that a command writes to host memory; discarded while its function is no bus master. -/
def State.fnWrite (s : State) (f a : Nat) (bs : List Byte) : State :=
  if (s.fn f).busMaster then s.hostWrite a bs else s
/-- A command whose host read has failed ends with ABORTED, detail 1. -/
def State.hostReadFailed (s : State) (n : Nat) : State := s.finish n stAborted 1
/-- A command that cannot go on yet is left to its row. -/
def State.unstart (s : State) (n : Nat) : State := s.modCmd n fun c => { c with started := false, tried := true }

/-! ### CRC-32 (R251, R397, R399) -/

/-- One bit of the CRC-32. -/
def crc32Bits : Nat → Nat → Nat
  | 0, r => r
  | k + 1, r => crc32Bits k (if r % 2 = 1 then Nat.xor (r / 2) 0xEDB88320 else r / 2)
/-- The CRC-32 of IEEE 802.3: polynomial 0x04C1_1DB7. PRESUMED: the manual names the polynomial alone; bit order, initial
value and final inversion are those of IEEE 802.3. -/
def crc32 (bs : List Byte) : Nat :=
  Nat.xor (bs.foldl (fun r b => crc32Bits 8 (Nat.xor r b.toNat)) 0xFFFFFFFF) 0xFFFFFFFF

/-! ### Configuration block (R397, R398) -/

/-- A copy is valid: its magic and its CRC are right. -/
def cfgValid (c : List Byte) : Bool := leAt c 0 4 == 0x4E420001 && leAt c 60 4 == crc32 (c.take 60)
/-- A copy of the configuration block. -/
def Flash.copy (f : Flash) (i : Nat) : List Byte := f.copies.getD i []
/-- The copy in force: the valid one with the larger sequence. -/
def Flash.config (f : Flash) : Option (List Byte) :=
  let a := f.copy 0
  let b := f.copy 1
  if cfgValid a && (!cfgValid b || decide (leAt b 4 4 ≤ leAt a 4 4)) then some a
  else if cfgValid b then some b else none
/-- The active slot that the block names; 0 without a valid copy. -/
def Flash.activeSlot (f : Flash) : Nat := match f.config with
  | some c => leAt c 8 1 % 2
  | none => 0
/-- The node id that the block names; 0 without a valid copy. -/
def Flash.cfgNode (f : Flash) : Nat := match f.config with
  | some c => leAt c 10 2 % 2 ^ 12
  | none => 0

/-- The block is rewritten: into the copy that is invalid or older, with the next sequence (R398). -/
def Flash.rewriteConfig (f : Flash) (slot node : Nat) : Flash :=
  let seq := match f.config with
    | some c => (leAt c 4 4 + 1) % 2 ^ 32
    | none => 1
  let body := toLE 4 0x4E420001 ++ toLE 4 seq ++ toLE 1 slot ++ toLE 1 0 ++ toLE 2 node ++ fill 48 0
  let i := if !cfgValid (f.copy 0) then 0 else if !cfgValid (f.copy 1) then 1
    else if leAt (f.copy 0) 4 4 < leAt (f.copy 1) 4 4 then 0 else 1
  { f with copies := (List.range 2).map fun j => if j = i then body ++ toLE 4 (crc32 body) else f.copy j }

/-! ### The translation layer (R407, R408) -/

/-- The bytes of a metadata copy that its CRC covers. DESIGN CHOICE: the manual gives the copies no layout (log 160). -/
def NandTable.body (t : NandTable) : List Byte :=
  let pairs := fun (l : Tab Nat) => toLE 4 l.length ++ l.flatMap fun e => toLE 4 e.1 ++ toLE 4 e.2
  let blocks := fun (l : List Nat) => toLE 4 l.length ++ l.flatMap (toLE 4)
  toLE 8 t.seq ++ toLE 4 t.base ++ pairs t.map ++ pairs t.erases ++ blocks t.bad ++ blocks t.spares
/-- A copy is valid: its CRC-64 is right. -/
def NandTable.valid (t : NandTable) : Bool := t.crc == crc64 t.body
/-- The metadata in force: the newer valid copy. -/
def Vault.table (v : Vault) : NandTable :=
  (v.tables.filter NandTable.valid).foldl (fun t u => if t.seq ≤ u.seq then u else t) {}
/-- The metadata is changed: the copy that is not in force takes the next sequence number. -/
def Vault.setTable (v : Vault) (t : NandTable) : Vault :=
  let old := v.table
  let t := { t with seq := old.seq + 1 }
  { v with tables := [{ t with crc := crc64 t.body }, old] }

/-- The erase count of a block. -/
def NandTable.count (t : NandTable) (b : Nat) : Nat := t.base + Tab.get 0 t.erases b
/-- A block is erased. -/
def NandTable.erase (t : NandTable) (b : Nat) : NandTable := { t with erases := t.erases.insert b (Tab.get 0 t.erases b + 1) }
/-- The die of a block. -/
def Vault.dieOfBlock (v : Vault) (b : Nat) : Nat := b / max 1 v.dieBlocks
/-- The wear of a die: the erases of its blocks. -/
def Vault.dieWear (v : Vault) (d : Nat) : Nat :=
  ((v.table.erases.filter fun e => v.dieOfBlock e.1 == d).map (·.2)).sum
/-- The blocks that are not retired. -/
def Vault.goodBlocks (v : Vault) : List Nat :=
  (List.range (v.dies * v.dieBlocks)).filter fun b => !v.table.bad.contains b
/-- The blocks that hold no segment and are no spares. -/
def Vault.freeBlocks (v : Vault) : List Nat :=
  v.goodBlocks.filter fun b => !v.table.spares.contains b && !v.table.map.any (·.2 == b)
/-- Of the blocks of a list, the one of the least-worn die with the lowest erase count, the lowest number first among equals. -/
def Vault.freshest (v : Vault) (bs : List Nat) : Option Nat :=
  bs.foldl (fun (best : Option Nat) b => match best with
    | none => some b
    | some c =>
      let (db, dc) := (v.dieWear (v.dieOfBlock b), v.dieWear (v.dieOfBlock c))
      if db < dc || db = dc && v.table.count b < v.table.count c then some b else some c) none
/-- The segment of a vault offset. -/
def Vault.segOf (v : Vault) (off : Nat) : Nat := off / max 1 v.blockBytes
/-- The highest erase count. -/
def Vault.maxErase (v : Vault) : Nat := (v.goodBlocks.map v.table.count).foldl max 0
/-- The lowest erase count. -/
def Vault.minErase (v : Vault) : Nat := (v.goodBlocks.map v.table.count).foldl min v.maxErase

/-- The block that a segment is written to: the free block of the least-worn die with the lowest erase count (R408); with no free block
left, its own. -/
def Vault.blockFor (v : Vault) (seg : Nat) : Option Nat := match v.freshest v.freeBlocks with
  | some b => some b
  | none => Tab.find v.table.map seg

/-- A segment lies in a block, which has been erased for it. -/
def Vault.place (v : Vault) (seg b : Nat) : Vault :=
  let t := v.table.erase b
  v.setTable { t with map := t.map.insert seg b }

/-- The vault changed. -/
def State.modVault (s : State) (f : Vault → Vault) : State := { s with vault := f s.vault }

/-- A block is retired and a spare, if one is left, takes its place (R407, R400). The spare is that of the least-worn die with the
lowest erase count. -/
def State.retireBlock (s : State) (b reason : Nat) : State :=
  let s := s.modVault fun v =>
    let t := v.table
    let spares := match v.freshest t.spares with
      | some x => t.spares.filter (· != x)
      | none => t.spares
    { (v.setTable { t with bad := if t.bad.contains b then t.bad else t.bad ++ [b], spares := spares }) with
      programFails := satAdd 16 v.programFails 1
      evSpares := v.evSpares || decide (10 * spares.length < v.spareAtFormat) && decide (v.spareAtFormat ≤ 10 * t.spares.length) }
  s.logRecord 5 (toLE 4 b ++ toLE 1 reason)

/-- A segment is written to the free block of the least-worn die with the lowest erase count, which is erased first (R408). `fails`
blocks, one after another, fail that erase and are retired. -/
def State.writeSegment (s : State) (seg : Nat) : Nat → State
  | 0 => match s.vault.blockFor seg with
    | some b => s.modVault fun v => v.place seg b
    | none => s
  | k + 1 => match s.vault.blockFor seg with
    | some b => (s.retireBlock b 1).writeSegment seg k
    | none => s

/-! ### The life log (R399 to R404) -/

/-- Slots of a log sector. -/
def logSector : Nat := 1024
/-- Slots of the ring. -/
def Flash.logSlots (f : Flash) : Nat := f.capacity * 2 ^ 18
/-- A record as it stands in the flash: with its sequence number and CRC. -/
def sealRecord (seq : Nat) (body : List Byte) : List Byte :=
  let r := toLE 4 seq ++ padTo 56 body
  r ++ toLE 4 (crc32 r)
/-- A record's CRC is right. -/
def recordValid (r : List Byte) : Bool := r.length == 64 && leAt r 60 4 == crc32 (r.take 60)
/-- The valid records of a log. -/
def Flash.validRecords (f : Flash) : List (Nat × List Byte) := f.log.filter fun e => recordValid e.2

/-- The sequence number that the next erased sector takes. -/
def Flash.nextSector (f : Flash) : Nat :=
  ((f.validRecords.filter fun e => leAt e.2 4 1 == 0).map fun e => leAt e.2 24 4 + 1).foldl max 0

/-- A sector is erased and its kind-0 record written (R400, R403). -/
def Flash.eraseSector (f : Flash) (i wall cycles : Nat) : Flash :=
  let r := sealRecord f.nextSeq (logBody 0 wall cycles (toLE 4 f.nextSector))
  { f with
    log := Tab.insert (i * logSector) r (f.log.filter fun e => e.1 / logSector != i)
    nextSeq := wrapAdd 32 f.nextSeq 1 }

/-- The ring is made ready for a record: the next sector is erased before the last slot of one is used, and a sector
entered at its first slot is given its kind-0 record (R403). -/
def Flash.prepare (f : Flash) (cycles : Nat) : Flash :=
  let n := f.logSlots
  if f.at_ % logSector = 0 then
    let f := if (Tab.find f.log f.at_).any recordValid then f else f.eraseSector (f.at_ / logSector) f.wall cycles
    { f with at_ := f.at_ + 1 }
  else if f.at_ % logSector = logSector - 1 then f.eraseSector ((f.at_ / logSector + 1) % max 1 (n / logSector)) f.wall cycles
  else f

/-- A record is programmed into the next slot of a ring made ready for it. -/
def Flash.store (f : Flash) (r : List Byte) : Flash :=
  { f with
    log := Tab.insert f.at_ (sealRecord f.nextSeq r) f.log, nextSeq := wrapAdd 32 f.nextSeq 1
    at_ := (f.at_ + 1) % max 1 f.logSlots }

/-- LOG_RECORD_WRITE: the oldest waiting record reaches the flash, or its program fails: the slot is torn, the record waits
for the next one (R402, R403, R416). -/
def execLogRecordWrite (ok : Bool) (s : State) : Host.Outcome State Fault Refusal :=
  if s.off then .next s else
  match s.flash.queue with
  | [] => .next s
  | r :: rest =>
    let (k, s) := s.draw
    let f := s.flash.prepare (Config.hubTime k)
    if ok then .next { s with flash := { f.store r with queue := rest } }
    else
      .next { s with flash := { f with
        log := Tab.insert f.at_ (fill 64 0) f.log, at_ := (f.at_ + 1) % max 1 f.logSlots, fail := true } }

/-- LIFE_LOG_SUMMARY: a summary of the lifetime totals joins the queue (R400, R402). -/
def State.logSummary (s : State) : State :=
  let (k, s) := s.draw
  let f := s.flash
  s.logRecord 1 (toLE 8 (f.powerOn + Config.hubTime k / 10 ^ 9) ++ toLE 4 f.thermalCycles ++ toLE 4 f.retrains
    ++ toLE 8 f.corrected ++ toLE 4 f.uncorrected ++ toLE 4 (max f.maxErase s.vault.maxErase) ++ toLE 4 f.drops)

/-- LIFE_LOG_SUMMARY (R400). -/
def execLifeLogSummary (s : State) : Host.Outcome State Fault Refusal :=
  if s.off then .next s else .next s.logSummary

/-- The scan of stage 4 (R403): the next slot follows the valid record with the largest sequence number, torn records are
counted, sectors that are not blank and have no valid kind-0 record are erased again, which writes that record (R400), and totals
continue from the newest valid summary. -/
def Flash.scan (f : Flash) (cycles : Nat) : Flash :=
  let good := f.validRecords
  let last := good.foldl (fun (m : Option (Nat × Nat)) e =>
    match m with
    | none => some (leAt e.2 0 4, e.1)
    | some (q, _) => if q < leAt e.2 0 4 then some (leAt e.2 0 4, e.1) else m) none
  let (seq, at_) := match last with
    | some (q, i) => ((q + 1) % 2 ^ 32, (i + 1) % max 1 f.logSlots)
    | none => (0, 0)
  let torn := f.log.filter fun e => !recordValid e.2 && decide (at_ ≤ e.1) && e.1 / logSector == at_ / logSector
  let headed := fun (i : Nat) => good.any fun g => g.1 == i * logSector && leAt g.2 4 1 == 0
  let kept := f.log.filter fun e => headed (e.1 / logSector)
  let broken := ((f.log.map fun e => e.1 / logSector).filter fun i => !headed i).eraseDups
  let free := ((rangeFrom at_ (logSector - at_ % logSector)).find? fun i => (Tab.find kept i).isNone).getD at_
  let sums := good.filter fun e => leAt e.2 4 1 == 1
  let newest := sums.foldl (fun (m : List Byte) e => if leAt m 0 4 ≤ leAt e.2 0 4 then e.2 else m) []
  let f := { f with
    log := kept, nextSeq := seq, at_ := free, torn := min torn.length 255
    powerOn := leAt newest 24 8, thermalCycles := leAt newest 32 4, retrains := leAt newest 36 4
    corrected := leAt newest 40 8, uncorrected := leAt newest 48 4, maxErase := leAt newest 52 4, drops := leAt newest 56 4 }
  broken.foldl (fun (f : Flash) i => f.eraseSector i f.wall cycles) f

/-- SET_TIME: sets the wall time of the records that follow and writes a calendar record (R401). -/
def execSetTime (n : Nat) (s : State) : Host.Outcome State Fault Refusal :=
  s.hostCommand n 0xA0 fun c s =>
    let s := { s with flash := { s.flash with wall := pk c.packet 16 8 } }
    (s.logRecord 2 (toLE 8 (pk c.packet 16 8) ++ toLE 4 (pk c.packet 24 4))).finish n stOk 0

/-- Records sorted by sequence number. -/
def insertRecord (r : List Byte) : List (List Byte) → List (List Byte)
  | [] => [r]
  | x :: t => if leAt r 0 4 ≤ leAt x 0 4 then r :: x :: t else x :: insertRecord r t

/-- The records that wait, with the sequence numbers that they will take; a sector that is erased on the way takes one too (R403). -/
def Flash.unwritten (f : Flash) : List (List Byte) :=
  (f.queue.foldl (fun (acc : List (List Byte) × Flash) r =>
    let f := acc.2.prepare 0
    (acc.1 ++ [sealRecord f.nextSeq r], f.store r)) ([], f)).1

/-- READ_LIFE_LOG: writes the records from a sequence number on, waiting ones included, in order (R404). -/
def execReadLifeLog (n : Nat) (s : State) : Host.Outcome State Fault Refusal :=
  s.hostCommand n 0xA1 fun c s =>
    let f := s.flash
    let first := pk c.packet 28 4
    let stored := (f.validRecords.map (·.2)).foldr insertRecord []
    let rs := ((stored ++ f.unwritten).filter fun r => decide (first ≤ leAt r 0 4)).take (pk c.packet 24 4 / 64)
    (s.fnWrite c.fn (pk c.packet 16 8) rs.flatten).finish n stOk rs.length

/-! ### The vault's media (R406 to R410, R415) -/

/-- Bytes written to the vault; a codeword that is written whole is damaged no more. -/
def Vault.put (v : Vault) (off : Nat) (bs : List Byte) : Vault :=
  { v with
    media := v.media.write off bs
    damaged := v.damaged.filter fun w => !decide (off ≤ w * 0x1000 ∧ (w + 1) * 0x1000 ≤ off + bs.length) }

/-- An area's commit record is made invalid. -/
def Vault.invalidate (v : Vault) (area : Nat) : Vault :=
  { v with media := v.media.clear (area * v.areaBytes) 0x1000
           damaged := v.damaged.filter fun w => w != area * v.areaBytes / 0x1000 }

/-- Whether a range meets an uncorrectable codeword or a damaged generation (R406). -/
def Vault.unreadable (v : Vault) (off n : Nat) : Bool :=
  v.damaged.any (fun w => decide (off / 0x1000 ≤ w ∧ w < (off + n + 0xFFF) / 0x1000))
  || v.generations.any fun g => v.isDamaged g && decide (off < g.area * v.areaBytes + 0x1000 + g.dirBytes + g.dataBytes)
      && decide (g.area * v.areaBytes < off + n)

/-- Bytes are written to the vault. The open block of the last write goes on where it stands; every other segment met is written to a
fresh block, the erase failures falling on the first of them. -/
def State.programVault (s : State) (off : Nat) (bs : List Byte) (fails : Nat) : State :=
  let v := s.vault
  let first := v.segOf off
  let segs := rangeFrom first (v.segOf (off + bs.length - 1) + 1 - first)
  let segs := if v.progAt != 0 && v.segOf (v.progAt - 1) == first && decide (v.progAt ≤ off) then segs.drop 1 else segs
  let s := match segs with
    | [] => s
    | x :: t => t.foldl (fun (s : State) y => s.writeSegment y 0) (s.writeSegment x fails)
  s.modVault fun v => { v.put off bs with progAt := off + bs.length }

/-! ### Reading (R406) -/

/-- A codeword is uncorrectable: the generation that holds it is damaged, and a record names its id, or, where no generation holds it,
its block (R400, R406). -/
def State.loseCodeword (s : State) (w : Nat) : State :=
  let v := s.vault
  let holder := ((List.range v.areas).filterMap v.recorded).find? fun g =>
    decide (g.area * v.areaBytes ≤ w * 0x1000 ∧ w * 0x1000 < g.area * v.areaBytes + 0x1000 + g.dirBytes + g.dataBytes)
  let what := match holder with
    | some g => g.id
    | none => Tab.get 0 v.table.map (v.segOf (w * 0x1000))
  let s := s.modVault fun v => { v with
    uncorrectable := satAdd 16 v.uncorrectable 1, evMedia := true
    damaged := if v.damaged.contains w then v.damaged else w :: v.damaged }
  s.logRecord 5 (toLE 4 what ++ toLE 1 2)

/-- A read of the vault meets what its row says at the codewords of a range; the answer tells whether a codeword is uncorrectable. -/
def State.readVault (s : State) (off n : Nat) (met : List (Nat × NandRead)) : State × Bool :=
  (met.filter fun e => decide (off / 0x1000 ≤ e.1 ∧ e.1 < (off + n + 0xFFF) / 0x1000)).foldl (fun (acc : State × Bool) e =>
    match e.2 with
    | .decoded _ => acc
    | .retried => (acc.1.modVault fun v => { v with readRetries := satAdd 16 v.readRetries 1 }, acc.2)
    | .uncorrectable => (acc.1.loseCodeword e.1, true)) (s, false)

/-- VAULT_READ: vault bytes to host memory, or VAULT_MEDIA (R406, R415). It waits while the vault is not enabled (R416). -/
def execVaultRead (r : VaultRead) (s : State) : Host.Outcome State Fault Refusal :=
  s.hostCommand r.n 0x83 fun c s =>
    let off := pk c.packet 24 8
    let len := pk c.packet 32 4
    if !s.vault.enable then s.unstart r.n
    else if s.vault.unreadable off len then
      (s.modVault fun v => { v with evMedia := true }).finish r.n stVaultMedia 0
    else
      let (s, lost) := s.readVault off len r.met
      if lost then s.finish r.n stVaultMedia 0
      else
        let s := s.fnWrite c.fn (pk c.packet 16 8) (s.vault.media.read off len)
        (s.modVault fun v => { v with doneMib := len / 2 ^ 20 }).finish r.n stOk 0

/-- VAULT_WRITE: host bytes to the vault; a committed area's record is made invalid first, and an area's first 4 KiB is
written after the other bytes (R415). -/
def execVaultWrite (w : VaultWrite) (s : State) : Host.Outcome State Fault Refusal :=
  s.hostCommand w.n 0x84 fun c s =>
    let off := pk c.packet 24 8
    let len := pk c.packet 32 4
    if !s.vault.enable then s.unstart w.n
    else match s.fnRead c.fn (pk c.packet 16 8) len with
      | none => s.hostReadFailed w.n
      | some bs =>
        let area := off / max 1 s.vault.areaBytes
        let s := if (s.vault.recorded area).isSome then s.modVault fun v => v.invalidate area else s
        ((s.programVault off bs w.eraseFails).modVault fun v => { v with doneMib := len / 2 ^ 20 }).finish w.n stOk 0

/-- Whether a format takes effect: the vault is idle, and at least 3 areas fit (R410, R416). -/
def Vault.canFormat (v : Vault) : Bool := v.state == 0 && v.genGib != 0 && decide (3 ≤ v.usableGib / max 1 v.genGib)

/-- A format's spare blocks: 2 % of each die's blocks (R407). DESIGN CHOICE: rounded down, and the last good ones (log 160). -/
def Vault.newSpares (v : Vault) : List Nat :=
  (List.range v.dies).flatMap fun d => (v.goodBlocks.filter fun b => v.dieOfBlock b == d).reverse.take (2 * v.dieBlocks / 100)

/-- FORMAT: writes VLT_CTRL with format 1: every block is erased, and the vault is divided into areas of gen_gib GiB (R410, R416). -/
def State.formatVault (s : State) : State :=
  if !s.vault.canFormat then s
  else s.modVault fun v =>
    let t := v.table
    let spares := v.newSpares
    { (v.setTable { t with base := t.base + 1, map := [], spares := spares }) with
      media := [], damaged := [], areas := min (v.usableGib / max 1 v.genGib) 0xFFFF, areaGib := v.genGib
      spareAtFormat := spares.length, scrubAt := 0, progAt := 0 }

/-- The segment of the coldest block: the lowest erase count of those that hold one. -/
def Vault.coldest (v : Vault) : Option Nat :=
  (v.table.map.foldl (fun (best : Option (Nat × Nat)) e => match best with
    | some b => if v.table.count e.2 < v.table.count b.2 then some e else some b
    | none => some e) none).map (·.1)

/-- WEAR_LEVEL_MOVE: in an idle interval, while the highest and the lowest erase count differ by more than 200, the segment of the
coldest block moves to a fresh one (R408). -/
def execWearLevelMove (s : State) : Host.Outcome State Fault Refusal :=
  if s.off then .next s else
  if s.hasVault && s.vault.state == 0 && decide (200 < s.vault.maxErase - s.vault.minErase) then
    match s.vault.coldest with
    | some seg => .next (s.writeSegment seg 0)
    | none => .next s
  else .next s

/-- The codewords of a generation: its first, and the one after its last. -/
def Vault.codewords (v : Vault) (g : GenInfo) : Nat × Nat :=
  let first := g.area * v.areaBytes / 0x1000
  (first, first + ceilDiv (0x1000 + g.dirBytes + g.dataBytes) 0x1000)

/-- The codeword that a patrol reads next from a place on: the first of the committed generations, in the order of their areas. -/
def patrolAt (v : Vault) (w : Nat) : Option Nat :=
  v.generations.findSome? fun g =>
    let (a, b) := v.codewords g
    if w < b then some (max a w) else none

/-- The patrol goes to a place; where no codeword lies from there on, the pass has ended. -/
def Vault.patrolTo (v : Vault) (w : Nat) : Vault :=
  if (patrolAt v w).isSome then { v with scrubAt := w } else { v with scrubAt := 0, passes := wrapAdd 16 v.passes 1 }

/-- VAULT_SCRUB: the patrol reads the next codeword of the committed generations; one that needs a retry, or more than refresh_thr
corrected bits, has its segment rewritten (R406, R409). -/
def execVaultScrub (met : NandScrub) (s : State) : Host.Outcome State Fault Refusal :=
  if s.off then .next s else
  if !s.hasVault || !s.vault.scrubEn || s.vault.scrubGap = 0 || s.vault.generations.isEmpty then .next s
  else
    let s := s.modVault fun v => v.patrolTo v.scrubAt
    match patrolAt s.vault s.vault.scrubAt with
    | none => .next s
    | some w =>
      let (s, _) := (s.modVault fun v => v.patrolTo (w + 1)).readVault (w * 0x1000) 0x1000 [(w, met.read)]
      let refresh := match met.read with
        | .decoded bits => decide (s.vault.refreshThr < bits)
        | .retried => true
        | .uncorrectable => false
      if refresh then
        .next ((s.modVault fun v => { v with refreshes := satAdd 16 v.refreshes 1 }).writeSegment (s.vault.segOf (w * 0x1000)) met.eraseFails)
      else .next s

end Sys2Proof.Machine
end

