-- ==== Sys2Proof/Machine/Pegbox.lean ====
section
/-! DEFINITION. Pegbox decoding and Unison alignment (11): batches, the reorder window, the conversion chain, emission, and
sets of sensor samples. -/

namespace Sys2Proof.Machine

/-! ### Layouts -/

namespace PegSample
/-- aug_key. -/
def augKey (x : PegSample) : Nat := leAt x.desc 0 6
/-- codec. -/
def codec (x : PegSample) : Nat := leAt x.desc 6 1
/-- bs_addr. -/
def bsAddr (x : PegSample) : Nat := leAt x.desc 8 8
/-- bs_len. -/
def bsLen (x : PegSample) : Nat := leAt x.desc 16 4
/-- skip. -/
def skip (x : PegSample) : Nat := leAt x.desc 20 2
/-- frames. -/
def frames (x : PegSample) : Nat := leAt x.desc 22 2
/-- frame_step. -/
def step (x : PegSample) : Nat := leAt x.desc 24 1
/-- raw_fmt. -/
def rawFmt (x : PegSample) : Nat := leAt x.desc 25 1
/-- raw_w. -/
def rawW (x : PegSample) : Nat := leAt x.desc 26 2
/-- raw_h. -/
def rawH (x : PegSample) : Nat := leAt x.desc 28 2
/-- out_addr. -/
def outAddr (x : PegSample) : Nat := leAt x.desc 32 6
/-- ts, in nanoseconds (R293). -/
def ts (x : PegSample) : Nat := leAt x.desc 38 6 * 10 ^ 9 + leAt x.desc 44 4
end PegSample

/-- A descriptor whose codes and counts R281 allows. -/
def sampleOk (b : List Byte) : Bool :=
  let codec := leAt b 6 1
  decide (codec ≤ 5) && (codec != 0 || decide (leAt b 25 1 ≤ 6)) && (codec != 5 || decide (leAt b 25 1 ≤ 4))
    && leAt b 16 4 != 0 && decide (leAt b 20 2 ≤ 4095) && decide (1 ≤ leAt b 22 2 ∧ leAt b 22 2 ≤ 256)
    && decide (1 ≤ leAt b 24 1 ∧ leAt b 24 1 ≤ 16) && leAt b 32 6 % 64 == 0 && decide (leAt b 32 6 < 2 ^ 41)
    && decide (leAt b 44 4 < 10 ^ 9)

/-- A parameter block whose codes and counts R284 allows. -/
def paramsOk (b : List Byte) : Bool :=
  [1, 3, 4].contains (leAt b 0 1 % 16) && decide (leAt b 12 2 ≤ leAt b 8 2) && decide (leAt b 14 2 ≤ leAt b 10 2)
    && decide (1 ≤ leAt b 16 2 ∧ leAt b 16 2 ≤ 8192) && decide (1 ≤ leAt b 18 2 ∧ leAt b 18 2 ≤ 8192)
    && decide (1 ≤ leAt b 0x1C 1 ∧ leAt b 0x1C 1 ≤ 16)

namespace PegBatch
/-- out_fmt. -/
def outFmt (b : PegBatch) : Fmt := (Fmt.ofCode (leAt b.params 0 1 % 16)).getD .bf16
/-- layout 1: planar. -/
def planar (b : PegBatch) : Bool := bit (leAt b.params 0 1) 4
/-- resize: area. -/
def area (b : PegBatch) : Bool := bit (leAt b.params 0 1) 5
/-- colour. -/
def colour (b : PegBatch) : Nat := field (leAt b.params 0 1) 7 6
/-- Full range. -/
def fullRange (b : PegBatch) : Bool := bit (leAt b.params 1 1) 0
/-- The number of channels kept. -/
def channels (b : PegBatch) : Nat := if bit (leAt b.params 1 1) 1 then 1 else 3
/-- aug. -/
def aug (b : PegBatch) : Nat := leAt b.params 2 1
/-- out_w. -/
def outW (b : PegBatch) : Nat := leAt b.params 0x10 2
/-- out_h. -/
def outH (b : PegBatch) : Nat := leAt b.params 0x12 2
/-- rch. -/
def rch (b : PegBatch) : Nat := max 1 (leAt b.params 0x1C 1)
/-- mean[c]. -/
def mean (b : PegBatch) (c : Nat) : Fp := f32.decode (leAt b.params (0x40 + 4 * c) 4)
/-- inv_std[c]. -/
def invStd (b : PegBatch) (c : Nat) : Fp := f32.decode (leAt b.params (0x80 + 4 * c) 4)
/-- Bytes of one output element. -/
def elemBytes (b : PegBatch) : Nat := b.outFmt.width / 8
/-- Bytes of one stored pixel (R123): up to three channels fit the channel quantum, so it takes one unit. -/
def pixelBytes : Nat := 64
/-- Row pitch of a plane (R286). -/
def planePitch (b : PegBatch) : Nat := alignUp (b.outW * b.elemBytes) 64
/-- Bytes of one frame, or record, of a sample's output (R286). -/
def frameBytes (b : PegBatch) (x : PegSample) : Nat :=
  if x.codec = 5 then alignUp (x.rawW * b.elemBytes) 64
  else if b.planar then b.channels * b.outH * b.planePitch
  else b.outH * b.outW * pixelBytes
end PegBatch

/-! ### Queues -/

/-- Queue `q` of Pegbox. -/
def State.pegQueue (s : State) (q : Nat) : PegQueue := Tab.get {} s.peg.queues q
/-- A queue changed. -/
def State.modPegQueue (s : State) (q : Nat) (f : PegQueue → PegQueue) : State :=
  { s with peg := { s.peg with queues := Tab.update {} s.peg.queues q f } }
/-- A sample changed. -/
def State.modSample (s : State) (q serial : Nat) (f : PegSample → PegSample) : State :=
  s.modPegQueue q fun x => { x with samples := x.samples.map fun y => if y.serial = serial then f y else y }
/-- A sample of a queue. -/
def PegQueue.sample (x : PegQueue) (serial : Nat) : Option PegSample := x.samples.find? (·.serial == serial)
/-- The batch of a serial. -/
def PegQueue.batchOf (x : PegQueue) (serial : Nat) : Option PegBatch :=
  x.batches.find? fun b => decide (b.first ≤ serial ∧ serial < b.first + b.count)
/-- Occupied slots of the window (R287). -/
def PegQueue.occupancy (x : PegQueue) : Nat := (x.samples.filter (·.state != .waiting)).length
/-- The sample that a pipe holds: its queue and serial. -/
def State.inPipe (s : State) (p : Nat) : Option (Nat × PegSample) :=
  (List.range 16).findSome? fun q => ((s.pegQueue q).samples.find? fun x => x.state == .pipe p).map fun x => (q, x)

/-- The active group that a queue belongs to, and its stream index (R293). -/
def State.uniGroupOf (s : State) (q : Nat) : Option (Nat × Nat) :=
  (List.range 4).findSome? fun g =>
    let x := Tab.get ({} : UniGroup) s.uni.groups g
    if x.active then ((List.range x.streams.length).find? fun k => (x.streams.getD k (16, false)).1 == q).map fun k => (g, k)
    else none
/-- A group changed. -/
def State.modGroup (s : State) (g : Nat) (f : UniGroup → UniGroup) : State :=
  { s with uni := { s.uni with groups := Tab.update {} s.uni.groups g f } }
/-- UNI_SCNTn changed. -/
def State.modUniCnt (s : State) (q : Nat) (f : UniCnt → UniCnt) : State :=
  { s with uni := { s.uni with counts := Tab.update {} s.uni.counts q f } }
/-- The queue is the reference of a group. -/
def State.isReference (s : State) (q : Nat) : Bool :=
  match s.uniGroupOf q with
  | some (g, k) => (Tab.get ({} : UniGroup) s.uni.groups g).ref == k
  | none => false
/-- What Unison keeps of a queue's sample, changed. -/
def State.modUniSample (s : State) (q serial : Nat) (f : UniSample → UniSample) : State :=
  match s.uniGroupOf q with
  | none => s
  | some (g, k) => s.modGroup g fun x => { x with
      samples := x.samples.modify k fun l => l.map fun y => if y.serial = serial then f y else y }

/-- Bytes of a status entry (R289, R297). -/
def State.entryBytes (s : State) (q : Nat) : Nat := if s.isReference q then 128 else 4
/-- Bytes written by Pegbox; a refusal is recorded with source 8 (R229), and a write to a page that moves or drains waits (R228). -/
def State.pegWrite (s : State) (n a : Nat) (bs : List Byte) : State := s.hubWrite n 8 .plain a bs
/-- A write of Pegbox for a partition still waits, or one to these bytes waits for the host to give up a line. -/
def State.pegWaits (s : State) (n a len : Nat) : Bool := (s.frt.late.any fun w => w.part == n && w.source == 8) || s.heldIn a len
/-- A sample's status entry is written (R289). -/
def State.pegEntry (s : State) (q serial mask reason : Nat) (tail : List Byte) : State :=
  let x := s.pegQueue q
  match x.batchOf serial with
  | none => s
  | some b => s.pegWrite x.part (b.record + 0x40 + s.entryBytes q * (serial - b.first)) (toLE 2 mask ++ toLE 1 reason ++ toLE 1 0 ++ tail)
/-- The head of a batch record is written (R289). -/
def State.writeHead (s : State) (q : Nat) (b : PegBatch) (status : Nat) : State :=
  s.pegWrite (s.pegQueue q).part b.record
    (toLE 1 status ++ toLE 1 0 ++ toLE 2 b.count ++ toLE 2 b.voids ++ toLE 2 0 ++ toLE 8 b.first ++ fill 48 0)

/-- A void sample is counted by its reason (R290, R299). -/
def State.countVoid (s : State) (q reason : Nat) : State :=
  let s := s.modPegQueue q fun x => { x with voids := satAdd 16 x.voids 1 }
  let p := s.peg
  { s with peg := match reason with
    | 1 => { p with bitstream := satAdd 16 p.bitstream 1 }
    | 2 => { p with unsupported := satAdd 16 p.unsupported 1 }
    | 3 => { p with timeouts := satAdd 16 p.timeouts 1 }
    | _ => { p with other := satAdd 16 p.other 1 } }

/-- An extent is written as +0 as far as it can be written, page by page (R290). -/
def State.zeroExtent (s : State) (n a len : Nat) : State :=
  (pieces a len).foldl (fun (s : State) (b, m) => s.pegWrite n b (fill m 0)) s

/-- A sample becomes void: its extent is zeroed, and it is counted (R290). -/
def State.voidSample (s : State) (q : Nat) (x : PegSample) (reason pipe : Nat) : State :=
  let n := (s.pegQueue q).part
  let s := match (s.pegQueue q).batchOf x.serial with
    | some b => s.zeroExtent n x.outAddr (x.frames * b.frameBytes x)
    | none => s
  let s := s.countVoid q reason
  let s := if reason = 4 || reason = 5 then
      { s with peg := { s.peg with err := match s.peg.err with
        | some e => some e
        | none => some (reason, q, pipe, x.serial) } }
    else s
  let s := s.modUniSample q x.serial fun y => { y with isVoid := true }
  let s := s.modSample q x.serial fun x => { x with state := .ready, reason := reason }
  if s.isReference q then s else s.pegEntry q x.serial 0 reason []

/-- A valid sample's output has been written. -/
def State.validSample (s : State) (q serial : Nat) : State :=
  let s := s.modSample q serial fun x => { x with state := .ready, reason := 0 }
  if s.isReference q then s else s.pegEntry q serial 1 0 []

/-- Samples enter the window in serial order while a slot is free (R287). A sample out of timestamp order is void (R295).
`k` bounds them. -/
def State.fillWindow (s : State) (q : Nat) : Nat → State
  | 0 => s
  | k + 1 =>
    let x := s.pegQueue q
    match x.samples.find? (·.state == .waiting) with
    | none => s.modPegQueue q fun x => { x with full := x.full && x.occupancy == 256 }
    | some y =>
      if !s.peg.enable then s
      else if 256 ≤ x.occupancy then s
      else
        let s := s.modSample q y.serial fun y => { y with state := .window }
        let s := if y.reason = 6 then s.voidSample q y 6 0 else s
        let s := if (s.pegQueue q).occupancy = 256 then
            s.modPegQueue q fun x => { x with full := true, windowFull := satAdd 8 x.windowFull 1 }
          else s
        s.fillWindow q k

/-- Every queue's window fills. -/
def State.fillWindows (s : State) : State :=
  (List.range 16).foldl (fun (s : State) q => s.fillWindow q 257) s

/-! ### Commands (R282, R293) -/

/-- A sample joins its queue, and its group's streams (R295). -/
def State.joinSample (s : State) (q : Nat) (desc : List Byte) : State :=
  let x := s.pegQueue q
  let serial := x.cursor + x.samples.length
  let y : PegSample := { serial := serial, desc := desc }
  match s.uniGroupOf q with
  | none => s.modPegQueue q fun x => { x with samples := x.samples ++ [y] }
  | some (g, k) =>
    let late := decide (y.ts < x.lastTs)
    let s := s.modPegQueue q fun x => { x with
      samples := x.samples ++ [{ y with reason := if late then 6 else 0 }], lastTs := y.ts }
    let s := if late then s.modUniCnt q fun c => { c with orderVoids := satAdd 16 c.orderVoids 1 } else s
    s.modGroup g fun u => { u with samples := u.samples.modify k fun l =>
      l ++ [({ serial := serial, ts := y.ts, orderVoid := late, isVoid := late } : UniSample)] }

/-- SUBMIT_SAMPLES: the descriptor list and the parameter block are read, and the batch joins its queue (R281, R282). -/
def execSubmitSamples (n : Nat) (s : State) : Host.Outcome State Fault Refusal :=
  s.hostCommand n 0x60 fun c s =>
    let p := c.packet
    let q := pk p 16 1 % 16
    let count := pk p 18 2
    match s.fnRead c.fn (pk p 20 8) (64 * count), s.fnRead c.fn (pk p 28 8) 192 with
    | some list, some params =>
      let ds := (List.range count).map fun i => (list.drop (64 * i)).take 64
      if !ds.all sampleOk then s.finish n stBadParam 20
      else if !paramsOk params then s.finish n stBadParam 28
      else
        let x := s.pegQueue q
        let b : PegBatch := { first := x.cursor + x.samples.length, count := count, record := pk p 44 6, params := params
                              seed := BitVec.ofNat 64 (pk p 36 8), fn := c.fn }
        let s := s.modPegQueue q fun x => { x with batches := x.batches ++ [b] }
        let s := s.writeHead q b 0
        let s := ds.foldl (fun (s : State) d => s.joinSample q d) s
        (s.fillWindow q 257).finish n stAccepted 0
    | _, _ => s.hostReadFailed n

/-- A group is formed (R293). -/
def formGroup (p : List Byte) (x : UniGroup) : UniGroup :=
  let m := pk p 18 1
  { x with
    active := true, ref := pk p 19 1, tol := pk p 20 4, ended := 0
    streams := (List.range m).map fun k => (pk p (32 + 2 * k) 2 % 16, bit (pk p (32 + 2 * k) 2) 4)
    samples := List.replicate m [] }

/-- Samples of a stream that serve no set any more are counted. -/
def State.countUnused (s : State) (q : Nat) (l : List UniSample) : State :=
  s.modUniCnt q fun c => { c with unused := satAdd 16 c.unused (l.filter fun y => !y.chosen && !y.spent).length }

/-- A group is dissolved. -/
def State.dissolve (s : State) (g : Nat) : State :=
  let x := Tab.get ({} : UniGroup) s.uni.groups g
  let s := (x.streams.zip x.samples).zipIdx.foldl (fun (s : State) (e : ((Nat × Bool) × List UniSample) × Nat) =>
    if e.2 = x.ref then s else s.countUnused e.1.1.1 e.1.2) s
  s.modGroup g fun x => { x with active := false, samples := [] }

/-- SENSOR_CONFIG: forms a group, ends streams, or dissolves a group (R293). -/
def execSensorConfig (n : Nat) (s : State) : Host.Outcome State Fault Refusal :=
  s.hostCommand n 0x61 fun c s =>
    let p := c.packet
    let g := pk p 16 1 % 4
    let s := match pk p 17 1 with
      | 0 =>
        let s := s.modGroup g (formGroup p)
        (Tab.get ({} : UniGroup) s.uni.groups g).streams.foldl (fun (s : State) (e : Nat × Bool) =>
          s.modPegQueue e.1 fun x => { x with lastTs := 0 }) s
      | 1 => s.modGroup g fun x => { x with ended := x.ended ||| pk p 24 2 }
      | _ => s.dissolve g
    s.finish n stOk 0

/-! ### The conversion chain (R283 to R286) -/

/-- The 32 bits of an augmentation draw (R285). -/
def augDraw (b : PegBatch) (x : PegSample) (kind draw : Nat) : Nat :=
  let d : DrawAt := { tensor := x.augKey % 2 ^ 32, tileRow := x.augKey / 2 ^ 32, tileCol := kind, purpose := 6, draw := draw }
  (srhash b.seed d.counter).toNat % 2 ^ 32

/-- The number of frames that must be decoded for those that are kept. -/
def PegSample.needed (x : PegSample) : Nat := x.skip + (x.frames - 1) * x.step + 1
/-- The kept ones of a list of frames (stage 1). -/
def PegSample.kept {α : Type} (x : PegSample) (l : List α) : List α :=
  (List.range x.frames).filterMap fun k => l[x.skip + k * x.step]?

/-- Codes of a plane read from bytes. -/
def rawCodes (bs : List Byte) (off bytes bits n stride : Nat) : List Nat :=
  (List.range n).map fun i => leAt bs (off + i * stride) bytes % 2 ^ bits

/-- The planes of a frame of an uncompressed format (R281): bytes of a frame, depth, chroma, and its codes. -/
def rawFrame (fmt w h : Nat) : Nat × Nat × Nat :=
  let cw := (w + 1) / 2
  match fmt with
  | 0 => (3 * w * h, 8, 3)
  | 1 => (6 * w * h, 16, 3)
  | 2 => (w * h + 2 * (cw * ((h + 1) / 2)), 8, 1)
  | 3 => (2 * (w * h + 2 * (cw * ((h + 1) / 2))), 10, 1)
  | 4 => (2 * (w * h + 2 * (cw * h)), 10, 2)
  | 5 => (6 * w * h, 16, 3)
  | _ => (2 * w * h, 16, 0)

/-- The codes of a frame of an uncompressed format, plane after plane. -/
def rawPlanes (fmt w h : Nat) (bs : List Byte) : List Nat :=
  let n := w * h
  let (len, depth, _) := rawFrame fmt w h
  match fmt with
  | 0 => (List.range 3).flatMap fun c => rawCodes bs c 1 8 n 3
  | 1 => (List.range 3).flatMap fun c => rawCodes bs (2 * c) 2 16 n 6
  | 2 => rawCodes bs 0 1 8 len 1
  | _ => rawCodes bs 0 2 depth (len / 2) 2

/-- The pictures of an uncompressed sample, where its bitstream holds enough frames. -/
def rawPictures (x : PegSample) (bs : List Byte) : Option Pictures :=
  let (len, depth, chroma) := rawFrame x.rawFmt x.rawW x.rawH
  if len = 0 || bs.length < x.needed * len then none
  else some { w := x.rawW, h := x.rawH, depth := depth, chroma := chroma
              rgb := decide (x.rawFmt ≤ 1)
              frames := (List.range x.needed).map fun i => rawPlanes x.rawFmt x.rawW x.rawH ((bs.drop (i * len)).take len) }

/-- The code of component `c` of a pixel of a frame (stage 2): chroma upsampled by nearest, co-sited. -/
def picCode (p : Pictures) (f : List Nat) (c i j : Nat) : Option Nat :=
  let n := p.w * p.h
  if c = 0 then some (f.getD (j * p.w + i) 0)
  else
    let cw := if p.chroma = 3 then p.w else (p.w + 1) / 2
    let ch := if p.chroma = 1 then (p.h + 1) / 2 else p.h
    let ci := if p.chroma = 3 then i else i / 2
    let cj := if p.chroma = 1 then j / 2 else j
    if p.chroma = 0 then none else some (f.getD (n + (c - 1) * (cw * ch) + cj * cw + ci) 0)

/-- The FP32 bits of the components of a pixel after stage 2. -/
def picPixel (p : Pictures) (b : PegBatch) (f : List Nat) (i j : Nat) : List (BitVec 32) :=
  let comp := fun (c : Nat) =>
    if p.w ≤ i || p.h ≤ j then Config.pixel 1 c i j
    else match picCode p f c i j with
      | some k => BitVec.ofNat 32 (f32.encode .rne false 0 (Fp.div (Fp.ofInt k) (Fp.ofInt (2 ^ p.depth - 1))))
      | none => Config.pixel 0 c i j
  let x := (comp 0, comp 1, comp 2)
  let y := if b.colour = 0 || p.rgb then x else Config.colour b.colour b.fullRange p.depth x.1 x.2.1 x.2.2
  [y.1, y.2.1, y.2.2].take b.channels

/-- Stages 3 and 4: the source column, or row, of pixel `i` of the cropped and mirrored picture, and its size. -/
def cropOf (b : PegBatch) (x : PegSample) : Nat × Nat × Nat × Nat :=
  let cx := leAt b.params 4 2; let cy := leAt b.params 6 2
  let cw := leAt b.params 8 2; let ch := leAt b.params 10 2
  let rw := leAt b.params 12 2; let rh := leAt b.params 14 2
  if bit b.aug 0 then
    (cx + augDraw b x 0 0 * (cw - rw + 1) / 2 ^ 32, cy + augDraw b x 0 1 * (ch - rh + 1) / 2 ^ 32, rw, rh)
  else (cx, cy, cw, ch)

/-- Whether a sample is mirrored (R285). -/
def flips (b : PegBatch) (x : PegSample) : Bool := bit b.aug 1 && decide (augDraw b x 1 0 / 2 ^ 24 < leAt b.params 3 1)

/-- The gain of a sample, where aug asks for one (R285). -/
def gainOf (b : PegBatch) (x : PegSample) : Option Fp :=
  if bit b.aug 2 then
    let lo := f32.decode (leAt b.params 0x14 4)
    let hi := f32.decode (leAt b.params 0x18 4)
    let u : Fp := .fin false (augDraw b x 2 0 % 2 ^ 24) (-24)
    some (rne32 (lo.add (rne32 ((rne32 (hi.sub lo)).mul u))))
  else none

/-- Stages 6 to 8 of one value of a channel: the code in out_fmt. -/
def finishValue (b : PegBatch) (gain : Option Fp) (c : Nat) (v : Fp) : Nat :=
  let v := match gain with
    | some g => rne32 (v.mul g)
    | none => v
  convert b.outFmt .rne true 0 (rne32 ((rne32 (v.sub (b.mean c))).mul (b.invStd c)))

/-- border_index of R132 under REPLICATE. -/
def replicateIndex (p : Int) (n : Nat) : Nat := min p.toNat (n - 1)

/-- The taps of output position `i` of an axis that is resized from `n` to `m`, with their weights, and the whole of the weights
(stage 5). Bilinear: with half-pixel centres, position `i` lies at `(2 i + 1) n / (2 m) - 1 / 2`, between two taps. Area: each source
position weighs as much as it shares with the output position. -/
def resizeTaps (area : Bool) (n m i : Nat) : List (Nat × Nat) × Nat :=
  let all := if area then
      (List.range n).map fun k => (k, min ((i + 1) * n) ((k + 1) * m) - max (i * n) (k * m))
    else
      let a : Int := ((2 * i + 1) * n : Nat) - (m : Int)
      let q := a / (2 * m : Nat)
      let r := (a % (2 * m : Nat)).toNat
      [(replicateIndex q n, 2 * m - r), (replicateIndex (q + 1) n, r)]
  (all.filter (·.2 != 0), if area then n else 2 * m)

/-- The weighted mean of an output pixel's taps, where its value does not depend on the order in which the operations of the mean are
rounded: where the whole weight is a power of two and every partial sum is exact, or where it is the half of a sum of two. -/
def plainBlend (whole : Nat) (taps : List (Nat × BitVec 32)) : Option (BitVec 32) :=
  let d := taps.foldl (fun g t => Nat.gcd g t.1) whole
  let vs := taps.map fun t => (t.1 / d, f32.decode t.2.toNat)
  let n := Nat.log2 (whole / d)
  let low : Int := vs.foldl (fun (l : Int) t => match t.2 with
    | .fin _ m e => if m = 0 then l else min l (e + (Nat.log2 (Nat.gcd m (2 ^ 24)) : Int))
    | _ => l) 128
  let total : Nat := (vs.map fun t => match t.2 with
    | .fin _ m e => if m = 0 then 0 else t.1 * (m * 2 ^ (e - low + 24).toNat / 2 ^ 24)
    | _ => 0).sum
  let plain := vs.all fun t => match t.2 with
    | .fin neg m _ => !(neg && m == 0)
    | _ => false
  let half := match vs with
    | [(1, .fin _ m e), (1, .fin _ m' e')] => n == 1 && (m == 0 || decide (2 ^ 23 ≤ m ∧ -148 ≤ e ∧ e < 103))
        && (m' == 0 || decide (2 ^ 23 ≤ m' ∧ -148 ≤ e' ∧ e' < 103))
    | _ => false
  if plain && whole / d == 2 ^ n && (half || decide (total < 2 ^ 24 ∧ (n : Int) - 149 ≤ low)) then
    some (BitVec.ofNat 32 (f32.encode .rne false 0
      ((vs.foldl (fun (a : Fp) t => a.add (t.2.mul (.fin false t.1 0))) (.fin false 0 0)).mul (.fin false 1 (-(n : Int))))))
  else none

/-- A picture of `w` by `h` FP32 values in raster order, resized to `u` by `v` (stage 5). -/
def resize (area : Bool) (w h u v : Nat) (src : List (BitVec 32)) : List (BitVec 32) :=
  (List.range (u * v)).map fun k =>
    let (xs, dx) := resizeTaps area w u (k % max 1 u)
    let (ys, dy) := resizeTaps area h v (k / max 1 u)
    let taps := ys.flatMap fun (y : Nat × Nat) => xs.map fun (x : Nat × Nat) => (x.2 * y.2, src.getD (y.1 * w + x.1) 0)
    match taps with
    | [t] => t.2
    | _ => (plainBlend (dx * dy) taps).getD (Config.blend area (dx * dy) taps)

/-- A channel of a frame after stage 5, as FP32 bits in raster order. -/
def channelOf (p : Pictures) (b : PegBatch) (x : PegSample) (f : List Nat) (c : Nat) : List (BitVec 32) :=
  let (ox, oy, w, h) := cropOf b x
  let src := (List.range (w * h)).map fun k =>
    let i := k % max 1 w
    let i := if flips b x then w - 1 - i else i
    (picPixel p b f (ox + i) (oy + k / max 1 w)).getD c 0
  if w = b.outW && h = b.outH then src else resize b.area w h b.outW b.outH src

/-- The output bytes of one frame (R286). -/
def frameOut (p : Pictures) (b : PegBatch) (x : PegSample) (f : List Nat) : List Byte :=
  let gain := gainOf b x
  let chans := (List.range b.channels).map fun c =>
    (channelOf p b x f c).map fun v => finishValue b gain c (f32.decode v.toNat)
  let at_ := fun (c k : Nat) => (chans.getD c []).getD k 0
  let w := b.elemBytes
  if b.planar then
    (List.range b.channels).flatMap fun c => (List.range b.outH).flatMap fun j =>
      padTo b.planePitch ((List.range b.outW).flatMap fun i => toLE w (at_ c (j * b.outW + i)))
  else
    (List.range (b.outH * b.outW)).flatMap fun k =>
      padTo PegBatch.pixelBytes ((List.range b.channels).flatMap fun c => toLE w (at_ c k))

/-- The value of an element of a raw record (R281). -/
def recordValue (fmt : Nat) (bs : List Byte) (i : Nat) : Fp :=
  match fmt with
  | 0 => Fp.ofInt (leAt bs i 1)
  | 1 => Fp.ofInt (leAt bs (2 * i) 2)
  | 2 => Fp.ofInt (BitVec.ofNat 16 (leAt bs (2 * i) 2)).toInt
  | 3 => f32.decode (leAt bs (4 * i) 4)
  | _ => f16.decode (leAt bs (2 * i) 2)
/-- Bytes of an element of a raw record. -/
def recordBytes (fmt : Nat) : Nat := match fmt with
  | 0 => 1
  | 3 => 4
  | _ => 2

/-- The output of a raw sample, where its bytes hold enough records (R283, R286). -/
def recordsOut (b : PegBatch) (x : PegSample) (bs : List Byte) : Option (List Byte) :=
  let len := x.rawW * recordBytes x.rawFmt
  if bs.length < x.needed * len then none
  else
    let recs := x.kept ((List.range x.needed).map fun i => (bs.drop (i * len)).take len)
    some (recs.flatMap fun r => padTo (b.frameBytes x) ((List.range x.rawW).flatMap fun i =>
      toLE b.elemBytes (finishValue b none (i % b.rch) (recordValue x.rawFmt r i))))

/-- Pictures that a pipe decodes for a codec: within the largest picture, of a chroma format and depth of R279. -/
def picturesOk (codec : Nat) (p : Pictures) : Bool :=
  match codec with
  | 1 | 2 => decide (p.w ≤ 4096 ∧ p.h ≤ 2304) && [1, 3].contains p.chroma && [8, 10].contains p.depth
  | 3 => decide (p.w ≤ 4096 ∧ p.h ≤ 2304) && [1, 2].contains p.chroma && [8, 10].contains p.depth
  | 4 => decide (p.w ≤ 8192 ∧ p.h ≤ 4320) && p.chroma == 3 && decide (1 ≤ p.depth ∧ p.depth ≤ 16)
  | _ => decide (p.w ≤ 8192 ∧ p.h ≤ 4320)

/-- What a pipe delivers of a sample: its output bytes, or the reason it is void. Pictures beyond the table of R279 are not
supported. -/
def State.sampleOut (s : State) (b : PegBatch) (x : PegSample) (r : DecodeResult) : Nat × List Byte :=
  let frames := fun (p : Pictures) => if !picturesOk x.codec p then (2, []) else if p.frames.length < x.needed then (1, [])
    else (0, (x.kept p.frames).flatMap (frameOut p b x))
  match r with
  | .bitstream => (1, [])
  | .unsupported => (2, [])
  | .decoded p =>
    if x.codec = 5 then match recordsOut b x (s.hostRead x.bsAddr x.bsLen) with
      | some o => (0, o)
      | none => (1, [])
    else if x.codec = 0 then match rawPictures x (s.hostRead x.bsAddr x.bsLen) with
      | some p => frames p
      | none => (1, [])
    else frames p

/-! ### Rows -/

/-- PIPE_DISPATCH: the first free pipe that is enabled and has passed its test (R387) takes the lowest-serial waiting sample of the next queue after the one that it served last
(R287). -/
def execPipeDispatch (s : State) : Host.Outcome State Fault Refusal :=
  if s.off then .next s else
  match (List.range 16).find? fun p => bit s.peg.pipeEn p && bit s.boot.pipeOk p && (s.inPipe p).isNone with
  | none => .next s
  | some p =>
    let last := Tab.get 15 s.peg.lastQueue p
    let order := (rangeFrom (last + 1) 16).map (· % 16)
    match order.find? fun q => (s.pegQueue q).samples.any (·.state == .window) with
    | none => .next s
    | some q =>
      match (s.pegQueue q).samples.find? (·.state == .window) with
      | none => .next s
      | some x =>
        let s := { s with peg := { s.peg with lastQueue := Tab.set 15 s.peg.lastQueue p q } }
        let s := s.modSample q x.serial fun x => { x with state := .pipe p }
        match (s.pegQueue q).batchOf x.serial with
        | some b => .next (if (s.fn b.fn).busMaster then s else s.voidSample q x 4 p)
        | none => .next s

/-- SAMPLE_DECODE_DONE: the pipe's sample is converted and written, or becomes void (R283, R288, R290). The pipe keeps it while a page
of its output moves or drains (R228). -/
def execSampleDecodeDone (p : Nat) (r : DecodeResult) (s : State) : Host.Outcome State Fault Refusal :=
  if s.off then .next s else
  match s.inPipe p with
  | none => .next s
  | some (q, x) =>
    match (s.pegQueue q).batchOf x.serial with
    | none => .next s
    | some b =>
      let s0 := s
      let s := s.modPegQueue q fun y => { y with decoded := wrapAdd 32 y.decoded 1 }
      if !(s.fn b.fn).busMaster then .next (s.voidSample q x 4 p)
      else
        let (reason, out) := s.sampleOut b x r
        if reason != 0 then .next (s.voidSample q x reason p)
        else match s.devWrite (s.pegQueue q).part .plain x.outAddr out with
          | .ok s => .next (s.validSample q x.serial)
          | .wait _ => .next s0
          | .bad a poison => .next ((s.noteFault (s.pegQueue q).part 8 a poison).voidSample q x 5 p)

/-- DECODE_TIMEOUT: the pipe abandons its sample, which is void with reason 3 (R292). A timeout of 0 never passes. -/
def execDecodeTimeout (p : Nat) (s : State) : Host.Outcome State Fault Refusal :=
  if s.off then .next s else
  match s.inPipe p with
  | none => .next s
  | some (q, x) => if (s.pegQueue q).timeout = 0 then .next s else .next (s.voidSample q x 3 p)

/-- A sample is ready to be emitted: its output and entry are written, no write of them waiting, its batch record can be written, and
the set of a reference sample is complete (R228, R246, R288, R294). -/
def State.emittable (s : State) (q : Nat) (x : PegSample) : Bool :=
  x.state == .ready && (!s.isReference q || x.set) && (match (s.pegQueue q).batchOf x.serial with
    | some b => !s.pegWaits (s.pegQueue q).part x.outAddr (x.frames * b.frameBytes x) && (match s.devCheckWrite (s.pegQueue q).part
        .plain b.record (0x40 + s.entryBytes q * b.count) with
      | .wait _ => false
      | _ => true)
    | none => true)

/-- The lowest sample of a queue is emitted (R288). -/
def State.emitOne (s : State) (q : Nat) (x : PegSample) (count : Bool) : State :=
  let s := s.modUniSample q x.serial fun y => { y with emitted := true }
  let pq := s.pegQueue q
  let s := match pq.batchOf x.serial with
    | none => s
    | some b =>
      let b := { b with voids := b.voids + ofBool (x.reason != 0) }
      let last := x.serial + 1 == b.first + b.count
      let s := s.modPegQueue q fun y => { y with
        batches := if last then y.batches.filter (·.first != b.first)
          else y.batches.map fun (c : PegBatch) => if c.first = b.first then b else c }
      if last && count then s.writeHead q b 1 else s
  let s := s.modPegQueue q fun y => { y with samples := y.samples.filter (·.serial != x.serial), cursor := y.cursor + 1 }
  if count then s.addCounter (pq.emitCtr % 2 ^ 17) 1 else s

/-- A failed batch is emitted together, and its output bytes are undefined (R291). The entries of a reference queue keep their held mask
and serials (R297). -/
def State.emitFailed (s : State) (q : Nat) (b : PegBatch) (xs : List PegSample) : State :=
  let b := { b with voids := b.count }
  let s := xs.foldl (fun (s : State) x =>
    let s := if x.reason = 0 then (s.countVoid q 8).modUniSample q x.serial fun y => { y with isVoid := true } else s
    let s := s.scrambleRange (s.pegQueue q).part x.outAddr (x.frames * b.frameBytes x)
    s.pegEntry q x.serial 0 (if x.reason = 0 then 8 else x.reason) []) s
  let s := s.writeHead q b 2
  let ctr := (s.pegQueue q).emitCtr % 2 ^ 17
  let s := xs.foldl (fun (s : State) x => s.emitOne q x false) s
  let s := s.modPegQueue q fun y => { y with batchFails := satAdd 8 y.batchFails 1, batchFailed := true }
  s.addCounter ctr (BitVec.ofNat 64 b.count)

/-- SAMPLE_EMIT: a queue emits its next sample, or the whole of a failed batch (R288, R291). -/
def execSampleEmit (q : Nat) (s : State) : Host.Outcome State Fault Refusal :=
  if s.off then .next s else
  let pq := s.pegQueue q
  match pq.samples with
  | [] => .next s
  | x :: _ =>
    match pq.batchOf x.serial with
    | none => .next s
    | some b =>
      let xs := pq.samples.filter fun y => decide (b.first ≤ y.serial ∧ y.serial < b.first + b.count)
      if !s.emittable q x then .next s
      else if !pq.failBatch then .next (((s.emitOne q x true).fillWindow q 257).bridgeSettle 4)
      else if !xs.all (s.emittable q) then .next s
      else if xs.all fun y => y.reason == 0 || y.reason == 7 then .next (((s.emitOne q x true).fillWindow q 257).bridgeSettle 4)
      else .next (((s.emitFailed q b xs).fillWindow q 257).bridgeSettle 4)

/-! ### Matching (R296, R297) -/

/-- What a stream gives a set. -/
inductive Match where
  | wait
  | chosen (y : UniSample) (held : Bool)
  | missing
  deriving DecidableEq, Repr

/-- The distance of two timestamps. -/
def tsDist (a b : Nat) : Nat := (a - b) + (b - a)

/-- The sample of the latest timestamp, and of those the last in serial order. -/
def latest (l : List UniSample) : Option UniSample :=
  l.foldl (fun (b : Option UniSample) y => match b with
    | some z => if y.ts < z.ts then b else some y
    | none => some y) none

/-- match of R296 for a stream's samples. -/
def matchStream (l : List UniSample) (ended hold : Bool) (tr tol : Nat) : Match :=
  if !ended && !l.any (fun y => !y.orderVoid && decide (tr + tol < y.ts)) then .wait
  else
    let good := l.filter fun y => !y.orderVoid
    let c := good.filter fun y => decide (tsDist y.ts tr ≤ tol)
    match c with
    | y :: ys =>
      .chosen (ys.foldl (fun b y => if tsDist y.ts tr < tsDist b.ts tr || (tsDist y.ts tr == tsDist b.ts tr && decide (y.ts < b.ts))
        then y else b) y) false
    | [] =>
      let before := good.filter fun y => decide (y.ts + tol < tr)
      match hold, latest before with
      | true, some y => .chosen y true
      | _, _ => .missing

/-- Samples of a stream that no later set chooses while the reference's timestamps do not fall; one that a later set does choose, after
a reference sample void for reason 6, is counted as unused no more: those before `tr - tol`, and of a
stream whose policy is hold not the latest of them. -/
def passedBy (l : List UniSample) (hold : Bool) (tr tol : Nat) : List UniSample :=
  let before := l.filter fun y => decide (y.ts + tol < tr)
  let last := (latest (before.filter fun y => !y.orderVoid)).map (·.serial)
  before.filter fun y => !(hold && last == some y.serial)

/-- UNISON_SET_COMPLETE: the set of the reference's next sample, once every part is chosen and emitted: its entry is written
(R294, R296, R297). -/
def execUnisonSetComplete (g : Nat) (s : State) : Host.Outcome State Fault Refusal :=
  if s.off then .next s else
  let u := Tab.get ({} : UniGroup) s.uni.groups g
  let rq := (u.streams.getD u.ref (0, false)).1
  if !u.active then .next s
  else match (s.pegQueue rq).samples.find? (fun x => !x.set) with
  | none => .next s
  | some x =>
    if x.state != .ready then .next s
    else
      let ks := List.range u.streams.length
      let tr := x.ts
      let pick := fun (k : Nat) =>
        if x.reason = 6 then Match.missing
        else matchStream (u.samples.getD k []) (bit u.ended k) (u.streams.getD k (0, false)).2 tr u.tol
      let others := (ks.filter (· != u.ref)).map fun k => (k, pick k)
      if others.any fun e => match e.2 with
          | .wait => true
          | .chosen y _ => !y.emitted
          | .missing => false then .next s
      else
        let own := x.reason == 0
        let part : Nat → Bool × Bool × Option Nat := fun k => if k = u.ref then (own, false, some x.serial)
          else match ((others.find? (·.1 == k)).map (·.2) : Option Match) with
            | some (.chosen y h) => (own && !y.isVoid, h, some y.serial)
            | _ => (false, false, none)
        let ps := ks.map part
        let mask := maskOf (ks.filter fun k => (part k).1)
        let heldMask := maskOf (ks.filter fun k => (part k).2.1)
        let miss := ks.filter fun k => (part k).2.2.isNone
        let reason := if !own then x.reason else if miss.isEmpty then 0 else 7
        let serials := (List.range 16).flatMap fun k => toLE 4 (match ps.getD k (false, false, none) with
          | (_, _, some v) => v % 2 ^ 32
          | _ => if k < ks.length then 0xFFFFFFFF else 0)
        let s := s.pegEntry rq x.serial mask reason (toLE 2 heldMask ++ fill 58 0 ++ serials)
        let s := if reason = 7 then s.countVoid rq 7 else s
        let s := s.modSample rq x.serial fun x => { x with set := true, reason := reason }
        let s := others.foldl (fun (s : State) e => match e.2 with
          | .chosen y _ => (s.modUniSample (u.streams.getD e.1 (0, false)).1 y.serial fun z => { z with chosen := true }).modUniCnt
              (u.streams.getD e.1 (0, false)).1 fun c => { c with 
              chosen := wrapAdd 32 c.chosen 1, unused := if y.spent && !y.chosen then c.unused - 1 else c.unused }
          | _ => s) s
        let s := s.modGroup g fun u => { u with
          sets := wrapAdd 32 u.sets 1, held := satAdd 16 u.held (popcount 16 heldMask), missing := satAdd 16 u.missing miss.length }
        if x.reason = 6 then .next s
        else .next ((ks.filter (· != u.ref)).foldl (fun (s : State) k =>
          let l := (Tab.get ({} : UniGroup) s.uni.groups g).samples.getD k []
          let st := u.streams.getD k (0, false)
          let gone := passedBy l st.2 tr u.tol
          (s.countUnused st.1 gone).modGroup g fun u => { u with samples := u.samples.set k (l.map fun y =>
            if gone.any (·.serial == y.serial) then { y with spent := true } else y) }) s)

/-- A reset of a partition: its queues' batches are aborted, and groups whose reference it resets are dissolved (R298). -/
def State.pegReset (s : State) (n : Nat) : State :=
  let s := (List.range 4).foldl (fun (s : State) g =>
    let u := Tab.get ({} : UniGroup) s.uni.groups g
    if u.active && (s.pegQueue (u.streams.getD u.ref (0, false)).1).part = n then s.dissolve g else s) s
  ((List.range 16).filter fun q => (s.pegQueue q).part == n && (Tab.find s.peg.queues q).isSome).foldl (fun (s : State) q =>
    let s := (s.pegQueue q).batches.foldl (fun (s : State) b => s.writeHead q b 3) s
    s.modPegQueue q fun x => { x with
      batches := [], samples := [], cursor := 0, decoded := 0, batchFails := 0, windowFull := 0, voids := 0, full := false
      batchFailed := false, lastTs := 0 }) s

end Sys2Proof.Machine
end

