-- ==== Sys2Proof/Machine/Plan.lean ====
section
/-! DEFINITION. The checkpoint plan (R364) and the schedule record (R368), which a checkpoint captures and a pair ships. -/

namespace Sys2Proof.Machine

/-! ### Fields of the plan -/
/-- sched_addr. -/
def State.planSched (s : State) (n : Nat) : Nat := s.planField n 0x08 6
/-- ncnt. -/
def State.planNcnt (s : State) (n : Nat) : Nat := min 256 (s.planField n 0x0E 2)
/-- owned_base. -/
def State.planOwned (s : State) (n : Nat) : Nat := s.planField n 0x10 6
/-- queue_mask. -/
def State.planQueues (s : State) (n : Nat) : Nat := s.planField n 0x16 2
/-- owned_pages. -/
def State.planOwnedPages (s : State) (n : Nat) : Nat := s.planField n 0x18 4
/-- auto_id. -/
def State.planAutoId (s : State) (n : Nat) : Nat := s.planField n 0x1C 4
/-- plain_base. -/
def State.planPlain (s : State) (n : Nat) : Nat := s.planField n 0x20 6
/-- capo_mask. -/
def State.planCapo (s : State) (n : Nat) : Nat := s.planField n 0x26 2
/-- plain_pages. -/
def State.planPlainPages (s : State) (n : Nat) : Nat := s.planField n 0x28 4
/-- flags. -/
def State.planFlags (s : State) (n : Nat) : Nat := s.planField n 0x2C 1
/-- cursor[q]. -/
def State.planCursor (s : State) (n q : Nat) : Nat := s.planField n (0x40 + 4 * q) 4 % 2 ^ 17
/-- cnt[i]. -/
def State.planCnt (s : State) (n i : Nat) : Nat := s.planField n (0x80 + 4 * i) 4 % 2 ^ 17

/-- Consecutive frames of a job that met recover_slack (R316). -/
def CapoJob.goodRun (b : CapoJob) : Nat := (b.slacks.takeWhile fun x => decide ((b.rec_.recoverSlack : Int) ≤ x)).length

/-- The sequences of a context that a schedule record holds: those that have joined and are not closed. -/
def State.savedSeqs (s : State) (n c : Nat) : List ResSeq :=
  s.res.seqs.filter fun q => q.part == n && q.ctx == c && (q.status == 1 || q.status == 2 || q.status == 4)

/-- The schedule record of a step (R368). -/
def State.scheduleRecord (s : State) (n c : Nat) (x : Ctx) (id : Nat) (seqs : List ResSeq) : List Byte :=
  let qs := s.planQueues n
  let cm := s.planCapo n
  let ncnt := s.planNcnt n
  let capo := (List.range 16).flatMap fun j =>
    let b := s.job j
    if bit cm j then toLE 8 b.nextFrame ++ toLE 1 (ofBool b.cheap) ++ toLE 1 (min 255 b.goodRun) ++ fill 6 0 else fill 16 0
  padTo 0x40 (toLE 8 x.step.toNat ++ toLE 8 x.seed.toNat ++ toLE 8 (handleOf n c x.gen) ++ toLE 4 id ++ toLE 2 ncnt
      ++ toLE 2 qs ++ toLE 4 seqs.length ++ toLE 2 cm)
    ++ ((List.range 16).flatMap fun q => toLE 8 (if bit qs q then (s.counter (s.planCursor n q)).toNat else 0))
    ++ capo ++ fill 0x40 0
    ++ padTo 0x800 ((List.range ncnt).flatMap fun i => toLE 8 (s.counter (s.planCnt n i)).toNat)
    ++ seqs.flatMap fun q => padTo 48 q.params ++ toLE 4 q.next ++ toLE 1 q.status ++ fill 11 0

/-- Bytes of a schedule record before its sequences. -/
def schedHead : Nat := 0xA00

end Sys2Proof.Machine
end

