-- ==== Sys2Proof/Machine/Sbf.lean ====
section
/-! DEFINITION. Scroll Block Float (R175 to R177): 64 elements coded as one block of bits. -/

namespace Sys2Proof.Machine

/-- The fields of an SBF block, R175. `elems` holds sign and magnitude of the elements with a clear zmap bit. -/
structure SbfBlock where
  exp : Nat
  width : Nat := 0             -- code: 0, 1, 2 for 3, 5, 7 bits
  delta : Bool := false
  kdist : Nat := 0
  zmap : Nat := 0
  elems : List (Bool × Nat) := []
  deriving DecidableEq, Repr

/-- Mantissa bits of a width code. -/
def sbfBits (code : Nat) : Nat := 3 + 2 * code

/-- The bits of a block's elements, the first lowest. -/
def sbfElemBits (m : Nat) : List (Bool × Nat) → Nat
  | [] => 0
  | (s, q) :: t => ofBool s + 2 * (q % 2 ^ m) + 2 ^ (m + 1) * sbfElemBits m t

/-- Bytes of a block: padded to a whole number of 16-bit units. -/
def SbfBlock.bytes (b : SbfBlock) : Nat := 2 * ceilDiv (80 + b.elems.length * (sbfBits b.width + 1)) 16

/-- The bytes of a block (R175). -/
def SbfBlock.encode (b : SbfBlock) : List Byte :=
  toLE b.bytes (b.exp + b.width * 2 ^ 8 + ofBool b.delta * 2 ^ 10 + b.kdist % 32 * 2 ^ 11 + b.zmap % 2 ^ 64 * 2 ^ 16
    + sbfElemBits (sbfBits b.width) b.elems * 2 ^ 80)

/-- Elements of a block from the bits after its zmap. -/
def sbfElems (m : Nat) : Nat → Nat → List (Bool × Nat)
  | 0, _ => []
  | n + 1, v => (bit v 0, v / 2 % 2 ^ m) :: sbfElems m n (v / 2 ^ (m + 1))

/-- The block at the start of a byte string, and the rest. -/
def SbfBlock.decode (bs : List Byte) : SbfBlock × List Byte :=
  let h := ofLE (bs.take 10)
  let e := field h 7 0
  let w := field h 9 8
  let n := 64 - popcount 64 (field h 79 16)
  let m := sbfBits w
  let b : SbfBlock := { exp := e, width := w, delta := bit h 10, kdist := field h 15 11, zmap := field h 79 16
                        elems := sbfElems m n (ofLE ((bs.drop 10).take (ceilDiv (n * (m + 1)) 8))) }
  (b, bs.drop b.bytes)

/-- The value of a coded element: `(-1)^s * q * 2^(E - 127 - (m - 1))` (R176). -/
def sbfValue (exp m : Nat) (e : Bool × Nat) : Fp := .fin e.1 e.2 ((exp : Int) - 127 - (m - 1))

/-- The 64 values of a block (R176). -/
def SbfBlock.values (b : SbfBlock) : List Fp :=
  if b.exp = 255 then List.replicate 64 .nan
  else
    ((List.range 64).foldl (fun (acc : List Fp × List (Bool × Nat)) i =>
      if bit b.zmap i then (.zero :: acc.1, acc.2)
      else match acc.2 with
        | e :: t => (sbfValue b.exp (sbfBits b.width) e :: acc.1, t)
        | [] => (.zero :: acc.1, [])) ([], b.elems)).1.reverse

/-- Rounding of a magnitude to an integer number of quanta, held to `m` bits (R177). -/
def sbfQuant (exp m : Nat) (mode : RMode) (u : Nat) (x : Fp) : Nat :=
  match x.scale (127 + m - 1 - (exp : Int)) with
  | .fin _ k e => min (roundAt mode u k e 0) (2 ^ m - 1)
  | _ => 0

/-- The shared exponent of a list of finite values (R177). -/
def sbfExp (xs : List Fp) : Nat :=
  let a := amaxFinite xs
  if a.isZero then 0 else (max 0 (min 254 (a.log2 + 127))).toNat

/-- Whether every element meets the error budget at `m` bits: `|x - dequant (rne x)| ≤ 2^(eref - 127 - b)` (R177). DESIGN CHOICE: the
listing does not define rne; it is held to `m` bits, as the coding loop holds q (log 173). -/
def sbfMeets (exp m eref b : Nat) (xs : List Fp) : Bool :=
  xs.all fun x => Fp.le ((x.abs).sub (sbfValue exp m (false, sbfQuant exp m .rne 0 x))).abs (.fin false 1 ((eref : Int) - 127 - b))

/-- sbf_code of R177 of up to 64 values: the block, and whether it is non-finite, and whether it missed its budget. Missing
elements are +0. `draw i` is the draw of element `i` of the block; `eref` none takes the block's own exponent. -/
def sbfCode (xs : List Fp) (mode : RMode) (budget : Nat) (eref : Option Nat) (delta : Bool) (kdist : Nat)
    (draw : Nat → Nat) : SbfBlock × Bool × Bool :=
  let xs := xs ++ List.replicate (64 - xs.length) Fp.zero
  if xs.any fun x => x.isNan || x.isInf then
    -- width, zmap and the 64 elements that the clear zmap gives room are written as zero (R176)
    ({ exp := 255, delta := delta, kdist := kdist, elems := List.replicate 64 (false, 0) }, true, false)
  else
    let e := sbfExp xs
    let ref := eref.getD e
    let b := field budget 4 0
    let pick := [0, 1, 2].find? fun w => sbfMeets e (sbfBits w) ref b xs
    let (w, miss) := match field budget 6 5 with
      | 0 => (pick.getD 2, pick.isNone)
      | k => (k - 1, false)
    let m := sbfBits w
    let qs := (xs.zip (List.range 64)).map fun (x, i) => (x.signBit, sbfQuant e m mode (draw i) x)
    let zmap := packBits 1 (qs.map fun (s, q) => if q = 0 && !s then 1 else 0)
    ({ exp := e, width := w, delta := delta, kdist := kdist, zmap := zmap
       elems := qs.filter fun (s, q) => !(q == 0 && !s) }, false, miss)

/-- The values in groups of 64. `k` bounds the groups. -/
def groups64 : Nat → List Fp → List (List Fp)
  | 0, _ => []
  | k + 1, xs => if xs.isEmpty then [] else xs.take 64 :: groups64 k (xs.drop 64)

/-- The blocks of a byte string, as many as it holds whole headers for. `k` bounds them. -/
def sbfBlocks : Nat → List Byte → List SbfBlock
  | 0, _ => []
  | k + 1, bs =>
    if bs.length < 10 then []
    else
      let (b, rest) := SbfBlock.decode bs
      b :: sbfBlocks k rest

end Sys2Proof.Machine
end

