-- ==== Sys2Proof/Machine/Mover.lean ====
section
/-! DEFINITION. The data mover: MOVE and MOVE_COMPLETE (R94, R104, R109, R203, R228, R309). -/

namespace Sys2Proof.Machine

/-! ### MOVE fields (R105) -/
namespace M
/-- src_addr. -/
def src (d : Nat) : Nat := d48 d 8
/-- dst_addr. -/
def dst (d : Nat) : Nat := d48 d 14
/-- src_space. -/
def srcSpace (d : Nat) : Nat := dfield d 20 1 0
/-- dst_space. -/
def dstSpace (d : Nat) : Nat := dfield d 20 3 2
/-- cvt. -/
def cvt (d : Nat) : Bool := bit d 164
/-- round: RZ for 1. -/
def mode (d : Nat) : RMode := if bit d 165 then .rz else .rne
/-- sat. -/
def sat (d : Nat) : Bool := bit d 166
/-- src_fmt. -/
def srcFmt (d : Nat) : Nat := dfield d 21 3 0
/-- dst_fmt. -/
def dstFmt (d : Nat) : Nat := dfield d 21 7 4
/-- rows. -/
def rows (d : Nat) : Nat := d16 d 22
/-- row_bytes. -/
def rowBytes (d : Nat) : Nat := d32 d 24
/-- src_stride. -/
def srcStride (d : Nat) : Nat := d32 d 28
/-- dst_stride. -/
def dstStride (d : Nat) : Nat := d32 d 32
/-- sbf_width. -/
def sbfWidth (d : Nat) : Nat := dfield d 36 1 0
/-- src_scl. -/
def srcScl (d : Nat) : Nat := d48 d 38
/-- dst_scl. -/
def dstScl (d : Nat) : Nat := d48 d 44
/-- src_scl_pitch. -/
def srcPitch (d : Nat) : Nat := d32 d 50
/-- dst_scl_pitch. -/
def dstPitch (d : Nat) : Nat := d32 d 54
/-- Source format. -/
def fs (d : Nat) : Fmt := (Fmt.ofCode (srcFmt d)).getD .fp32
/-- Destination format. -/
def fd (d : Nat) : Fmt := (Fmt.ofCode (dstFmt d)).getD .fp32
end M

/-- Elements of a source row, where a row is not SBF. -/
def moveElems (d : Nat) : Nat := (elemsIn (M.fs d) (M.rowBytes d)).getD 0

/-- The bytes that `n` elements take in a destination row: of an SBF row the most, with blocks of the width that the descriptor
names. -/
def moveDstBytes (d n : Nat) : Nat :=
  if !M.cvt d then M.rowBytes d
  else if M.fd d = .sbf then ceilDiv n 64 * (42 + 16 * M.sbfWidth d) else packedBytes (M.fd d) n

/-- Where an address of a MOVE's space lies: scratchpad of a core, cluster memory, or device memory. -/
inductive Place where
  | sp (core off : Nat)
  | cm (cluster off : Nat)
  | dev (a : Nat)
  | bad
  deriving DecidableEq, Repr

/-- The place of a byte range of a space for core `g` of partition `p`, within the space's limits (R104, R236). -/
def State.place (s : State) (g p space a n : Nat) : Place :=
  match space with
  | 0 => if a + n ≤ 2 ^ 22 then .sp g a else .bad
  | 1 =>
    let k := 8 * dieOf g + field a 26 24
    if a < 2 ^ 27 && s.clusterIn p k && a % 2 ^ 24 + n ≤ s.cmGeneral k then .cm k (a % 2 ^ 24) else .bad
  | 2 => if a + n ≤ 2 ^ 48 then .dev a else .bad
  | _ =>
    let c := 64 * dieOf g + field a 27 22
    if a < 2 ^ 28 && s.coreIn p c && a % 2 ^ 22 + n ≤ 2 ^ 22 then .sp c (a % 2 ^ 22) else .bad

/-- Bytes of a place. -/
def State.readPlace (s : State) (p : Nat) (sel : Sel) (pl : Place) (n : Nat) : Acc (List Byte) :=
  match pl with
  | .sp c o => .ok (s.spRead c o n)
  | .cm k o => .ok (s.cmRead k o n)
  | .dev a => s.devRead p .plain sel a n
  | .bad => .bad 0 false

/-- Elements of each row of a MOVE. Those of an SBF row stand in its blocks, as they are found (log 177); of a row that cannot be
read there are none. -/
def State.moveCounts (s : State) (g p d : Nat) (sel : Sel) : List Nat :=
  if M.cvt d && M.fs d == .sbf then
    (List.range (M.rows d)).map fun r =>
      match s.readPlace p sel (s.place g p (M.srcSpace d) (M.src d + r * M.srcStride d) (M.rowBytes d)) (M.rowBytes d) with
      | .ok bs => 64 * (sbfBlocks bs.length bs).length
      | _ => 0
  else List.replicate (M.rows d) (moveElems d)

/-- What a MOVE reads: source rows and source scales. -/
def moveReads (d : Nat) : List (Nat × Nat) :=
  let rows := List.range (M.rows d)
  rows.map (fun r => (M.src d + r * M.srcStride d, M.rowBytes d))
    ++ if M.cvt d && (M.fs d).isMx then rows.map fun r => (M.srcScl d + r * M.srcPitch d, ceilDiv (moveElems d) 32) else []

/-- What a MOVE writes, with so many elements in each row: destination rows and destination scales. -/
def moveWrites (d : Nat) (counts : List Nat) : List (Nat × Nat) :=
  (counts.zipIdx.map fun (n, r) => (M.dst d + r * M.dstStride d, moveDstBytes d n))
    ++ if M.cvt d && (M.fd d).isMx then counts.zipIdx.map fun (n, r) => (M.dstScl d + r * M.dstPitch d, ceilDiv n 32) else []

/-- The ranges of a MOVE: what it reads, and what it writes. -/
def State.moveRanges (s : State) (g p d : Nat) (sel : Sel) : List (Nat × Nat) × List (Nat × Nat) :=
  (moveReads d, moveWrites d (s.moveCounts g p d sel))

/-- Whether a range of a MOVE leaves its space (R104). -/
def State.moveOut (s : State) (g p d : Nat) (sel : Sel) : Bool :=
  let (rd, wr) := s.moveRanges g p d sel
  rd.any (fun (a, n) => s.place g p (M.srcSpace d) a n == .bad)
    || wr.any fun (a, n) => n != 0 && s.place g p (M.dstSpace d) a n == .bad

/-- The faults of a MOVE at issue (R8, R104, R109, R467). -/
def State.moveFault (s : State) (g p d : Nat) (sel : Sel) : Option Nat :=
  let codes := M.cvt d && (M.srcFmt d ≥ 11 || M.dstFmt d ≥ 11 || (M.dstFmt d = 10 && M.sbfWidth d = 3)
    || (M.srcFmt d != 10 && (elemsIn (M.fs d) (M.rowBytes d)).isNone))
  if M.rows d = 0 || M.rowBytes d = 0 || M.rowBytes d > 2 ^ 24 || codes then some 1
  else if s.moveOut g p d sel then some 3
  else none

/-- Whether a byte range of device memory meets a page that holds a program launched in a context of the partition (R91). -/
def State.meetsProgram (s : State) (p a n : Nat) : Bool :=
  (s.part p).ctxs.any fun e => e.2.programs.any fun (b, k) =>
    decide (pageOf b ≤ pageOf (a + n - 1) ∧ pageOf a ≤ pageOf (b + 64 * k - 1))

/-- How a transfer ends. -/
inductive Ran where
  | done (s : State)
  | fault (cause addr : Nat) (poison : Bool)
  | wait
  deriving Repr

/-- Bytes written at a place whose range has been checked. -/
def State.writePlace (s : State) (pl : Place) (bs : List Byte) : State :=
  match pl with
  | .sp c o => s.spWrite c o bs
  | .cm k o => s.cmWrite k o bs
  | .dev a => s.devPut a bs
  | .bad => s

/-- The values of a source row: its SBF blocks, or its elements with their scales; MX values pass through FP32 (R34). -/
def moveValues (d : Nat) (bs scales : List Byte) : List Fp :=
  if M.fs d = .sbf then (sbfBlocks bs.length bs).flatMap SbfBlock.values
  else
    let xs := rowValues (M.fs d) bs scales (moveElems d)
    if (M.fs d).isMx then xs.map (f32.round (M.mode d) (M.sat d) 0) else xs

/-- The destination bytes and scales of a row of values (R109). -/
def moveConvert (d : Nat) (xs : List Fp) : List Byte × List Byte :=
  if M.fd d = .sbf then
    ((groups64 xs.length xs).flatMap fun b =>
      (sbfCode b (M.mode d) ((M.sbfWidth d + 1) * 32) none false 0 (fun _ => 0)).1.encode, [])
  else
    let (codes, sc) := convertRow (M.fd d) (M.mode d) (M.sat d) (fun _ => 0) xs
    (packElems (M.fd d) codes, sc.map (BitVec.ofNat 8))

/-- One row of a MOVE whose accesses have been checked. -/
def State.moveRow (s : State) (g p d r : Nat) (sel : Sel) : State :=
  let get := fun (a n : Nat) => match s.readPlace p sel (s.place g p (M.srcSpace d) a n) n with
    | .ok bs => bs
    | _ => fill n 0
  let dst := fun (a n : Nat) => s.place g p (M.dstSpace d) a n
  let bs := get (M.src d + r * M.srcStride d) (M.rowBytes d)
  if !M.cvt d then s.writePlace (dst (M.dst d + r * M.dstStride d) bs.length) bs
  else
    let sc := if (M.fs d).isMx then get (M.srcScl d + r * M.srcPitch d) (ceilDiv (moveElems d) 32) else []
    let xs := moveValues d bs sc
    let (out, osc) := moveConvert d xs
    let s := s.writePlace (dst (M.dst d + r * M.dstStride d) out.length) out
    let s := if osc.isEmpty then s else s.writePlace (dst (M.dstScl d + r * M.dstPitch d) osc.length) osc
    s.modCore g fun k => { k with moveNan := satAdd 16 k.moveNan (nanToIntCount (M.fd d) xs) }

/-- Whether units `[a, a + k)` of core `h` hold another context's data, or context `c` of partition `n` has its own in
its record: its units are then not resident there, and data for them waits (R309). -/
def State.unitsAway (s : State) (n c h a k : Nat) : Bool :=
  (s.part n).ctxs.any fun (z, y) =>
    !((if z = c then (y.core h).saved else (y.core h).resident).within a k).isEmpty

/-- Units of core `h` that receive a context's data while it does not run there become its own (R308). -/
def State.occupy (s : State) (n c h a k : Nat) : State :=
  s.modCtxCore n c h fun y => { y with resident := (a, k) :: y.resident.minus a k }

/-- Whether a MOVE's destination waits: a protected range of its own core (R85), or units that are not resident on
another core (R309). `c` is the context. -/
def State.moveBlocked (s : State) (g p c d : Nat) (sel : Sel) : Bool × Bool :=
  let wr := (s.moveRanges g p d sel).2
  let prot := wr.any fun (a, n) => match s.place g p (M.dstSpace d) a n with
    | .sp h o => h == g && (s.core g).protects o n
    | _ => false
  let away := M.dstSpace d = 3 && wr.any fun (a, n) =>
    match s.place g p 3 a n with
    | .sp h o => h != g && s.unitsAway p c h (o / 64) ((o + n + 63) / 64 - o / 64)
    | _ => false
  (prot, away)

/-- A MOVE is carried out: every access is checked first, and then its rows are moved in order. `sel` is the version
selector of its versioned reads (R203). -/
def State.runMove (s : State) (g p d : Nat) (sel : Sel) : Ran :=
  let (rd, wr) := s.moveRanges g p d sel
  let rdOk := rd.foldl (fun (r : Acc Unit) (a, n) =>
    match r with
    | .ok () => match s.readPlace p sel (s.place g p (M.srcSpace d) a n) n with
      | .ok _ => .ok ()
      | .bad b q => .bad b q
      | .wait b => .wait b
    | r => r) (.ok ())
  let wrOk := wr.foldl (fun (r : Acc Unit) (a, n) =>
    match r with
    | .ok () => if M.dstSpace d = 2 then s.devCheckWrite p .plain a n else .ok ()
    | r => r) (.ok ())
  if M.dstSpace d = 2 && wr.any fun (a, n) => n != 0 && s.meetsProgram p a n then .fault 4 0 false
  else match rdOk with
    | .bad b q => .fault (if q then 9 else 3) b q
    | .wait _ => .wait
    | .ok () => match wrOk with
      | .bad b q => .fault (if q then 9 else 3) b q
      | .wait _ => .wait
      | .ok () => .done ((List.range (M.rows d)).foldl (fun s r => s.moveRow g p d r sel) s)

/-- The translations of a MOVE's device side (R227). -/
def State.moveLookups (s : State) (g p d : Nat) (sel : Sel) : State :=
  let (rd, wr) := s.moveRanges g p d sel
  let s := if M.srcSpace d = 2 then rd.foldl (fun s (a, n) => s.lookups g a n) s else s
  if M.dstSpace d = 2 then wr.foldl (fun s (a, n) => s.lookups g a n) s else s

/-- The units that a MOVE writes on other cores of the placement become its context's own. -/
def State.moveOccupies (s : State) (g p c d : Nat) (wr : List (Nat × Nat)) : State :=
  if M.dstSpace d = 3 then
    wr.foldl (fun s (a, n) =>
      match s.place g p 3 a n with
      | .sp h o =>
        if h = g || !(s.ctx p c).any (fun x => bit x.gmask (granuleOf h)) then s
        else s.occupy p c h (o / 64) ((o + n + 63) / 64 - o / 64)
      | _ => s) s
  else s

/-- An outstanding MOVE is tried: it copies, waits, or stops its core. -/
def State.tryMove (s : State) (g serial : Nat) : State :=
  let k := s.core g
  match k.issued.find? (·.serial == serial) with
  | none => s
  | some i =>
    match i.work, k.ctx with
    | .move false waited, some c =>
      let sel := { k with sq := i.regs }.sel
      let (prot, away) := s.moveBlocked g k.part c i.desc sel
      let s := if away && !waited then
          (s.setWork g serial (.move false true)).modPart k.part fun p => { p with xcoreWaits := satAdd 16 p.xcoreWaits 1 }
        else s
      if prot || away then s
      else if s.moveOut g k.part i.desc sel then
        (s.modCore g fun k => { k with issued := k.issued.filter (·.serial != serial) }).seqFault g 3 tyMove i.index
      else
        match s.runMove g k.part i.desc sel with
        | .done t => (t.moveOccupies g k.part c i.desc (s.moveRanges g k.part i.desc sel).2).setWork g serial (.move true waited)
        | .wait => if M.dstSpace i.desc = 2 then s.countDrains g serial (s.moveRanges g k.part i.desc sel).2 else s
        | .fault cause a q =>
          let s := s.modCore g fun k => { k with issued := k.issued.filter (·.serial != serial) }
          let s := if cause = 3 || cause = 9 then s.noteFault k.part (dieOf g) a q else s
          s.seqFault g cause tyMove i.index
    | _, _ => s

/-- MOVE: the sequencer issues it and the data mover carries it out, unless it has to wait (R94, R109). -/
def execMove (g : Nat) (err : ReadError) (s : State) : Host.Outcome State Fault Refusal :=
  if s.dieOff (dieOf g) then .next s else
  match s.gate g (dType · == tyMove) false ((s.core g).outstanding tyMove) 64 with
  | .stay s => .next s
  | .go d0 =>
    let k := s.core g
    let d := applyOffsets d0 k.sq
    match s.headerFault g d with
    | some c => .next (s.seqFault g c tyMove k.pc)
    | none =>
      match s.moveFault g k.part d k.sel with
      | some c => .next (s.seqFault g c tyMove k.pc)
      | none =>
        let space := M.srcSpace d
        let m := if space = 3 then 64 * dieOf g + field (M.src d) 27 22 else g
        .next (s.onDieRead g m (8 * dieOf g + field (M.src d) 26 24) tyMove k.pc (space == 0 || space == 3) (space == 1)
          (space == 2 || M.dstSpace d == 2) err fun s => ((s.issue g d (.move false false)).moveLookups g k.part d k.sel).tryMove g k.serial)

/-- MOVE_COMPLETE: the MOVE issued as number `i` completes once its last byte has been written, no line of it still at the host (R94, R246). One that had to
wait is carried out first, if it can be. -/
def execMoveComplete (g i : Nat) (s : State) : Host.Outcome State Fault Refusal :=
  if s.dieOff (dieOf g) then .next s else
  let s := s.tryMove g i
  match (s.core g).issued.find? (·.serial == i) with
  | none => .next s
  | some x =>
    match x.work with
    | .move true _ =>
      let k := s.core g
      if M.dstSpace x.desc == 2 && (s.moveRanges g k.part x.desc { k with sq := x.regs }.sel).2.any
          (fun (e : Nat × Nat) => s.heldIn e.1 e.2) then .next s else .next (s.complete g i)
    | _ => .next s

end Sys2Proof.Machine
end

