-- ==== Sys2Proof/Machine/Control.lean ====
section
/-! DEFINITION. The descriptors that the sequencer itself carries out: WAIT, SIGNAL, JUMP, STEP_MARK, SEG_BEGIN, SEG_END
(R100 to R102, R111 to R113, R188, R205), a descriptor line's arrival (R92) and reserved types (R105). -/

namespace Sys2Proof.Machine

/-! ### Fields -/
namespace C
/-- counter of WAIT and SIGNAL, without its reserved bits (R98). -/
def counter (d : Nat) : Nat := d32 d 8 % 2 ^ 17
/-- value of WAIT and SIGNAL. -/
def value (d : Nat) : Nat := d64 d 12
/-- limit. -/
def limit (d : Nat) : Nat := d32 d 20
/-- res_reg. -/
def resReg (d : Nat) : Nat := dfield d 24 3 0
/-- res_en. -/
def resEn (d : Nat) : Bool := bit d (8 * 24 + 4)
/-- JUMP target. -/
def target (d : Nat) : Nat := d32 d 8
/-- JUMP cond. -/
def cond (d : Nat) : Nat := dfield d 12 2 0
/-- JUMP reg. -/
def reg (d : Nat) : Nat := dfield d 12 7 4
/-- JUMP mode: set. -/
def set (d : Nat) : Bool := bit d (8 * 13)
/-- JUMP upd. -/
def upd (d : Nat) : W64 := BitVec.ofNat 64 (d64 d 16)
/-- JUMP cmp. -/
def cmp (d : Nat) : W64 := BitVec.ofNat 64 (d64 d 24)
/-- STEP_MARK step number. -/
def step (d : Nat) : W64 := BitVec.ofNat 64 (d64 d 8)
/-- STEP_MARK hold. -/
def hold (d : Nat) : Bool := bit d (8 * 16)
/-- seg_id of SEG_BEGIN and SEG_END. -/
def segId (d : Nat) : Nat := d32 d 8
/-- reg_mask of SEG_BEGIN. -/
def regMask (d : Nat) : Nat := d16 d 12
end C

/-! ### WAIT -/

/-- A WAIT's condition: (counter − value), as a signed 64-bit number, is 0 or more (R101). -/
def State.waitHolds (s : State) (d : Nat) : Bool :=
  !(s.counter (C.counter d) - BitVec.ofNat 64 (C.value d)).msb

/-- A WAIT completes: its result register is written when res_en is 1 (R102), and issue goes on. -/
def State.endWait (s : State) (g d : Nat) (expired : Bool) : State :=
  let s := (s.waitedCycles g).modCore g fun q => { q with
    wait := none, state := if q.stopReq then .stopping else .issuing
    expired := if expired then satAdd 16 q.expired 1 else q.expired }
  let s := if C.resEn d then s.setSq g (C.resReg d) (BitVec.ofNat 64 (ofBool expired)) else s
  s.completeNow g d

/-- WAIT: the sequencer issues it and stops issuing until it completes (R101). A counter of another die or outside the
partition is a fault (R99). -/
def execWait (g : Nat) (err : ReadError) (s : State) : Host.Outcome State Fault Refusal :=
  if s.dieOff (dieOf g) then .next s else
  match s.gate g (dType · == tyWait) false 0 1 with
  | .stay s => .next s
  | .go d0 =>
    let k := s.core g
    let d := applyOffsets d0 k.sq
    match s.headerFault g d with
    | some c => .next (s.seqFault g c tyWait k.pc)
    | none =>
      let cl := counterCluster (C.counter d)
      if cl / 8 != dieOf g || !s.clusterIn k.part cl then .next (s.seqFault g 2 tyWait k.pc)
      else
        .next (s.onDieRead g g cl tyWait k.pc false true false err fun s =>
          let s := (s.advance g).modCore g fun q => { q with wait := some { desc := d, index := k.pc }, state := .waiting }
          if s.waitHolds d then s.endWait g d false else s)

/-- WAIT_COMPLETE: the counter has reached the value (R101). -/
def execWaitComplete (g : Nat) (s : State) : Host.Outcome State Fault Refusal :=
  if s.dieOff (dieOf g) then .next s else
  match (s.core g).wait with
  | some w => if s.waitHolds w.desc then .next (s.endWait g w.desc false) else .next s
  | none => .next s

/-- WAIT_EXPIRE: the limit passes before the condition holds (R102). A limit of 0 never does. -/
def execWaitExpire (g : Nat) (s : State) : Host.Outcome State Fault Refusal :=
  if s.dieOff (dieOf g) then .next s else
  match (s.core g).wait with
  | some w =>
    if C.limit w.desc = 0 then .next s
    else .next (s.endWait g w.desc !(s.waitHolds w.desc))
  | none => .next s

/-! ### SIGNAL -/

/-- SIGNAL: fenced, it adds its value to a counter of any die (R99, R100). -/
def execSignal (g : Nat) (err : ReadError) (s : State) : Host.Outcome State Fault Refusal :=
  if s.dieOff (dieOf g) then .next s else
  match s.gate g (dType · == tySignal) true 0 1 with
  | .stay s => .next s
  | .go d0 =>
    let k := s.core g
    let d := applyOffsets d0 k.sq
    match s.headerFault g d with
    | some c => .next (s.seqFault g c tySignal k.pc)
    | none =>
      if !s.clusterIn k.part (counterCluster (C.counter d)) then .next (s.seqFault g 2 tySignal k.pc)
      else .next (s.onDieRead g g (counterCluster (C.counter d)) tySignal k.pc false true false err fun s =>
        ((s.advance g).addCounter (C.counter d) (BitVec.ofNat 64 (C.value d))).completeNow g d)

/-! ### JUMP -/

/-- Whether a JUMP is taken, on the register's new value (R112). -/
def jumpTaken (d : Nat) (r : W64) : Bool :=
  match C.cond d with
  | 0 => true
  | 2 => r == C.cmp d
  | 3 => r != C.cmp d
  | 4 => decide (r.toNat < (C.cmp d).toNat)
  | 5 => decide ((C.cmp d).toNat ≤ r.toNat)
  | _ => false

/-- JUMP: updates a scalar register and branches, or returns from a handler (R112, R352). -/
def execJump (g : Nat) (s : State) : Host.Outcome State Fault Refusal :=
  if s.dieOff (dieOf g) then .next s else
  match s.gate g (dType · == tyJump) false 0 1 with
  | .stay s => .next s
  | .go d0 =>
    let k := s.core g
    let d := applyOffsets d0 k.sq
    match s.headerFault g d with
    | some c => .next (s.seqFault g c tyJump k.pc)
    | none =>
      if C.cond d = 7 then .next (s.seqFault g 1 tyJump k.pc)
      else if C.cond d = 6 then
        if !k.inHandler then .next (s.seqFault g 7 tyJump k.pc)
        else
          let s := (s.advance g).modCore g fun q => { q with
            pc := q.irqRet, inHandler := false, state := if q.lastStep.isSome then .held else .issuing }
          .next ((s.handlerReturn g).completeNow g d)
      else
        let r0 := k.sq.getD (C.reg d) 0
        let r := if C.set d then C.upd d else r0 + C.upd d
        let s := s.setSq g (C.reg d) r
        if jumpTaken d r && decide (k.count ≤ C.target d) then .next (s.seqFault g 7 tyJump k.pc)
        else
          let s := s.advance g
          let s := if jumpTaken d r then s.modCore g fun q => { q with pc := C.target d } else s
          .next (s.completeNow g d)

/-! ### STEP_MARK -/

/-- STEP_MARK: fenced, it reports that the core has passed the step, and with hold = 1 holds the core (R113). -/
def execStepMark (g : Nat) (s : State) : Host.Outcome State Fault Refusal :=
  if s.dieOff (dieOf g) then .next s else
  match s.gate g (dType · == tyStepMark) true 0 1 with
  | .stay s => .next s
  | .go d0 =>
    let k := s.core g
    let d := applyOffsets d0 k.sq
    match s.headerFault g d, k.ctx.bind (s.ctx k.part ·), k.ctx with
    | some c, _, _ => .next (s.seqFault g c tyStepMark k.pc)
    | none, some x, some c =>
      if C.step d != x.step then .next (s.seqFault g 6 tyStepMark k.pc)
      else
        let s := (s.advance g).modCtx k.part c fun x => { x with
          passed := if x.passed.contains g then x.passed else x.passed ++ [g] }
        let s := if C.hold d then s.modCore g fun q => { q with lastStep := some (C.step d), state := .held } else s
        let s := s.completeNow g d
        .next (if C.hold d then s.settle g else s)
    | none, _, _ => .next s

/-! ### Replay segments (R111, R188, R205) -/

/-- The address of a segment's record, where its id lies within the partition's table, in units of 1,024 records
(R188). -/
def State.segAddr (s : State) (n id : Nat) : Option Nat :=
  let q := s.scrPart n
  if id < 1024 * q.segSize then some (q.segBase + 256 * id) else none

/-- The 256 bytes of a record as SEG_BEGIN writes them: state 1, the selector, no pieces, and the registers of the mask
(R188, R205). -/
def segRecord (d index handle : Nat) (step : W64) (sq : List W64) : List Byte :=
  toLE 4 (C.segId d) ++ toLE 4 index ++ toLE 4 0 ++ toLE 2 (C.regMask d) ++ toLE 1 1 ++ toLE 1 0
    ++ toLE 8 handle ++ toLE 8 step.toNat
    ++ toLE 1 ((sq.getD 14 0).toNat % 32) ++ fill 63 0 ++ fill 32 0
    ++ (List.range 16).flatMap fun i => toLE 8 (if bit (C.regMask d) i then (sq.getD i 0).toNat else 0)

/-- SEG_BEGIN: opens a replay segment, writes its record and takes its pin (R111, R188, R205). -/
def execSegBegin (g : Nat) (s : State) : Host.Outcome State Fault Refusal :=
  if s.dieOff (dieOf g) then .next s else
  match s.gate g (dType · == tySegBegin) false 0 1 with
  | .stay s => .next s
  | .go d0 =>
    let k := s.core g
    let d := applyOffsets d0 k.sq
    match s.headerFault g d, k.ctx.bind (s.ctx k.part ·), k.ctx with
    | some c, _, _ => .next (s.seqFault g c tySegBegin k.pc)
    | none, some x, some c =>
      if k.seg.isSome then .next (s.seqFault g 5 tySegBegin k.pc)
      else match s.segAddr k.part (C.segId d) with
      | none => .next (s.seqFault g 3 tySegBegin k.pc)
      | some a =>
        match (s.lookups g a 256).devWrite k.part .plain a (segRecord d k.pc (handleOf k.part c x.gen) x.step k.sq) with
        | .bad b q => .next (s.accessFault g b q tySegBegin k.pc)
        | .wait _ => .next s
        | .ok s =>
          let sel := (k.sq.getD 14 0).toNat
          let s := (s.advance g).modCore g fun q => { q with seg := some { id := C.segId d } }
          let s := s.modCtx k.part c fun x => { x with
            segPins := x.segPins.filter (·.seg != C.segId d) ++
              (if bit sel 4 then [{ seg := C.segId d, version := sel % 16, step := x.step }] else []) }
          .next (s.completeNow g d)
    | none, _, _ => .next s

/-- The pieces that a segment's record counts: those not yet released that name it (R205). -/
def State.segPieces (s : State) (n id : Nat) : Nat :=
  match s.segAddr n id with
  | none => 0
  | some a => match s.devRead n .plain .newest (a + 0x24) 4 with
    | .ok bs => ofLE (s.withLate n (a + 0x24) bs)
    | _ => 0

/-- SEG_END: closes the open segment of its id. A segment that no piece names gives up its pin (R111, R188, R205). -/
def execSegEnd (g : Nat) (s : State) : Host.Outcome State Fault Refusal :=
  if s.dieOff (dieOf g) then .next s else
  match s.gate g (dType · == tySegEnd) false 0 1 with
  | .stay s => .next s
  | .go d0 =>
    let k := s.core g
    let d := applyOffsets d0 k.sq
    match s.headerFault g d, k.ctx with
    | some c, _ => .next (s.seqFault g c tySegEnd k.pc)
    | none, none => .next s
    | none, some c =>
      if !(k.seg.any fun q => q.id == C.segId d) then .next (s.seqFault g 5 tySegEnd k.pc)
      else match s.segAddr k.part (C.segId d) with
      | none => .next (s.seqFault g 3 tySegEnd k.pc)
      | some a =>
        let put := fun (r : Acc State) (b : Nat) (bs : List Byte) => match r with
          | .ok t => t.devWrite k.part .plain b bs
          | r => r
        match put (put (.ok (s.lookups g a 256)) (a + 8) (toLE 4 k.pc)) (a + 0x0E) (toLE 1 2) with
        | .bad b q => .next (s.accessFault g b q tySegEnd k.pc)
        | .wait _ => .next s
        | .ok s =>
          let keep := decide (0 < s.segPieces k.part (C.segId d))
          let s := (s.advance g).modCore g fun q => { q with seg := none }
          let s := s.modCtx k.part c fun x => { x with
            segPins := if keep then x.segPins.map fun p => if p.seg = C.segId d then { p with closed := true } else p
              else x.segPins.filter (·.seg != C.segId d) }
          .next (s.completeNow g d)

/-! ### Lines and reserved types -/

/-- DESCRIPTOR_LINE_ARRIVE: the line at the issue point arrives and issue goes on; when it is held, the next line is
fetched ahead of it (R92). A refused fetch is recorded in FRT_FAULT_INFO (R229), and stops the core where the descriptor is
the next to issue. A core that has stopped issuing fetches nothing. -/
def execDescriptorLineArrive (g : Nat) (s : State) : Host.Outcome State Fault Refusal :=
  if s.dieOff (dieOf g) then .next s else
  let k := s.core g
  if k.ctx.isNone || k.count ≤ k.pc || !(k.state == .issuing || k.state == .waiting) then .next s
  else
    let held := (k.fetched k.pc).isSome
    let l := if held then lineOf k.pc + 1 else lineOf k.pc
    if 8 * l ≥ k.count then .next s
    else
      let s := s.lookups g (k.base + 512 * l) 64
      match s.fetchLine g l with
      | none => .next s
      | some ds =>
        let s := ds.foldl (fun (s : State) e => match e with
          | .word _ => s
          | .refused a p => s.noteFault k.part (dieOf g) a p) s
        let s := s.modCore g fun k => { k.fillLine l ds with
          missing := false
          dcMisses := if held || k.missing then k.dcMisses else wrapAdd 32 k.dcMisses 1 }
        match (s.core g).fetched k.pc with
        | some (.refused _ p) => .next (s.seqFault g (if p then 8 else 3) 0 k.pc)
        | _ => .next s

/-- RESERVED_TYPE_DESCRIPTOR: a descriptor of a reserved type raises cause 0x01 (R8, R105). -/
def execReservedTypeDescriptor (g : Nat) (s : State) : Host.Outcome State Fault Refusal :=
  if s.dieOff (dieOf g) then .next s else
  match s.gate g (fun d => dType d == 0 || decide (14 ≤ dType d)) false 0 1 with
  | .stay s => .next s
  | .go d => .next (s.seqFault g 1 (dType d) (s.core g).pc)

end Sys2Proof.Machine
end

