-- ==== Sys2Proof/Machine/Course.lean ====
section
/-! DEFINITION. The courses (R248 to R259): flits and messages, retry and credits, training and retraining, and routes. A
message is sent whole when the credits and the retry buffer hold all of its flits. -/

namespace Sys2Proof.Machine

/-! ### Flits (R251, R252) -/

/-- The virtual channel of a message by its kind; all-to-all data is bulk (R255). -/
def vcOf (mkind : Nat) : Nat :=
  match mkind with
  | 0 | 2 => 1
  | 1 => 0
  | 6 | 7 => 2
  | _ => 3
/-- Receive buffer of a virtual channel, per class, in flits (R255). -/
def vcSize (vc : Nat) : Nat := [128, 256, 16, 128].getD vc 0
/-- Flits of a message. -/
def Msg.flitCount (m : Msg) : Nat := 1 + ceilDiv (m.data.length - 216) 248

/-- The 32-byte header of a message. -/
def Msg.header (m : Msg) : List Byte :=
  toLE 2 (m.src % 2 ^ 12 + m.srcPart % 16 * 2 ^ 12) ++ toLE 1 m.mkind ++ toLE 1 (m.op % 16 + m.fmt % 16 * 16)
    ++ toLE 2 m.core ++ toLE 2 m.group ++ toLE 4 m.cseq ++ toLE 4 m.count ++ toLE 4 m.offset ++ toLE 4 m.data.length
    ++ toLE 2 m.hop ++ toLE 1 (m.dstPart % 16) ++ toLE 1 m.reason ++ fill 4 0

/-- One flit. -/
def flitBytes (vc kind seq cls dst : Nat) (last : Bool) (payload : List Byte) : List Byte :=
  let b := toLE 4 (vc + kind * 4 + seq % 2048 * 16 + cls * 2 ^ 15 + ofBool last * 2 ^ 16 + dst % 2 ^ 12 * 2 ^ 17)
    ++ padTo 248 payload
  b ++ toLE 4 (crc32 b)

/-- The flits of a message from a sequence number on. -/
def Msg.flits (m : Msg) (seq : Nat) : List (Nat × List Byte) :=
  let n := m.flitCount
  let all := m.header ++ m.data
  (List.range n).map fun i =>
    ((seq + i) % 2048, flitBytes m.vc (if i = 0 then 1 else 0) (seq + i) m.cls m.dst (i + 1 == n) ((all.drop (248 * i)).take 248))

/-- The message that flits carry. -/
def Msg.ofFlits (fs : List (List Byte)) : Msg :=
  let w := leAt (fs.headD []) 0 4
  let all := fs.flatMap fun f => (f.drop 4).take 248
  { vc := field w 1 0, cls := field w 15 15, dst := field w 28 17
    src := field (leAt all 0 2) 11 0, srcPart := field (leAt all 0 2) 15 12, mkind := leAt all 2 1
    op := leAt all 3 1 % 16, fmt := leAt all 3 1 / 16, core := leAt all 4 2, group := leAt all 6 2, cseq := leAt all 8 4
    count := leAt all 12 4, offset := leAt all 16 4, hop := leAt all 24 2, dstPart := leAt all 26 1 % 16
    reason := leAt all 27 1, data := (all.drop 32).take (leAt all 20 4) }

/-! ### Sending (R253 to R255) -/

/-- Credits of a virtual channel and class. -/
def Port.room (p : Port) (vc cls : Nat) : Nat :=
  vcSize vc + Tab.get 0 p.freed (2 * vc + cls) - Tab.get 0 p.used (2 * vc + cls)

/-- Whether a message can be sent now. -/
def Port.canSend (p : Port) (m : Msg) : Bool :=
  p.state == 1 && decide (m.flitCount ≤ p.room m.vc m.cls) && decide (p.retry.length + m.flitCount ≤ 1024)

/-- A message is sent: its flits enter the retry buffer. -/
def Port.sendNow (p : Port) (q : Queued) : Port :=
  let m := q.msg
  { p with
    retry := p.retry ++ m.flits p.txSeq, held := p.held ++ [{ q with owed := false }]
    txSeq := (p.txSeq + m.flitCount) % 2048, txFlits := p.txFlits + m.flitCount
    used := Tab.update 0 p.used (2 * m.vc + m.cls) (· + m.flitCount) }

/-- The first message of a channel that can be sent: of each class the oldest. -/
def Port.firstOf (p : Port) (vc : Nat) : Option Queued :=
  [0, 1].findSome? fun c => match p.queue.find? fun q => q.msg.vc == vc && q.msg.cls == c with
    | some q => if p.canSend q.msg then some q else none
    | none => none

/-- The next message: control first, then by weighted round robin (R255). -/
def Port.next (p : Port) : Option (Queued × Port) :=
  match p.firstOf 2 with
  | some m => some (m, p)
  | none =>
    let ready := [(0, 0), (1, 1), (3, 2)].filterMap fun (vc, i) => (p.firstOf vc).map fun m => (m, i)
    match ready.find? fun e => 0 < p.turns.getD e.2 0 with
    | some (m, i) => some (m, { p with turns := p.turns.set i (p.turns.getD i 0 - 1) })
    | none => match ready with
      | [] => none
      | (m, i) :: _ =>
        let ws := [max 1 p.wBulk, max 1 p.wColl, max 1 p.wMirror]
        some (m, { p with turns := ws.set i (ws.getD i 1 - 1) })

/-- Messages are sent while any can be; the answer names them too. `n` bounds them. -/
def Port.pump (p : Port) : Nat → Port × List Queued
  | 0 => (p, [])
  | n + 1 => match p.next with
    | some (q, p) =>
      let (p', sent) := (({ p with queue := p.queue.erase q }).sendNow q).pump n
      (p', q :: sent)
    | none => (p, [])

/-- The receive buffer of `n` flits of a virtual channel and class is freed, and the credits are returned (R255). -/
def State.returnCredits (s : State) (c vc cls n : Nat) : State :=
  if c < 16 then s.modPort c fun p => { p with rxFreed := Tab.update 0 p.rxFreed (2 * vc + cls) (· + n) } else s

/-- The receive buffer of a forwarded message is freed: it has been sent on, or is dropped (R255). -/
def State.settleOwed (s : State) (q : Queued) : State :=
  match q.via with
  | some (c, cls) => if q.owed then s.returnCredits c q.msg.vc cls q.msg.flitCount else s
  | none => s

/-- A port sends what it can. -/
def State.pump (s : State) (c : Nat) : State :=
  let (p, sent) := (s.port c).pump (s.port c).queue.length
  sent.foldl (fun (s : State) q => s.settleOwed q) (s.modPort c fun _ => p)

/-- Unacknowledged flits of a port. -/
def Port.unacked (p : Port) : Nat := p.retry.length - p.acked

/-- Of some courses, the up one with the fewest unacknowledged flits and then the lowest number, or the first that is not
down (R254, R257). -/
def State.pickCourse (s : State) (cs : List Nat) : Option Nat :=
  let up := cs.filter fun c => (s.port c).state == 1
  match up with
  | c :: t => some (t.foldl (fun b c => if (s.port c).unacked < (s.port b).unacked then c else b) c)
  | [] => cs.find? fun c => (s.port c).state != 3

/-- The courses that the route table allows to a node (R259). -/
def State.routeCourses (s : State) (node : Nat) : List Nat :=
  let r := Tab.get 0 s.crs.routes node
  if bit r 31 then bitsOf 16 r else []

/-- The axis of a course: X, Y, Z, W, pair (R248). -/
def axisOf (c : Nat) : Nat := if c < 12 then c / 4 else if c < 14 then 3 else 4

/-- The class of a message on a course (R259). `via` is the course it arrived on and the class it arrived in. -/
def State.classFor (s : State) (via : Option (Nat × Nat)) (c : Nat) : Nat :=
  let cls := match via with
    | some (b, cls) => if axisOf b = axisOf c then cls else 0
    | none => 0
  if (s.port c).dateline then 1 else cls

/-- A message joins the queue of a course. -/
def State.enqueue (s : State) (c : Nat) (q : Queued) : State :=
  let m := { q.msg with cls := s.classFor q.via c }
  (s.modPort c fun p => { p with queue := p.queue ++ [{ q with msg := m }] }).pump c

/-- A message is sent toward its destination: over a preferred up course whose peer it is, or by the route table; a message
for the package itself is consumed locally (R258, R259, R263). None when no course may carry it. -/
def State.send (s : State) (m : Msg) (via : Option (Nat × Nat)) (prefer : List Nat) : Option State :=
  let m := { m with vc := vcOf m.mkind }
  if m.dst = s.crs.nodeId then some (s.modPort 16 fun p => { p with arrived := p.arrived ++ [m] })
  else
    let direct := prefer.filter fun c => (s.port c).state == 1 && (s.port c).peer == m.dst
    match s.pickCourse (if direct.isEmpty then s.routeCourses m.dst else direct) with
    | none => none
    | some c => some (s.enqueue c { msg := m, via := via, owed := via.isSome })

/-- The pair's courses to a node that are not down (R272). -/
def State.pairCourses (s : State) (node : Nat) : List Nat :=
  [14, 15].filter fun c => (s.port c).state != 3 && (s.port c).peer == node

/-- A message of the mirror or control channel to a pair partner or a fill's other side, over courses 14 and 15; none when
both are down. -/
def State.sendPair (s : State) (m : Msg) : Option State :=
  match s.pickCourse (s.pairCourses m.dst) with
  | none => none
  | some c => some (s.enqueue c { msg := { m with vc := vcOf m.mkind } })

/-- The largest data of a message (R252). -/
def msgMax : Nat := 16384
/-- The parts of a byte string that messages carry: offset and bytes. `n` bounds them. -/
def msgParts : Nat → Nat → List Byte → List (Nat × List Byte)
  | 0, _, _ => []
  | n + 1, off, bs =>
    if bs.length ≤ msgMax then [(off, bs)] else (off, bs.take msgMax) :: msgParts n (off + msgMax) (bs.drop msgMax)

/-- The refusal that answers a message (R252, R259, R261): it names the collective and, in hop, the kind refused. A message carries
at least 1 byte of data; DESIGN CHOICE: a refusal's is 0. -/
def State.refusalOf (s : State) (m : Msg) (reason : Nat) : Msg :=
  { mkind := 6, dst := m.src, dstPart := m.srcPart, src := s.crs.nodeId, srcPart := m.dstPart, op := m.op
    core := m.core, group := m.group, cseq := m.cseq, count := m.count, offset := m.offset, hop := m.mkind, reason := reason
    data := [0] }

/-- A message is refused; a refusal that cannot be sent is lost. -/
def State.sendRefusal (s : State) (m : Msg) (reason : Nat) : State :=
  (s.send (s.refusalOf m reason) none []).getD s

/-- The receive buffer of a message is freed and its credits are returned (R255). -/
def State.freeCredits (s : State) (c : Nat) (m : Msg) : State := s.returnCredits c m.vc m.cls m.flitCount

/-! ### Receiving (R253) -/

/-- Codewords enter the window of 2^20 in which a course counts those that cannot be corrected (R257). DESIGN CHOICE: windows follow
one another, and one in which more than fec_limit failed lasts until the course retrains (log 185). -/
def Port.window (p : Port) (e : FecCount) : Port :=
  let words := p.fecWords + e.corrected + e.uncorrected + e.clean
  let bad := p.fecBad + e.uncorrected
  if 2 ^ 20 ≤ words && decide (bad ≤ p.fecLimit) then { p with fecWords := 0, fecBad := 0 }
  else { p with fecWords := words, fecBad := bad }

/-- Codewords that the FEC decoder has met are counted, and Luthier takes those not correctable (R257, R277, R361). -/
def State.countFec (s : State) (c : Nat) (e : FecCount) : State :=
  let s := s.modPort c fun p => ({ p with
    fecCorrected := satAdd 32 p.fecCorrected e.corrected
    fecUncorrected := satAdd 32 p.fecUncorrected e.uncorrected } : Port).window e
  if e.uncorrected = 0 then s
  else { s with lth := { s.lth with uncorrected := Tab.update 0 s.lth.uncorrected c (· + e.uncorrected) } }

/-- FLIT_RECEIVE: the codewords that brought it are counted; a flit with a wrong CRC, or a numbered one out of sequence, is discarded and answered with a negative
acknowledgement; one in sequence is accepted, and the last flit of a message makes it whole (R253, R254). -/
def execFlitReceive (c : Nat) (f : Flit) (s : State) : Host.Outcome State Fault Refusal :=
  if s.dieOff (c % 4) then .next s else
  let p := s.port c
  if 16 ≤ c || p.state != 1 then .next s
  else
    let s := s.countFec c f.fec
    let flit := f.bytes
    let w := leAt flit 0 4
    if flit.length != 256 || leAt flit 252 4 != crc32 (flit.take 252) then
      .next (s.modPort c fun p => { p with
        crcErrors := satAdd 16 p.crcErrors 1, naks := satAdd 16 p.naks 1, rxDrop := true })
    else if 2 ≤ field w 3 2 then .next s
    else if field w 14 4 != p.rxSeq then
      .next (if p.rxDrop then s
        else s.modPort c fun p => { p with naks := satAdd 16 p.naks 1, rxDrop := true })
    else
      let k := 2 * field w 1 0 + field w 15 15
      let fs := Tab.get [] p.partial_ k ++ [flit]
      let whole := bit w 16
      .next (s.modPort c fun p => { p with
        rxSeq := (p.rxSeq + 1) % 2048, rxDrop := false, rxFlits := p.rxFlits + 1
        partial_ := Tab.set [] p.partial_ k (if whole then [] else fs)
        arrived := if whole then p.arrived ++ [Msg.ofFlits fs] else p.arrived })

/-- Messages whose last flit is acknowledged are released; `n` bounds them. -/
def Port.release (p : Port) : Nat → Port
  | 0 => p
  | n + 1 => match p.held with
    | q :: t =>
      let k := q.msg.flitCount
      if k ≤ p.acked then ({ p with held := t, retry := p.retry.drop k, acked := p.acked - k }).release n
      else p
    | [] => p

/-- The flits before a sequence number are acknowledged (R253). -/
def Port.ack (p : Port) (seq : Nat) : Port :=
  let k := if seq = p.txSeq then p.retry.length else p.retry.findIdx (·.1 == seq)
  if k = p.retry.length && seq != p.txSeq then p
  else if p.acked < k then ({ p with acked := k, nakRuns := 0 }).release p.held.length else p

/-- LINK_CONTROL_FLIT: an acknowledgement releases messages, a negative one also asks for a resend from its number, and a
credit count lets waiting messages go (R253, R255, R257). -/
def execLinkControlFlit (c : Nat) (control : LinkControl) (s : State) : Host.Outcome State Fault Refusal :=
  if s.dieOff (c % 4) then .next s else
  if 16 ≤ c || (s.port c).state != 1 then .next s
  else match control with
    | .ack seq => .next ((s.modPort c fun p => p.ack seq).pump c)
    | .nak seq =>
      .next ((s.modPort c fun p =>
        let q := p.ack seq
        { q with nakSeq := seq, nakRuns := if q.nakSeq = seq && q.acked = p.acked then q.nakRuns + 1 else 1 }).pump c)
    | .credit vc cls total =>
      .next ((s.modPort c fun p => { p with freed := Tab.update 0 p.freed (2 * (vc % 4) + cls % 2) (max total) }).pump c)

/-! ### Training (R256, R257) -/

/-- The options of a rate, in order: lanes mask and width code. -/
def laneOptions : List (Nat × Nat) :=
  [(0xFF, 4), (0x0F, 3), (0xF0, 3), (0x03, 2), (0x0C, 2), (0x30, 2), (0xC0, 2),
   (0x01, 1), (0x02, 1), (0x04, 1), (0x08, 1), (0x10, 1), (0x20, 1), (0x40, 1), (0x80, 1)]

/-- The options that a course may try, in order: rate, lanes and width; those cleared in CRS_PORT_CTRL are skipped. -/
def Port.options (p : Port) : List (Nat × Nat × Nat) :=
  [0, 1].flatMap fun r =>
    if bit p.rates (1 - r) then (laneOptions.filter fun o => bit p.widths (o.2 - 1)).map fun o => (r, o.1, o.2) else []

/-- A course starts to train: it carries nothing, incomplete messages are discarded, and both directions start afresh. -/
def Port.startTraining (p : Port) (state : Nat) : Port :=
  { p with
    state := state, attempt := 0, fecWords := 0, fecBad := 0, retry := [], acked := 0, held := [], nakSeq := 0, nakRuns := 0
    txSeq := 0, rxSeq := 0, rxDrop := false, partial_ := [], used := [], freed := [], rxFreed := [] }

/-- The messages of a course that retrains are sent again, each whole, on another up course allowed for its destination, or
wait for the retraining (R257). Those with flits sent before are counted. -/
def State.resendAll (s : State) (c : Nat) : List (Queued × Bool) → State
  | [] => s
  | (q, sent) :: t =>
    let m := q.msg
    let routes := s.routeCourses m.dst
    let up := (List.range 16).filter fun b => b != c && (s.port b).state == 1
      && (routes.contains b || axisOf b == axisOf c && (s.port b).peer == (s.port c).peer && (s.port c).peer == m.dst)
    match s.pickCourse up with
    | some b =>
      let s := s.enqueue b q
      (if sent then s.modPort c fun p => { p with resent := satAdd 16 p.resent 1 } else s).resendAll c t
    | none => (s.modPort c fun p => { p with queue := p.queue ++ [q] }).resendAll c t

/-- A course retrains: what it holds is moved, and the first option is tried. -/
def State.retrainCourse (s : State) (c : Nat) : State :=
  let p := s.port c
  let s := s.modPort c fun p => { (p.startTraining 2) with queue := [] }
  s.resendAll c (p.held.map (·, true) ++ p.queue.map (·, false))

/-- Whether a course has cause to retrain for a reason (R257). -/
def Port.mayRetrain (p : Port) : RetrainReason → Bool
  | .naks => decide (8 ≤ p.nakRuns)
  | .fecErrors => decide (p.fecLimit < p.fecBad)
  | .fecLock => true

/-- COURSE_RETRAIN: a course that is up retrains in service (R257, R361). -/
def execCourseRetrain (c : Nat) (reason : RetrainReason) (s : State) : Host.Outcome State Fault Refusal :=
  if s.dieOff (c % 4) then .next s else
  let p := s.port c
  if 16 ≤ c || p.state != 1 || !p.mayRetrain reason then .next s
  else
    let s := s.modPort c fun p => { p with retrains := satAdd 16 p.retrains 1 }
    .next ((s.retrained.retrainCourse c).settleBridges)

end Sys2Proof.Machine
end

