-- ==== Sys2Proof/Machine/Update.lean ====
section
/-! DEFINITION. Weight versions (R201 to R208) and the UPDATE pass (R209 to R218), with the records that a bound package
ships (R273, R275). An UPDATE advances by parts of 131,072 elements, of which each array takes at most one page. -/

namespace Sys2Proof.Machine

/-! ### UPDATE fields (R105) -/
namespace U
/-- param. -/
def param (d : Nat) : Nat := d48 d 8
/-- grad. -/
def grad (d : Nat) : Nat := d48 d 14
/-- mom1. -/
def mom1 (d : Nat) : Nat := d48 d 20
/-- mom2. -/
def mom2 (d : Nat) : Nat := d48 d 26
/-- Address of the freeze mask; 0 for none. -/
def mask (d : Nat) : Nat := d48 d 32
/-- Address of the hyperparameter block. -/
def hyper (d : Nat) : Nat := d48 d 38
/-- Element count. -/
def count (d : Nat) : Nat := d32 d 44
/-- rule. -/
def rule (d : Nat) : Nat := dfield d 48 1 0
/-- nesterov. -/
def nesterov (d : Nat) : Bool := bit d (8 * 48 + 2)
/-- clip. -/
def clip (d : Nat) : Bool := bit d (8 * 48 + 3)
/-- seed_reg. -/
def seedReg (d : Nat) : Nat := dfield d 48 7 4
/-- param_fmt. -/
def paramFmt (d : Nat) : Fmt := (Fmt.ofCode (dfield d 49 3 0)).getD .sbf
/-- grad_fmt. -/
def gradFmt (d : Nat) : Fmt := (Fmt.ofCode (dfield d 49 7 4)).getD .sbf
/-- mom_fmt. -/
def momFmt (d : Nat) : Fmt := (Fmt.ofCode (dfield d 50 3 0)).getD .sbf
end U

/-- Bytes of an element of a whole-byte format. -/
def fmtBytes (f : Fmt) : Nat := f.width / 8

/-- The arrays that an UPDATE writes: address and bytes per element; param, then mom1, then mom2 (R209). -/
def updRanges (d : Nat) : List (Nat × Nat) :=
  let wm := fmtBytes (U.momFmt d)
  [(U.param d, fmtBytes (U.paramFmt d))] ++ (if 1 ≤ U.rule d then [(U.mom1 d, wm)] else [])
    ++ (if U.rule d = 2 then [(U.mom2 d, wm)] else [])

/-- Whether an element is a resume point: every range that the UPDATE writes is at a page boundary there (R208). -/
def updResumes (d k : Nat) : Bool := (updRanges d).all fun (a, w) => (a + k * w) % pageBytes == 0

/-- Elements of the part that starts at `k`. -/
def updPart (d k : Nat) : Nat := min 131072 (U.count d - k)

/-- Whether the formats are those of R209. -/
def updFormatsOk (d : Nat) : Bool :=
  [Fmt.fp32, .bf16, .fp16].contains (U.paramFmt d) && [Fmt.fp32, .bf16, .fp16, .e4m3, .e5m2].contains (U.gradFmt d)
    && (U.rule d == 0 || [Fmt.fp32, .bf16].contains (U.momFmt d))

/-! ### Hyperparameters (R210) -/

/-- An FP32 field of the block. -/
def hyp (h : List Byte) (off : Nat) : Fp := f32.decode (leAt h off 4)
/-- norm_addr. -/
def hypNorm (h : List Byte) : Nat := leAt h 0x28 8 % 2 ^ 41
/-- param_id. -/
def hypParam (h : List Byte) : Nat := leAt h 0x30 4
/-- Rounding mode code of param. -/
def hypRound (h : List Byte) : Nat := leAt h 0x34 1 % 4
/-- Rounding mode code of the moments. -/
def hypMomRound (h : List Byte) : Nat := leAt h 0x34 1 / 4 % 4
/-- elem_base. -/
def hypBase (h : List Byte) : Nat := leAt h 0x38 8 % 2 ^ 40
/-- Whether the rounding modes are not reserved (R210). -/
def hypOk (d : Nat) (h : List Byte) : Bool := hypRound h != 3 && (U.rule d == 0 || hypMomRound h != 3)

/-- The clip factor of R218 for the bits of S: FP32 bits of c, or none to skip. -/
def clipFactor (h : List Byte) (sBits : Nat) : Option Nat :=
  let x := f64.decode sBits
  if x.isNan || x.isInf then none
  else
    let n := rne32 (rne64 x.sqrt)
    let gn := rne32 ((hyp h 0x14).mul n)
    let maxNorm := hyp h 0x18
    some (if Fp.le gn maxNorm then f32.encode .rne false 0 .one
      else f32.encode .rne false 0 (rne32 (Fp.div maxNorm (rne32 (gn.add (hyp h 0x1C))))))

/-! ### One element (R211 to R213) -/

/-- sign of R211: +1, −1, +0; NaN stays NaN. -/
def signOf (x : Fp) : Fp := if x.isNan then .nan else if x.isZero then .zero else if x.signBit then Fp.one.neg else .one

/-- The draw of an element for array `which` (R213). -/
def updDraw (h : List Byte) (seed : W64) (which k : Nat) : Nat :=
  let i := hypBase h + k
  DrawAt.bits seed { tensor := hypParam h + which, redBlock := i / 2 ^ 32 % 2 ^ 8, purpose := 5, draw := i % 2 ^ 32 }

/-- Conversion of a result of R211. -/
def updConvert (f : Fmt) (mode : Nat) (h : List Byte) (seed : W64) (which k : Nat) (x : Fp) : Nat :=
  match RMode.ofCode mode with
  | some .sr => convert f .sr true (updDraw h seed which k) x
  | some m => convert f m true 0 x
  | none => convert f .rne true 0 x

/-- update_element of R211 for an element that is neither frozen nor skipped: the bits of param and of the moments. `w`,
`g`, `m1` and `m2` are the bits read; `c` is the clip factor's bits. -/
def updElement (d : Nat) (h : List Byte) (seed : W64) (c k w g m1 m2 : Nat) : Nat × Nat × Nat :=
  let pf := U.paramFmt d
  let mf := U.momFmt d
  let mul := fun (a b : Fp) => rne32 (a.mul b)
  let add := fun (a b : Fp) => rne32 (a.add b)
  let beta1 := hyp h 4
  let beta2 := hyp h 8
  let omb1 := rne32 (Fp.one.sub beta1)
  let omb2 := rne32 (Fp.one.sub beta2)
  let wv := pf.decode w
  let g0 := mul (U.gradFmt d |>.decode g) (hyp h 0x14)
  let gv := if U.clip d then mul g0 (f32.decode c) else g0
  let a1 := mf.decode m1
  let a2 := mf.decode m2
  let (u, n1, n2) : Fp × Fp × Fp := match U.rule d with
    | 0 => (gv, .zero, .zero)
    | 1 =>
      let x := add (mul beta1 a1) gv
      (if U.nesterov d then add gv (mul beta1 x) else x, x, .zero)
    | 2 =>
      let x := add (mul beta1 a1) (mul omb1 gv)
      let y := add (mul beta2 a2) (mul omb2 (mul gv gv))
      let den := add (rne32 (mul y (hyp h 0x24)).sqrt) (hyp h 0x0C)
      (rne32 (Fp.div (mul x (hyp h 0x20)) den), x, y)
    | _ => (signOf (add (mul beta1 a1) (mul omb1 gv)), add (mul beta2 a1) (mul omb2 gv), .zero)
  let wd := hyp h 0x10
  let dv := if wd.isZero then u else add u (mul wd wv)
  let w1 := rne32 (wv.sub (mul (hyp h 0) dv))
  (updConvert pf (hypRound h) h seed 0 k w1,
   if U.rule d = 0 then m1 else updConvert mf (hypMomRound h) h seed 1 k n1,
   if U.rule d = 2 then updConvert mf (hypMomRound h) h seed 2 k n2 else m2)

/-- The little-endian words of `w` bytes that a byte string holds; `n` bounds their number. -/
def wordsLE (w : Nat) : Nat → List Byte → List Nat
  | 0, _ => []
  | n + 1, bs => ofLE (bs.take w) :: wordsLE w n (bs.drop w)

/-- The elements of a part: the new bits of param, mom1 and mom2. `frozen` tells which elements stay as they are. -/
def updElements (d : Nat) (h : List Byte) (seed : W64) (c : Nat) (frozen : Nat → Bool) :
    Nat → List Nat → List Nat → List Nat → List Nat → List (Nat × Nat × Nat)
  | k, w :: ws, g :: gs, a :: as, b :: bs =>
    (if frozen k then (w, a, b) else updElement d h seed c k w g a b) :: updElements d h seed c frozen (k + 1) ws gs as bs
  | _, _, _, _, _ => []

/-! ### Claims (R206, R207) -/

/-- What a claim of a page's other buffer finds. -/
inductive Claim where
  | own                        -- the writer holds it already
  | free (buffer : Nat)
  | pin
  | drain
  | busy                       -- another writer holds it
  deriving DecidableEq, Repr

/-- A writer asks for a versioned page's other buffer (R207). One whose claim was abandoned is claimed anew: version vn − 1 has not
been readable since that claim, so no pin guards it. -/
def State.claimTest (s : State) (n : Nat) (w : Writer) (x : Nat) : Claim :=
  let (_, other, vn, readable) := s.versions n x
  match s.frt.claims.find? (·.1 == other) with
  | some (_, some v) => if v = w then .own else .busy
  | some (_, none) => .free other
  | none =>
    if !readable then .free other
    else if eDrain (s.entry other) then .drain
    else match s.ctx n w.ctx with
      | some y => if y.pins ((vn + 15) % 16) = 0 then .free other else .pin
      | none => .free other

/-- A wait of R207 is counted: on a pin, or on a drain. -/
def State.countWait (s : State) (n c g : Nat) (drain : Bool) : State :=
  let s := s.modCore g fun k =>
    if drain then { k with drainWaits := satAdd 8 k.drainWaits 1 } else { k with verWaits := satAdd 16 k.verWaits 1 }
  s.modCtx n c fun x =>
    if drain then { x with drainWaits := satAdd 16 x.drainWaits 1 } else { x with pinWaits := satAdd 16 x.pinWaits 1 }

/-- A buffer is claimed by a writer. -/
def State.claim (s : State) (w : Writer) (other : Nat) : State :=
  s.modFrt fun f => { f with claims := (other, some w) :: f.claims.filter (·.1 != other) }

/-- The claims of writers that are gone have no writer any more; their buffers' old versions stay unreadable (R207). -/
def State.abandonClaims (s : State) (gone : Writer → Bool) : State :=
  s.modFrt fun f => { f with claims := f.claims.map fun e => (e.1, e.2.filter fun w => !gone w) }

/-- A writer prepares to write a page: it claims the other buffer of a versioned one, and finds whether a plain one waits
for its drain. The answer is the page's wait, if it waits, and whether that is on a drain or a pin to be counted. -/
def State.preparePage (s : State) (n : Nat) (w : Writer) (x : Nat) : State × Option (Option Bool) :=
  if s.inWindow n (x * pageBytes) then
    match s.claimTest n w x with
    | .own => (s, none)
    | .free other => (s.claim w other, none)
    | .pin => (s, some (some false))
    | .drain => (s, some (some true))
    | .busy => (s, some none)
  else if eDrain (s.entry x) then (s, some (some true))
  else (s, none)

/-- The pages of a list are prepared in order up to the first that waits. The answer is that page, and whether its wait has been
counted; one for another writer is not, and is counted should it turn into a wait on a pin or a drain. `seen` is the answer before. -/
def State.preparePages (s : State) (n : Nat) (w : Writer) (seen : List (Nat × Bool)) : List Nat → State × List (Nat × Bool)
  | [] => (s, [])
  | x :: t =>
    match s.preparePage n w x with
    | (s, none) => s.preparePages n w seen t
    | (s, some none) => (s, [(x, seen.contains (x, true))])
    | (s, some (some drain)) => (if seen.contains (x, true) then s else s.countWait n w.ctx w.core drain, [(x, true)])

/-- The entry that a writer's bytes in a page go to: of the claimed buffer, or of the plain page (R206). -/
def State.writeEntry (s : State) (n x : Nat) : Nat :=
  if s.inWindow n (x * pageBytes) then (s.versions n x).2.1 else x

/-- A write of a writer of R206: checked and stored page by page, and the rest of a last page copied from the newest
buffer (`last`). It waits until the host has given up the page's lines (R246). -/
def State.writerPut (s : State) (n a : Nat) (bs : List Byte) (last : Bool) : Acc State :=
  let x := pageOf a
  let y := s.writeEntry n x
  if a ≥ 2 ^ 41 || s.inShadow a then .bad a false
  else if s.frt.pageSnooped x then .wait a
  else match s.answered y a true (checkEntry (s.entry y) n a true .plain) with
    | .bad b p => .bad b p
    | .wait b => .wait b
    | .ok e =>
      let s1 := s.storeUnder e a bs
      let stop := a % pageBytes + bs.length
      if last && s.inWindow n a then
        match s.devRead n .plain .newest (x * pageBytes + stop) (pageBytes - stop) with
        | .ok rest => .ok (s1.storeUnder e (x * pageBytes + stop) rest)
        | .bad b p => .bad b p
        | .wait b => .wait b
      else .ok s1

/-- A versioned page advances: the claimed buffer holds the newest version (R206). -/
def State.advancePage (s : State) (n x : Nat) : State :=
  if s.inWindow n (x * pageBytes) then
    let (_, other, vn, _) := s.versions n x
    let s := s.setEntry other (setField (s.entry other) 47 44 ((vn + 1) % 16))
    s.modFrt fun f => { f with claims := f.claims.filter (·.1 != other) }
  else s

/-! ### The pair's owned range (R272, R273) -/

/-- Whether a package ships the UPDATEs of a context: its partition is bound with that context. -/
def State.ships (s : State) (n c : Nat) : Bool := (s.pair n).state == 2 && (s.pair n).ctx == c

/-- Whether a byte range lies in the owned range: the version window outside the mirror, or the plain range of moments. -/
def State.owned (s : State) (n a len : Nat) : Bool :=
  let p := s.pair n
  let stop := a + len - 1
  let mstop := p.mirrorBase + p.mirrorPages * pageBytes
  (s.inWindow n a && s.inWindow n stop && (decide (stop < p.mirrorBase) || decide (mstop ≤ a)))
    || (inPages p.plainBase p.plainPages a && inPages p.plainBase p.plainPages stop)

/-- An owned address as a record gives it: an offset into the owned window, which leaves the mirror out, or with bit 47 set
one into the plain range. -/
def State.ownedOffset (s : State) (n a : Nat) : Nat :=
  let p := s.pair n
  let base := (s.part n).vwinBase
  if inPages p.plainBase p.plainPages a then 2 ^ 47 + (a - p.plainBase)
  else if p.mirrorPages != 0 && decide (p.mirrorBase ≤ a) then a - base - p.mirrorPages * pageBytes
  else a - base

/-! ### Issue, start and progress -/

/-- Whether a byte range meets the primary range of a partition's version window. -/
def State.meetsWindow (s : State) (n a len : Nat) : Bool :=
  let q := s.part n
  len != 0 && decide (a < q.vwinBase + q.vwinPages * pageBytes) && decide (q.vwinBase < a + len)

/-- The faults of an UPDATE at issue (R91, R206, R209, R273). DEDUCED: an UPDATE none of whose ranges meets the version window is
no writer of R206, and its ranges start where they like (log 172). -/
def State.updFault (s : State) (p c d : Nat) : Option Nat :=
  let rs := (updRanges d).map fun (a, w) => (a, w * U.count d)
  if !updFormatsOk d then some 1
  else if (rs.any fun (a, len) => s.meetsWindow p a len) && rs.any fun (a, len) => a % pageBytes != 0 && len != 0 then some 3
  else if s.ships p c && rs.any fun (a, len) => len != 0 && !s.owned p a len then some 3
  else if rs.any fun (a, len) => len != 0 && s.meetsProgram p a len then some 4
  else none

/-- Bytes that carry the freeze mask of `m` elements. -/
def maskBytes (m : Nat) : Nat := ceilDiv m 8

/-- What a record of R273 holds before its gradient: descriptor, with offsets for addresses, hyperparameters, seed, S, core
and index: 144 bytes. DESIGN CHOICE: the order of its parts, which the manual does not give. -/
def State.recordHead (s : State) (n g index d : Nat) (hyper : List Byte) (seed : W64) (norm : Nat) : List Byte :=
  let d := dset d 8 47 0 (s.ownedOffset n (U.param d))
  let d := if 1 ≤ U.rule d then dset d 20 47 0 (s.ownedOffset n (U.mom1 d)) else d
  let d := if U.rule d = 2 then dset d 26 47 0 (s.ownedOffset n (U.mom2 d)) else d
  (toLE 64 d).drop 8 ++ padTo 64 hyper ++ toLE 8 seed.toNat ++ toLE 8 norm ++ toLE 2 g ++ toLE 2 index ++ fill 4 0

/-- An UPDATE of the bound context ships its record as it ends (R273): header, gradient elements, freeze-mask bits. DESIGN CHOICE:
its messages carry the step's number, modulo 2^16, in hop, which the manual gives only to collectives. -/
def State.shipRecord (s : State) (n c g : Nat) (i : Issued) (u : UpdRun) : State :=
  let d := i.desc
  let sel := { s.core g with sq := i.regs }.sel
  let bytes := fun (r : Acc (List Byte)) => match r with
    | .ok bs => bs
    | _ => []
  let grad := bytes (s.devRead n .plain sel (U.grad d) (U.count d * fmtBytes (U.gradFmt d)))
  let mask := if U.mask d = 0 then [] else bytes (s.devRead n .plain sel (U.mask d) (maskBytes (U.count d)))
  let (index, step) := match s.ctx n c with
    | some x => ((x.core g).upd.getD 0, x.step.toNat)
    | none => (0, 0)
  let rec_ := s.recordHead n g index d u.hyper u.seed u.norm ++ grad ++ mask
  let p := s.pair n
  let s := s.modCtxCore n c g fun y => { y with upd := some (index + 1) }
  let s := s.modPair n fun p => { p with shipped := wrapAdd 32 p.shipped 1, sentCount := p.sentCount + 1 }
  (msgParts (rec_.length / msgMax + 1) 0 rec_).foldl (fun s (off, bs) =>
    let m : Msg := {
      mkind := 3, dst := p.node, dstPart := p.npart, src := s.crs.nodeId, srcPart := n, core := g, cseq := index
      count := rec_.length, offset := off, hop := step % 2 ^ 16, data := bs }
    (s.sendPair m).getD s) s

/-- The claims of a descriptor of the context that runs on a core are abandoned. -/
def State.dropWriter (s : State) (g index : Nat) : State :=
  s.abandonClaims fun w => w.core == g && (s.core g).ctx == some w.ctx && w.index == index

/-- An UPDATE that a refused access stops: its descriptor does not complete (R215), and the vector unit goes on with what waits. -/
def State.updStopAt (s : State) (g : Nat) (i : Issued) (addr : Nat) (poison : Bool) : State :=
  (((s.modCore g fun k => { k with issued := k.issued.filter (·.serial != i.serial) }).dropWriter g i.index).accessFault g addr
    poison tyUpdate i.index).runVecs g

/-- An UPDATE starts: it reads its hyperparameter block and, with clip, S (R210, R218). -/
def State.updStart (s : State) (g : Nat) (i : Issued) (u : UpdRun) : State :=
  let k := s.core g
  let d := i.desc
  let sel := { k with sq := i.regs }.sel
  match s.devRead k.part .plain sel (U.hyper d) 64 with
  | .bad a p => s.updStopAt g i a p
  | .wait _ => s
  | .ok h =>
    if !hypOk d h then
      ((s.modCore g fun k => { k with issued := k.issued.filter (·.serial != i.serial) }).seqFault g 1 tyUpdate i.index).runVecs g
    else
      let u := { u with hyper := h, seed := i.regs.getD (U.seedReg d) 0 }
      if !U.clip d then s.setWork g i.serial (.update u)
      else match s.devRead k.part .plain sel (hypNorm h) 8 with
        | .bad a p => s.updStopAt g i a p
        | .wait _ => s
        | .ok bs =>
          let f := clipFactor h (ofLE bs)
          let s := s.modCore g fun k => { k with
            updNorm := ofLE bs, normSkips := if f.isNone then satAdd 8 k.normSkips 1 else k.normSkips }
          s.setWork g i.serial (.update { u with norm := ofLE bs, skip := f.isNone, clipFactor := f.getD 0 })

/-- The pages that the part at `k` writes, array by array. -/
def updPages (d k : Nat) : List Nat := (updRanges d).flatMap fun (a, w) => (pieces (a + k * w) (updPart d k * w)).map (pageOf ·.1)

/-- The elements of a part, from the arrays as they stand: new bits by array, and how many elements were frozen. -/
def State.updCompute (s : State) (n d k : Nat) (u : UpdRun) (grad mask : Acc (List Byte)) :
    Acc (List (List Nat) × Nat) :=
  let m := updPart d k
  let wp := fmtBytes (U.paramFmt d)
  let wm := fmtBytes (U.momFmt d)
  let get := fun (a w : Nat) => s.devRead n .plain .newest (a + k * w) (m * w)
  match get (U.param d) wp, grad, mask, (if 1 ≤ U.rule d then get (U.mom1 d) wm else .ok []),
      (if U.rule d = 2 then get (U.mom2 d) wm else .ok []) with
  | .ok ps, .ok gs, .ok fs, .ok as, .ok bs =>
    let zeros := List.replicate m 0
    let frozenBit := fun j => U.mask d != 0 && bit (leAt fs (j / 8) 1) (j % 8)
    let frozen := fun j => u.skip || frozenBit (j - k)
    let out := updElements d u.hyper u.seed u.clipFactor frozen k (wordsLE wp m ps)
      (wordsLE (fmtBytes (U.gradFmt d)) m gs) (if 1 ≤ U.rule d then wordsLE wm m as else zeros)
      (if U.rule d = 2 then wordsLE wm m bs else zeros)
    .ok ([out.map (·.1)] ++ (if 1 ≤ U.rule d then [out.map (·.2.1)] else [])
        ++ (if U.rule d = 2 then [out.map (·.2.2)] else []),
      ((List.range m).filter frozenBit).length)
  | .bad a p, _, _, _, _ | _, .bad a p, _, _, _ | _, _, .bad a p, _, _ | _, _, _, .bad a p, _ | _, _, _, _, .bad a p => .bad a p
  | _, _, _, _, _ => .wait 0

/-- A run of a writer's bytes, page by page. -/
def State.writerPuts (s : State) (n a : Nat) (bs : List Byte) (last : Bool) : Acc State :=
  (pieces a bs.length).foldl (fun (r : Acc State) (b, m) => match r with
    | .ok t => t.writerPut n b ((bs.drop (b - a)).take m) (last && b + m == a + bs.length)
    | r => r) (.ok s)

/-- The new bits of a part are written, array by array, and every page whose last byte this is advances (R206). -/
def State.updWrite (s : State) (n d k : Nat) (out : List (List Nat)) : Acc State :=
  let m := updPart d k
  let last := k + m == U.count d
  let puts := (updRanges d).zip out
  let r := puts.foldl (fun (r : Acc State) ((a, w), xs) => match r with
    | .ok t => t.writerPuts n (a + k * w) (xs.flatMap (toLE w)) last
    | r => r) (.ok s)
  match r with
  | .ok t => .ok (puts.foldl (fun t ((a, w), _) =>
      let stop := a + (k + m) * w
      if last || stop % pageBytes = 0 then t.advancePage n (pageOf (a + k * w)) else t) t)
  | r => r

/-- The CRC-64 of an UPDATE that has been applied (R275): elem_base, then what param, mom1 and mom2 now hold. -/
def State.updCrc (s : State) (n d : Nat) (hyper : List Byte) : Nat :=
  crc64 (toLE 8 (hypBase hyper) ++ (updRanges d).flatMap fun (a, w) =>
    match s.devRead n .plain .newest a (w * U.count d) with
    | .ok bs => bs
    | _ => [])

/-- The running UPDATE of a core completes. -/
def State.updEnd (s : State) (g : Nat) (i : Issued) (u : UpdRun) : State :=
  let k := s.core g
  let (e, s) := s.draw
  let s := s.modCore g fun k => { k with
    updPasses := wrapAdd 24 k.updPasses 1, vecItems := wrapAdd 32 k.vecItems 1
    vecBusy := k.vecBusy + Config.elapsedCycles e }
  let s := match k.ctx with
    | some c => if s.ships k.part c then
        let crc := s.updCrc k.part i.desc u.hyper
        (s.shipRecord k.part c g i u).modPair k.part fun p => { p with checksum := Nat.xor p.checksum crc }
      else s
    | none => s
  (s.complete g i.serial).runVecs g

/-- One part of a core's running UPDATE is computed and written. -/
def State.updPartRun (s : State) (g : Nat) (i : Issued) (u : UpdRun) : State :=
  let q := s.core g
  let d := i.desc
  let sel := { q with sq := i.regs }.sel
  let m := updPart d u.k
  let wg := fmtBytes (U.gradFmt d)
  let grad := s.devRead q.part .plain sel (U.grad d + u.k * wg) (m * wg)
  let mask := if U.mask d = 0 then .ok [] else s.devRead q.part .plain sel (U.mask d + u.k / 8) (maskBytes m)
  match s.updCompute q.part d u.k u grad mask with
  | .bad a p => s.updStopAt g i a p
  | .wait _ => s
  | .ok (out, frozen) =>
    match s.updWrite q.part d u.k out with
    | .bad a p => s.updStopAt g i a p
    | .wait _ => s
    | .ok s =>
      let s := s.modCore g fun k => { k with
        updElements := wrapAdd 40 k.updElements m, frozen := wrapAdd 64 k.frozen frozen }
      s.setWork g i.serial (.update { u with k := u.k + m })

/-- Whether the part at which an UPDATE stands writes a versioned page. -/
def State.updVersioned (s : State) (n d k : Nat) : Bool := (updPages d k).any fun x => s.inWindow n (x * pageBytes)

/-- The kept descriptors, in program order, and the resume point of R311: the first of them (R208). -/
def Core.withResumes (q : Core) (rs : List (Issued × Nat)) : Core :=
  { q with resumes := rs, resumePoint := rs.head?.map fun e => (e.1.index, e.2) }

/-- An UPDATE or COLL leaves the core at a resume point and is kept as it stands (R208). -/
def State.keepResume (s : State) (g : Nat) (i : Issued) (k : Nat) : State :=
  s.modCore g fun q =>
    ({ q with issued := q.issued.filter (·.serial != i.serial) } : Core).withResumes
      ((q.resumes.filter fun (e : Issued × Nat) => decide (e.1.serial < i.serial)) ++ (i, k)
        :: q.resumes.filter fun (e : Issued × Nat) => !decide (e.1.serial < i.serial))

/-- The first kept descriptor is issued again as it stood, and the next one kept is the resume point (R208). -/
def State.takeResume (s : State) (g : Nat) (i : Issued) : State :=
  s.modCore g fun q =>
    ({ q with serial := q.serial + 1, issued := q.issued ++ [{ i with serial := q.serial }] } : Core).withResumes (q.resumes.drop 1)

/-- A stop request reaches the running UPDATE at a resume point (R208): it leaves the core. -/
def State.updSuspend (s : State) (g : Nat) : State :=
  let k := s.core g
  match k.runningUpdate with
  | some (i, u) =>
    if k.stopReq && !u.hyper.isEmpty && updResumes i.desc u.k then s.keepResume g i u.k else s
  | none => s

/-- The running UPDATE goes on as far as it can without a version advance: it starts, prepares the pages of its part, and
runs parts that write no versioned page. `fuel` bounds the parts. -/
def State.updProceed (s : State) (g : Nat) : Nat → State
  | 0 => s
  | fuel + 1 =>
    let s := s.updSuspend g
    let k := s.core g
    match k.runningUpdate, k.ctx with
    | some (i, u), some c =>
      if u.hyper.isEmpty then
        let s := s.updStart g i u
        match (s.core g).runningUpdate with
        | some (_, v) => if v.hyper.isEmpty then s else s.updProceed g fuel
        | none => s
      else if u.k ≥ U.count i.desc then (s.updEnd g i u).updProceed g fuel
      else
        let (s, waits) := s.preparePages k.part { core := g, ctx := c, index := i.index } u.waiting (updPages i.desc u.k)
        let u := { u with waiting := waits }
        let s := s.setWork g i.serial (.update u)
        if !waits.isEmpty || s.updVersioned k.part i.desc u.k then s
        else
          let s' := s.updPartRun g i u
          match (s'.core g).runningUpdate with
          | some (_, v) => if v.k = u.k then s' else s'.updProceed g fuel
          | none => s'
    | _, _ => s

/-- Enough parts for every UPDATE that a core has issued. -/
def State.updFuel (s : State) (g : Nat) : Nat :=
  ((s.core g).issued.map fun i => 2 * (U.count i.desc / 131072) + 4).sum

/-- UPDATE: the sequencer issues it and the vector unit runs it as far as its pages allow (R94, R206 to R211). One that was
stopped under R208 goes on at its element, with the hyperparameters, seed and clip factor that it has read. Where its record names
a descriptor that the device has not kept, that descriptor starts anew at the element. -/
def execUpdate (g : Nat) (err : ReadError) (s : State) : Host.Outcome State Fault Refusal :=
  if s.dieOff (dieOf g) then .next s else
  let k := s.core g
  match k.resumePoint with
  | some (x, e) =>
    if !(k.ctx.isSome && k.state == .issuing && !k.stopReq) then .next s
    else match k.resumes with
    | (i, _) :: _ =>
      match i.work with
      | .update u =>
        let s := s.takeResume g { i with work := .update { u with k := e } }
        .next (s.updProceed g (s.updFuel g))
      | _ => .next s
    | [] => match s.descriptor g x with
      | .ok d0 =>
        if dType d0 != tyUpdate then .next s
        else
          let i : Issued := { serial := 0, index := x, desc := applyOffsets d0 k.sq, regs := k.sq, work := .update { k := e } }
          let s := s.takeResume g i
          .next (s.updProceed g (s.updFuel g))
      | _ => .next s
  | none =>
    match s.gate g (dType · == tyUpdate) false (k.outstanding tyVec + k.outstanding tyUpdate) 16 with
    | .stay s => .next s
    | .go d0 =>
      let d := applyOffsets d0 k.sq
      match s.headerFault g d, k.ctx with
      | some c, _ => .next (s.seqFault g c tyUpdate k.pc)
      | none, none => .next s
      | none, some c =>
        match s.updFault k.part c d with
        | some e => .next (s.seqFault g e tyUpdate k.pc)
        | none =>
          .next (s.onDieRead g g (clusterOf g) tyUpdate k.pc true false true err fun s =>
            let s := s.issue g d (.update {})
            s.updProceed g (s.updFuel g))

/-- The part at which a running UPDATE stands is written, once every page of it is claimed, and its pages advance; then the
UPDATE goes on (R206). -/
def State.updAdvance (s : State) (g : Nat) : State :=
  let k := s.core g
  match k.runningUpdate, k.ctx with
  | some (i, u), some c =>
    if u.hyper.isEmpty || decide (U.count i.desc ≤ u.k) then s.updProceed g (s.updFuel g)
    else
      let (s, waits) := s.preparePages k.part { core := g, ctx := c, index := i.index } u.waiting (updPages i.desc u.k)
      let u := { u with waiting := waits }
      let s := s.setWork g i.serial (.update u)
      if !waits.isEmpty then s
      else
        let fuel := s.updFuel g
        (s.updPartRun g i u).updProceed g fuel
  | _, _ => s

end Sys2Proof.Machine
end

