-- ==== Sys2Proof/Machine/Pair.lean ====
section
/-! DEFINITION. The double-stop pair and the fills (R272 to R276, R371, R373 to R376). What the two packages say to each other
beyond the records of R273 is carried by bind handshakes; their operations are the model's: 0 bind, 1 release, 2 fill source,
3 fill receiver, 4 bind copied, 5 fill done. -/

namespace Sys2Proof.Machine

/-! ### Handshakes and pages -/

/-- A handshake is sent; one that no course can carry is lost. -/
def State.sayTo (s : State) (n node npart op count offset : Nat) : State :=
  let m : Msg := {
    mkind := 7, op := op, dst := node, dstPart := npart, src := s.crs.nodeId, srcPart := n, count := count, offset := offset
    data := [0] }
  (s.sendPair m).getD s

/-- Handshakes that wait for a command are taken: the first of an operation from a node's partition. -/
def State.takeHand (s : State) (n node npart op : Nat) : Option (Msg × State) :=
  match s.crs.hands.find? fun m => m.dstPart == n && m.src == node && m.srcPart == npart && m.op == op with
  | some m => some (m, { s with crs := { s.crs with hands := s.crs.hands.erase m } })
  | none => none

/-- A handshake waits for its command. -/
def State.keepHand (s : State) (m : Msg) : State :=
  { s with crs := { s.crs with hands := s.crs.hands.filter (fun h => !(h.dstPart == m.dstPart && h.src == m.src
      && h.srcPart == m.srcPart && h.op == m.op)) ++ [m] } }

/-- Bytes that a bind copy or a fill sends, and their version: a page by its own entry, or the schedule record in the landing area. -/
def State.copyBytes (s : State) (c : CopyOut) : Acc (Nat × List Byte) :=
  if c.op = 4 then
    match s.devRead c.part .plain .newest c.addr 0x1000 with
    | .ok bs => .ok (0, bs)
    | .bad a p => .bad a p
    | .wait a => .wait a
  else
    let x := pageOf c.addr
    match s.answered x c.addr false (checkEntry (s.entry x) c.part c.addr false .plain) with
    | .ok e => .ok (eVersion e, s.mems.readLoc (locate (eTier e) (eFrame e) 0) pageBytes)
    | .bad a p => .bad a p
    | .wait a => .wait a

/-- A copy is sent in messages, or waits for the host. DESIGN CHOICE: one whose read is refused is recorded (R229) and not sent, so
that the other side, which counts what it has written, does not end (log 179). -/
def State.sendCopy (s : State) (c : CopyOut) : State :=
  match s.copyBytes c with
  | .bad a p => s.noteFault c.part 9 a p
  | .wait _ => { s with crs := { s.crs with copies := s.crs.copies ++ [c] } }
  | .ok (version, bs) =>
    (msgParts (bs.length / msgMax) 0 bs).foldl (fun s (off, part) =>
      let m : Msg := {
        mkind := 5, op := c.op, fmt := version, dst := c.node, dstPart := c.npart, src := s.crs.nodeId, srcPart := c.part
        count := c.ordinal, offset := off, data := part }
      (s.sendPair m).getD s) s

/-- Pages of a list are sent in order; a versioned page at its newest version. `op` tells the range. -/
def State.sendPages (s : State) (n node npart op : Nat) (xs : List Nat) : State :=
  xs.zipIdx.foldl (fun s (x, j) =>
    let y := if s.inWindow n (x * pageBytes) then (s.versions n x).1 else x
    s.sendCopy { part := n, node := node, npart := npart, op := op, ordinal := j, addr := y * pageBytes }) s

/-- Whether a copy still belongs to a bind, or to a fill of this side as its source. -/
def State.copyDue (s : State) (c : CopyOut) : Bool :=
  if c.op ≤ 1 then
    let p := s.pair c.part
    p.state == 1 && p.matched && p.node == c.node && p.npart == c.npart
  else s.jobs.fills.any fun f => !f.receiver && f.part == c.part && f.node == c.node && f.npart == c.npart

/-- The host answers again: the copies that waited for it are sent, where they still belong to something. -/
def State.sendLate (s : State) : State :=
  let cs := s.crs.copies
  cs.foldl (fun s c => if s.copyDue c then s.sendCopy c else s) { s with crs := { s.crs with copies := [] } }

/-- Where the messages of a range are written: its first device address, its pages, and whether they go to versioned pages' own
buffers; the schedule record of a fill takes no whole page. -/
def State.landing (s : State) (n op : Nat) : Nat × Nat × Bool :=
  let p := s.pair n
  match op with
  | 0 => (p.mirrorBase, p.mirrorPages, true)
  | 1 => (p.plainMirror, p.plainPages, false)
  | 2 => (s.planOwned n, s.planOwnedPages n, true)
  | 3 => (s.planPlain n, s.planPlainPages n, false)
  | _ => (s.planSched n, 1, false)

/-- Whether the bytes of a bind-copy message may be written where they belong, with the address, or why not: translated as every
write (R228), waiting for a page that moves or drains, for the host, and for lines that the host holds (R244, R246). -/
def State.landCheck (s : State) (n : Nat) (m : Msg) : Acc Nat :=
  let (base, limit, own) := s.landing n m.op
  let a := base + m.count * pageBytes + m.offset
  let x := pageOf a
  if limit ≤ m.count || decide (pageBytes < m.offset + m.data.length) then .bad a false
  else if (pieces a m.data.length).any fun e => s.frt.pageSnooped (pageOf e.1) then .wait a
  else if own then
    match s.answered x a true (checkEntry (s.entry x) n a true .plain) with
    | .ok _ => .ok a
    | .bad b p => .bad b p
    | .wait b => .wait b
  else match s.devCheckWrite n .plain a m.data.length with
    | .ok () => .ok a
    | .bad b p => .bad b p
    | .wait b => .wait b

/-- A part of a page that arrives is written, and both entries of a versioned page take the version it came with (R202, R374). The
answer is how many bytes were written. DESIGN CHOICE: a refused part is recorded (R229) and not counted (log 179). -/
def State.landPage (s : State) (n : Nat) (m : Msg) : State × Nat :=
  match s.landCheck n m with
  | .wait _ => (s, 0)
  | .bad a p => (s.noteFault n 9 a p, 0)
  | .ok a =>
    let x := pageOf a
    let s := s.devPut a m.data
    if (s.landing n m.op).2.2 then
      let y := s.shadowOf n x
      let s := s.setEntry x (setField (s.entry x) 47 44 m.fmt)
      (s.setEntry y (setField (s.entry y) 47 44 m.fmt), m.data.length)
    else (s, m.data.length)

/-- Whether a message has to wait at its course until its bytes may be written. -/
def State.landWaits (s : State) (n : Nat) (m : Msg) : Bool :=
  m.mkind == 5 && match s.landCheck n m with
    | .wait _ => true
    | _ => false

/-! ### Binding (R272) -/

/-- The accepted command of an opcode and partition that has begun and waits. -/
def State.waitingCmds (s : State) (op n : Nat) : List Nat :=
  (s.hub.accepted.filter fun c => c.opcode == op && c.started && s.cmdPart c.packet == some n).map (·.number)

/-- The pages of the owned window, in ascending order. -/
def State.ownedPages (s : State) (n : Nat) : List Nat :=
  let p := s.pair n
  (pageRange (s.part n).vwinBase (s.part n).vwinPages).filter fun x => !inPages p.mirrorBase p.mirrorPages (x * pageBytes)

/-- Bytes of bind copy that a side expects: the partner's owned pages and its plain range. -/
def Pair.expected (p : Pair) : Nat := (p.mirrorPages + p.plainPages) * pageBytes

/-- A binding ends when this side holds the partner's copy and the partner holds this side's: the confirmed step is the
context's present step. -/
def State.bindEnd (s : State) (n : Nat) : State :=
  let p := s.pair n
  if p.state = 1 && p.matched && decide (p.expected ≤ p.copied) && p.peerDone then
    let step := match s.ctx n p.ctx with
      | some x => x.step.toNat % 2 ^ 63
      | none => 0
    let s := s.modPair n fun p => { p with state := 2, valid := true, step := step }
    s.finishAll (s.waitingCmds 0x90 n) stOk 0
  else s

/-- This side says that it holds the partner's copy. -/
def State.sayCopied (s : State) (n : Nat) : State :=
  let p := s.pair n
  if p.expected ≤ p.copied then s.sayTo n p.node p.npart 4 0 0 else s

/-- Both binds have met: each side copies its owned range to the partner's mirror. -/
def State.bindMatched (s : State) (n : Nat) : State :=
  let p := s.pair n
  let s := s.modPair n fun p => { p with matched := true }
  let s := s.sendPages n p.node p.npart 0 (s.ownedPages n)
  let s := s.sendPages n p.node p.npart 1 (pageRange p.plainBase p.plainPages)
  ((if p.expected = 0 then s.sayCopied n else s)).bindEnd n

/-- PAIR_BIND: the partition begins to bind, and waits for its partner's matching bind (R272). -/
def execPairBind (n : Nat) (s : State) : Host.Outcome State Fault Refusal :=
  s.hostCommand n 0x90 fun c s =>
    let p := c.packet
    let part := pkPart p
    let node := pk p 16 2 % 2 ^ 12
    let npart := pk p 16 2 / 2 ^ 12
    let s := s.modPair part fun q => { q with
      state := 1, cause := 0, node := node, npart := npart, shipped := 0, valid := false, ctx := pkCtx p
      mirrorBase := pk p 20 6, mirrorPages := pk p 26 4, plainBase := pk p 30 6, plainPages := pk p 36 4
      plainMirror := pk p 40 6, landBase := pk p 46 6, landPages := pk p 52 4
      matched := false, copied := 0, peerDone := false, sentCount := 0, checksum := 0, partial_ := [], landed := []
      landedScheds := [], landedSteps := [], applied := 0, applyCrc := 0, applyWait := [] }
    let s := s.sayTo part node npart 0 (pk p 26 4) 0
    match s.takeHand part node npart 0 with
    | some (_, s) => s.bindMatched part
    | none => s

/-- The records of a step that have landed whole and are not applied. -/
def Pair.recordsOf (p : Pair) (step : Nat) : List Landed := p.landed.filter (·.step == step % 2 ^ 16)

/-- The steps at the front of those landed whose records are all there; `applied` records of the first have been applied. -/
def Pair.completeSteps (p : Pair) : List (Nat × Nat × Nat) → Nat → List (Nat × Nat × Nat)
  | [], _ => []
  | (st, k, crc) :: t, applied =>
    if k ≤ (p.recordsOf st).length + applied then (st, k, crc) :: p.completeSteps t 0 else []

/-- The writer of a mirror record's pages: an index that no descriptor has. -/
def mirrorWriter (ctx : Nat) (r : Landed) : Writer := { core := r.core, ctx := ctx, index := 2 ^ 32 + r.index }

/-- The claims of a partition's mirror records that will not be applied are abandoned (R207). -/
def State.dropMirrorClaims (s : State) (n : Nat) : State :=
  s.abandonClaims fun w => decide (2 ^ 32 ≤ w.index) && s.coreIn n w.core

/-- Every incomplete step in the landing area is discarded (R276, R373). -/
def Pair.discard (p : Pair) : Pair :=
  let steps := p.completeSteps p.landedSteps p.applied
  { p with
    partial_ := [], landedSteps := steps, landed := p.landed.filter fun r => steps.any fun q => q.1 % 2 ^ 16 == r.step
    landedScheds := p.landedScheds.filter fun b => steps.any fun q => q.1 == leAt b 0 8 }

/-- A pair that is binding or bound is broken: incomplete steps are discarded, and the last confirmed step is kept (R276). -/
def State.breakPair (s : State) (n cause : Nat) : State :=
  let p := s.pair n
  if p.state = 1 || p.state = 2 then
    let s := s.modPair n fun p => { p.discard with state := 4, cause := cause }
    s.finishAll (s.waitingCmds 0x90 n) stCourseDown 0
  else s

/-- The local side is unbound, and the partner is told (R276). The last confirmed step and the mirror stay. -/
def State.releasePair (s : State) (n : Nat) : State :=
  let p := s.pair n
  if p.state = 0 then s
  else
    let s := (s.sayTo n p.node p.npart 1 0 0).dropMirrorClaims n
    let s := s.modPair n fun p => { p.discard with state := 0, cause := 0, node := 0, npart := 0, shipped := 0, matched := false }
    s.finishAll (s.waitingCmds 0x90 n) stAborted 0

/-- PAIR_RELEASE: unbinds the local side and tells the partner (R276). -/
def execPairRelease (n : Nat) (s : State) : Host.Outcome State Fault Refusal :=
  s.hostCommand n 0x93 fun c s => (s.releasePair (pkPart c.packet)).finish n stOk 0

/-! ### Shipping a step (R273, R371) -/

/-- The context's plan, where it has one. -/
def State.hasPlan (s : State) (n c : Nat) : Bool :=
  s.plan n != 0 && (match s.ctx n c with
    | some x => s.planField n 0 8 == handleOf n c x.gen
    | none => false)

/-- A STEP_END that completes with OK ships the schedule record, where the context has a plan, and the step record. -/
def State.shipStep (s : State) (n c : Nat) : State :=
  match s.ctx n c with
  | none => s
  | some x =>
    if !s.ships n c then s
    else
      let p := s.pair n
      let base : Msg := { mkind := 4, dst := p.node, dstPart := p.npart, src := s.crs.nodeId, srcPart := n }
      let s := if s.hasPlan n c then
          (s.sendPair { base with op := 1, data := s.scheduleRecord n c x 0xFFFFFFFF [] }).getD s
        else s
      (s.sendPair { base with data := toLE 8 x.step.toNat ++ toLE 4 p.sentCount ++ toLE 8 p.checksum }).getD s

/-- The records of a new step are counted from nothing. -/
def State.restartRecords (s : State) (n c : Nat) : State :=
  if (s.pair n).ctx = c then
    let s := s.modPair n fun p => { p with sentCount := 0, checksum := 0 }
    s.modCtx n c fun x => { x with cores := x.cores.map fun e => (e.1, { e.2 with upd := none }) }
  else s

/-! ### Receiving -/

/-- Bytes that the landing area holds. -/
def Pair.landedBytes (p : Pair) : Nat :=
  (p.landed.map (·.bytes.length)).sum + (p.partial_.map (·.bytes.length)).sum

/-- A part of an update record arrives; records that exceed the landing area break the pair (R274). -/
def State.landRecord (s : State) (n : Nat) (m : Msg) : State :=
  let p := s.pair n
  if p.landPages * pageBytes < 0x1000 + p.landedBytes + m.data.length then s.breakPair n 3
  else
    let same := fun (r : LandPart) => r.step == m.hop && r.core == m.core && r.index == m.cseq
    let part : LandPart := { step := m.hop, core := m.core, index := m.cseq, offset := m.offset, bytes := m.data }
    let parts := p.partial_.filter same ++ [part]
    if (parts.map (·.bytes.length)).sum < m.count then s.modPair n fun p => { p with partial_ := p.partial_ ++ [part] }
    else
      let whole := (List.range (m.count / msgMax + 1)).flatMap fun i => match parts.find? (·.offset == i * msgMax) with
        | some r => r.bytes
        | none => []
      s.modPair n fun p => { p with
        partial_ := p.partial_.filter fun r => !same r
        landed := p.landed ++ [{ step := m.hop, core := m.core, index := m.cseq, bytes := whole }] }

/-- A message of the pair's kinds arrives for partition `n`, whose pair is bound or binding with its source. -/
def State.pairMessage (s : State) (n : Nat) (m : Msg) : State :=
  match m.mkind with
  | 3 => s.landRecord n m
  | 4 =>
    if m.op = 1 then s.modPair n fun p => { p with landedScheds := p.landedScheds ++ [m.data] }
    else s.modPair n fun p => { p with
      landedSteps := p.landedSteps ++ [(leAt m.data 0 8, leAt m.data 8 4, leAt m.data 12 8)] }
  | _ =>
    let p := s.pair n
    if p.state != 1 then s
    else
      let (s, put) := s.landPage n m
      let s := s.modPair n fun p => { p with copied := p.copied + put }
      let s := if p.copied < p.expected then s.sayCopied n else s
      s.bindEnd n

/-! ### Fills (R373 to R376) -/

/-- The state with the fills changed. -/
def State.modFills (s : State) (f : List Fill → List Fill) : State := { s with jobs := { s.jobs with fills := f s.jobs.fills } }

/-- The fill of a role, where there is one. -/
def State.fillOf (s : State) (receiver : Bool) : Option Fill := s.jobs.fills.find? (·.receiver == receiver)

/-- A fill ends with a status. -/
def State.endFill (s : State) (f : Fill) (code : Nat) : State :=
  (s.modFills fun fs => fs.filter fun g => g.receiver != f.receiver).finish f.cmd code 0

/-- A page's contents become undefined: free values. -/
def State.scramblePage (s : State) (n x : Nat) : State :=
  let e := s.entry x
  if eValid e && ePart e == n then
    let (k, s) := s.draw
    s.storeUnder e (x * pageBytes) ((List.range pageBytes).map (Config.contents k))
  else s

/-- A fill aborts: the receiver's owned and plain ranges, in both buffers of a versioned page, and its schedule record are undefined
(R376). -/
def State.abortFill (s : State) (f : Fill) : State :=
  let s := if f.receiver then
      let n := f.part
      let owned := pageRange (s.planOwned n) (s.planOwnedPages n)
      let xs := owned ++ (owned.filter fun x => s.inWindow n (x * pageBytes)).map (s.shadowOf n)
        ++ pageRange (s.planPlain n) (s.planPlainPages n)
      (xs.foldl (fun s x => s.scramblePage n x) s).scrambleRange n (s.planSched n) 0x1000
    else s
  s.endFill f stCourseDown

/-- The source discards its incomplete steps and sends its mirror, the mirrored plain range and the confirmed schedule
record (R373, R374). -/
def State.fillSend (s : State) (f : Fill) : State :=
  let n := f.part
  let p := s.pair n
  let s := s.modPair n Pair.discard
  let s := s.sendPages n f.node f.npart 2 (pageRange p.mirrorBase p.mirrorPages)
  let s := s.sendPages n f.node f.npart 3 (pageRange p.plainMirror p.plainPages)
  s.sendCopy { part := n, node := f.node, npart := f.npart, op := 4, ordinal := 0, addr := p.landBase }

/-- The other side's readiness reaches a fill. A receiver whose owned pages differ from the source's mirror pages ends with
BAD_PARAM and refuses the source (R373). -/
def State.fillMatched (s : State) (f : Fill) (m : Msg) : State :=
  if f.receiver then
    if m.count != s.planOwnedPages f.part then (s.endFill f stBadParam).sendRefusal m 2
    else s.modFills fun fs => fs.map fun g =>
      if g.receiver then { g with matched := true, total := (m.count + m.offset) * pageBytes + 0x1000 } else g
  else
    (s.modFills fun fs => fs.map fun g => if !g.receiver then { g with matched := true } else g).fillSend f

/-- SPARE_FILL: the side waits for the other, and then the mirror is copied (R373, R374). -/
def execSpareFill (n : Nat) (s : State) : Host.Outcome State Fault Refusal :=
  s.hostCommand n 0x92 fun c s =>
    let p := c.packet
    let part := pkPart p
    let receiver := pk p 18 1 == 1
    let node := pk p 16 2 % 2 ^ 12
    let npart := pk p 16 2 / 2 ^ 12
    let f : Fill := { cmd := n, part := part, ctx := pkCtx p, node := node, npart := npart, receiver := receiver }
    let s := (s.notePlan part).modFills fun fs => fs ++ [f]
    let q := s.pair part
    let s := if receiver then s.sayTo part node npart 3 (s.planOwnedPages part) 0
      else s.sayTo part node npart 2 q.mirrorPages q.plainPages
    match s.takeHand part node npart (if receiver then 2 else 3) with
    | some (m, s) => s.fillMatched f m
    | none => s

/-- A message of a fill arrives at its receiver (R374). When everything is written, both sides end. -/
def State.fillMessage (s : State) (f : Fill) (m : Msg) : State :=
  let n := f.part
  let (s, put) := s.landPage n m
  let s := s.modFills fun fs => fs.map fun g => if g.receiver then { g with got := g.got + put } else g
  if f.total ≤ f.got + put then (s.sayTo n f.node f.npart 5 0 0).endFill f stOk else s

/-- Whether a refused message belonged to a fill. -/
def Msg.ofFill (m : Msg) : Bool := (m.hop == 7 && [2, 3, 5].contains m.op) || (m.hop == 5 && decide (2 ≤ m.op))

/-- The other side of a pair or of a fill refuses: a pair breaks on PARTITION_GONE and NOT_BOUND (R276), a fill on any refusal
(R376). -/
def State.pairRefused (s : State) (m : Msg) : State :=
  let p := s.pair m.dstPart
  if m.ofFill then
    (s.jobs.fills.filter fun f => f.part == m.dstPart && f.node == m.src && f.npart == m.srcPart).foldl
      (fun s f => s.abortFill f) s
  else if p.node == m.src && p.npart == m.srcPart && m.reason != 1 && [3, 4, 5, 7].contains m.hop then s.breakPair m.dstPart 2
  else s

/-- A handshake arrives for partition `n`. -/
def State.handshake (s : State) (n : Nat) (m : Msg) : State :=
  let p := s.pair n
  let mine := p.node == m.src && p.npart == m.srcPart
  match m.op with
  | 0 => if p.state = 1 && mine && !p.matched then s.bindMatched n else s.keepHand m
  | 1 =>
    let s := match s.takeHand n m.src m.srcPart 0 with
      | some (_, s) => s
      | none => s
    if mine then s.breakPair n 4 else s
  | 4 => if p.state = 1 && mine then (s.modPair n fun p => { p with peerDone := true }).bindEnd n else s
  | 5 => match s.fillOf false with
    | some f => if f.part = n && f.node = m.src then s.endFill f stOk else s
    | none => s
  | op =>
    match s.fillOf (op == 2) with
    | some f => if f.part = n && f.node = m.src && f.npart = m.srcPart && !f.matched then s.fillMatched f m else s.keepHand m
    | none => s.keepHand m

/-! ### Applying records (R274, R275) -/

/-- The descriptor of a record at the addresses of the local mirror. -/
def Pair.mirrorDesc (p : Pair) (bs : List Byte) : Nat :=
  let d := ofLE (toLE 1 tyUpdate ++ fill 7 0 ++ bs.take 56)
  let at_ := fun off => if bit off 47 then p.plainMirror + off % 2 ^ 47 else p.mirrorBase + off
  let d := dset d 8 47 0 (at_ (U.param d))
  let d := if 1 ≤ U.rule d then dset d 20 47 0 (at_ (U.mom1 d)) else d
  if U.rule d = 2 then dset d 26 47 0 (at_ (U.mom2 d)) else d

/-- The pages that a record's UPDATE writes, in ascending order within each array. -/
def recordPages (d : Nat) : List Nat :=
  (updRanges d).flatMap fun (a, w) =>
    if U.count d = 0 then [] else rangeFrom (pageOf a) (pageOf (a + U.count d * w - 1) + 1 - pageOf a)

/-- Part `k` of a record's UPDATE is computed and written. -/
def State.applyPart (s : State) (n d k : Nat) (u : UpdRun) (grad mask : List Byte) : Acc State :=
  let m := updPart d k
  let wg := fmtBytes (U.gradFmt d)
  match s.updCompute n d k u (.ok ((grad.drop (k * wg)).take (m * wg))) (.ok ((mask.drop (k / 8)).take (maskBytes m))) with
  | .ok (out, _) => s.updWrite n d k out
  | .bad a p => .bad a p
  | .wait a => .wait a

/-- The pair is diverged: its mirror is no restart point (R275). -/
def State.diverge (s : State) (n : Nat) : State :=
  (s.dropMirrorClaims n).modPair n fun p => { p with
    state := 3, cause := 0, valid := false, partial_ := [], landed := [], landedScheds := [], landedSteps := [], applied := 0, applyCrc := 0 }

/-- A record is applied: its pages are claimed, and then its whole UPDATE is repeated on the mirror, on the core that its number names.
It waits for pages, and for a host that does not answer. An S that is not the package's own, or an access that is refused, makes the
pair diverged. DESIGN CHOICE: the core counts in SEQ_UPD_EVT the waits alone; its own pass, element, frozen and norm registers show its
program's UPDATEs (log 178). -/
def State.applyRecord (s : State) (n : Nat) (rec_ : Landed) : State :=
  let p := s.pair n
  let bs := rec_.bytes
  let d := p.mirrorDesc bs
  let hyper := (bs.drop 56).take 64
  let norm := leAt bs 128 8
  let body := bs.drop 144
  let grad := body.take (U.count d * fmtBytes (U.gradFmt d))
  let mask := body.drop (U.count d * fmtBytes (U.gradFmt d))
  let own := if U.clip d then s.devRead n .plain .newest (hypNorm hyper) 8 else .ok (toLE 8 norm)
  match own with
  | .wait _ => s
  | .bad a q => (s.noteFault n (dieOf rec_.core) a q).diverge n
  | .ok b =>
    if ofLE b != norm then s.diverge n else
    let (s, waits) := s.preparePages n (mirrorWriter p.ctx rec_) p.applyWait (recordPages d)
    let s := s.modPair n fun p => { p with applyWait := waits }
    if !waits.isEmpty then s
    else
      let f := if U.clip d then clipFactor hyper norm else some 0
      let u : UpdRun := {
        hyper := hyper, seed := BitVec.ofNat 64 (leAt bs 120 8), skip := f.isNone, clipFactor := f.getD 0, norm := norm }
      let r := (List.range (ceilDiv (U.count d) 131072)).foldl (fun (r : Acc State) i => match r with
        | .ok t => t.applyPart n d (131072 * i) u grad mask
        | r => r) (.ok s)
      match r with
      | .ok t =>
        let crc := t.updCrc n d hyper
        t.modPair n fun p => { p with
          landed := p.landed.erase rec_, applied := p.applied + 1, applyCrc := Nat.xor p.applyCrc crc }
      | .bad a q => (s.noteFault n (dieOf rec_.core) a q).diverge n
      | .wait _ => s

/-- A step whose records have all been applied is compared with the owner's checksum: confirmed, or diverged (R275). The
confirmed step's schedule record goes to the first 4 KiB of the landing area (R371). -/
def State.confirmStep (s : State) (n step crc : Nat) : State :=
  let p := s.pair n
  if p.applyCrc != crc then s.diverge n
  else
    let s := s.modPair n fun p => { p with
      valid := true, step := step % 2 ^ 63, landedSteps := p.landedSteps.drop 1, applied := 0, applyCrc := 0
      landed := p.landed.filter (·.step != step % 2 ^ 16), landedScheds := p.landedScheds.filter fun b => leAt b 0 8 != step }
    match p.landedScheds.find? fun b => leAt b 0 8 == step with
    | some b => s.hubWrite n 9 .plain p.landBase (padTo 0x1000 b)
    | none => s

/-- The least record of a list: by core, then by index. -/
def leastRecord : List Landed → Option Landed
  | [] => none
  | r :: t => match leastRecord t with
    | some q => if q.core < r.core || (q.core == r.core && decide (q.index < r.index)) then some q else some r
    | none => some r

/-- MIRROR_APPLY: once the step record and all the update records it counts have arrived, one more of them is applied, or the
step is confirmed (R274, R275). -/
def execMirrorApply (n : Nat) (s : State) : Host.Outcome State Fault Refusal :=
  if s.off then .next s else
  let p := s.pair n
  if 16 ≤ n || (p.state != 2 && p.state != 4) then .next s
  else match p.landedSteps with
    | [] => .next s
    | (step, count, crc) :: _ =>
      let left := count - p.applied
      if (p.recordsOf step).length < left then .next s
      else if left = 0 then .next (s.confirmStep n step crc)
      else match leastRecord (p.recordsOf step) with
        | none => .next s
        | some r =>
          let s := s.applyRecord n r
          let q := s.pair n
          .next (if q.state != 3 && q.applied == count then s.confirmStep n step crc else s)

end Sys2Proof.Machine
end

