-- ==== Sys2Proof/Machine/Coll.lean ====
section
/-! DEFINITION. Collectives (R262 to R271, R216, R217): issue of a COLL, the messages of its members, version claims of an
all-gather, completion and failure. Elements travel in segments of 4,096; a microscaling tensor's scale codes follow its
elements, one byte per block. Both are the model's. Messages between the dies of axis 5 stay in the package: they arrive at
port 16, and their `vc` is 4 plus the receiving die. -/

namespace Sys2Proof.Machine

/-! ### COLL fields (R105) -/
namespace L
/-- src. -/
def src (d : Nat) : Nat := d48 d 8
/-- dst. -/
def dst (d : Nat) : Nat := d48 d 14
/-- Element count. -/
def count (d : Nat) : Nat := d32 d 20
/-- op. -/
def op (d : Nat) : Nat := dfield d 24 3 0
/-- axis. -/
def axis (d : Nat) : Nat := dfield d 24 7 4
/-- Format code. -/
def fmtCode (d : Nat) : Nat := dfield d 25 3 0
/-- fmt. -/
def fmt (d : Nat) : Fmt := (Fmt.ofCode (fmtCode d)).getD .fp32
/-- red_op. -/
def redOp (d : Nat) : Nat := dfield d 25 5 4
/-- seed_reg. -/
def seedReg (d : Nat) : Nat := dfield d 26 3 0
/-- group. -/
def group (d : Nat) : Nat := d16 d 28
/-- cnt_ctr. -/
def cntCtr (d : Nat) : Nat := d16 d 30
end L

/-! ### Chunks (R264) -/

/-- First element of chunk `j` of `n`, for a COLL of `N` elements. -/
def chunkStart (N n j : Nat) : Nat := min N (32 * (j * ceilDiv N 32 / n))
/-- First element of half 1 of chunk `j`. -/
def chunkMid (N n j : Nat) : Nat :=
  let a := j * ceilDiv N 32 / n
  let b := (j + 1) * ceilDiv N 32 / n
  min N (32 * (a + ceilDiv (b - a) 2))
/-- Elements `[first, last)` of a half of a chunk. -/
def halfRange (N n j half : Nat) : Nat × Nat :=
  if half = 0 then (chunkStart N n j, chunkMid N n j) else (chunkMid N n j, chunkStart N n (j + 1))
/-- The chunk and half of an element. -/
def chunkOf (N n e : Nat) : Nat × Nat :=
  match (List.range n).find? fun j => decide (chunkStart N n j ≤ e ∧ e < chunkStart N n (j + 1)) with
  | some j => (j, if e < chunkMid N n j then 0 else 1)
  | none => (0, 0)

/-- Elements of a segment. -/
def segElems : Nat := 4096
/-- The segments of an element range: first element and count. `k` bounds them. -/
def segments : Nat → Nat → Nat → List (Nat × Nat)
  | 0, _, _ => []
  | k + 1, a, b => if b ≤ a then [] else (a, min segElems (b - a)) :: segments k (a + segElems) b

/-- The segments of a half of a chunk. -/
def halfSegments (N n j half : Nat) : List (Nat × Nat) :=
  let (a, b) := halfRange N n j half
  segments ((b - a) / segElems + 1) a b

/-- The rank at place `t` of the order in which chunk `j`'s half is reduced (R265). -/
def orderAt (n j half t : Nat) : Nat :=
  if t + 1 = n then j else if half = 0 then (j + 1 + t) % n else (j + n * t + n - 1 - t) % n

/-! ### Elements in memory -/

/-- The byte runs of `m` elements from element `e` of an array of `total` elements at an address: elements, and scale codes
for a microscaling format. -/
def elemRuns (f : Fmt) (a total e m : Nat) : List (Nat × Nat) :=
  [(a + packedBytes f e, packedBytes f m)] ++
    (if f.isMx then [(a + packedBytes f total + e / 32, ceilDiv m 32)] else [])

/-- A segment's bytes, elements and then scales. -/
def State.readElems (s : State) (n : Nat) (sel : Sel) (f : Fmt) (a total e m : Nat) : Acc (List Byte) :=
  (elemRuns f a total e m).foldl (fun r (b, len) => match r with
    | .ok bs => match s.devRead n .plain sel b len with
      | .ok cs => .ok (bs ++ cs)
      | .bad x p => .bad x p
      | .wait x => .wait x
    | r => r) (.ok [])

/-- A segment's bytes laid out at the runs of an array. -/
def layRuns : List (Nat × Nat) → List Byte → List (Nat × List Byte)
  | [], _ => []
  | (a, len) :: t, bs => (a, bs.take len) :: layRuns t (bs.drop len)

/-- The exact values that a segment's bytes stand for, expanded to FP32 (R34, R265). -/
def segValues (f : Fmt) (m : Nat) (bs : List Byte) : List Fp :=
  let xs := rowValues f bs (bs.drop (packedBytes f m)) m
  if f.isMx then xs.map rne32 else xs

/-- to_fmt of R266 for a segment: the converting rank, hop `h`, and the first element's index. -/
def collConvert (f : Fmt) (seed : W64) (group rank op h e : Nat) (xs : List Fp) : List Byte :=
  if f.isMx then
    let draw := fun i => DrawAt.bits seed {
      tensor := group % 2 ^ 16 * 2 ^ 16 + rank, tileRow := h, tileCol := op, purpose := 7, draw := e + i }
    let (codes, sc) := convertRow f .sr false draw xs
    packElems f codes ++ sc.map (BitVec.ofNat 8)
  else packElems f (xs.map (convert f .rne false 0))

/-! ### Members, messages and failure -/

/-- The COLL runs of a core, in program order. -/
def Core.colls (k : Core) : List (Issued × CollRun) := k.issued.filterMap fun i => match i.work with
  | .coll r => some (i, r)
  | _ => none

/-- The COLL of a serial. -/
def Core.coll (k : Core) (serial : Nat) : Option (Issued × CollRun) := k.colls.find? fun e => e.1.serial == serial

/-- The courses of an axis in a direction (R248, R263). -/
def axisCourses (axis half : Nat) : List Nat :=
  match axis with
  | 0 => if half = 0 then [0, 1] else [2, 3]
  | 1 => if half = 0 then [4, 5] else [6, 7]
  | 2 => if half = 0 then [8, 9] else [10, 11]
  | 3 => if half = 0 then [12] else [13]
  | _ => [14, 15]

/-- The byte ranges of dst that a COLL writes on a rank of `n`; `rows` bytes for an all-to-all. -/
def collRanges (d n rank rows : Nat) : List (Nat × Nat) :=
  let N := L.count d
  let m := chunkStart N n (rank + 1) - chunkStart N n rank
  (match L.op d with
    | 0 => elemRuns (L.fmt d) (L.dst d) N 0 N
    | 1 => elemRuns (L.fmt d) (L.dst d) m 0 m
    | 2 => elemRuns (L.fmt d) (L.dst d) N 0 N
    | 3 => [(L.dst d, rows)]
    | _ => [(L.dst d, 8)]).filter (·.2 != 0)

/-- A COLL fails: it never completes, what its dst holds is undefined, its context stops, and its LAUNCH and a waiting STEP_END
complete with COURSE_DOWN (R271). -/
def State.collFail (s : State) (g serial cause peer : Nat) : State :=
  match (s.core g).coll serial with
  | none => s
  | some (i, r) =>
    let k := s.core g
    let s := (s.modCore g fun k => { k with issued := k.issued.filter (·.serial != serial) }).dropWriter g i.index
    let s := (collRanges i.desc r.members.length r.rank (r.bins * r.cap * r.rowBytes)).foldl
      (fun (s : State) (a, len) => s.scrambleRange k.part a len) s
    let s := s.modDie (dieOf g) fun d => { d with
      collFailures := satAdd 16 d.collFailures 1
      collFault := match d.collFault with
        | some f => some f
        | none => some (cause, g, peer, r.group % 2 ^ 16, r.cseq % 2 ^ 16) }
    match k.ctx with
    | none => s
    | some c =>
      let detail := g + cause * 2 ^ 8 + peer % 2 ^ 12 * 2 ^ 16
      let s := s.stopContext k.part c stCourseDown detail
      let h := match s.ctx k.part c with
        | some x => handleOf k.part c x.gen
        | none => 0
      let ends := (s.hub.accepted.filter fun q => q.opcode == 0x51 && pk q.packet 8 8 == h).map (·.number)
      let s := if ends.isEmpty then s
        else s.modCtx k.part c fun x => { x with stepOpen := false, segPins := x.segPins.filter (·.step != x.step) }
      s.finishAll ends stCourseDown detail

/-- The node that a member names. -/
def memberNode (m : Nat) : Nat := m % 2 ^ 12

/-- A message of a COLL goes to a rank, over the axis's courses in the direction of `half`. A message that may not be sent
fails the collective with cause 1. -/
def State.collSend (s : State) (g serial : Nat) (r : CollRun) (rank half : Nat) (m : Msg) : State :=
  let member := r.members.getD rank 0
  let k := s.core g
  let m := { m with op := r.op, core := g, group := r.group % 2 ^ 16, cseq := r.cseq, src := s.crs.nodeId, srcPart := k.part }
  if r.axis = 5 then
    let m := { m with dst := s.crs.nodeId, dstPart := k.part, vc := 4 + member }
    s.modPort 16 fun p => { p with arrived := p.arrived ++ [m] }
  else
    let m := { m with dst := memberNode member, dstPart := member / 2 ^ 12 }
    let t := if r.axis = 4 then (if m.dst = s.crs.nodeId then s.send m none [] else s.sendPair m)
      else s.send m none (axisCourses r.axis half)
    match t with
    | some t => t
    | none => s.collFail g serial 1 m.dst

/-- A COLL that an access stops: its descriptor does not complete (R229). -/
def State.collStopAt (s : State) (g serial addr : Nat) (poison : Bool) : State :=
  match (s.core g).issued.find? (·.serial == serial) with
  | none => s
  | some i =>
    ((s.modCore g fun k => { k with issued := k.issued.filter (·.serial != serial) }).dropWriter g i.index).accessFault g addr
      poison tyColl i.index

/-- A COLL's run changed. -/
def State.modColl (s : State) (g serial : Nat) (f : CollRun → CollRun) : State :=
  match (s.core g).coll serial with
  | some (_, r) => s.setWork g serial (.coll (f r))
  | none => s

/-- Bytes that arrive for dst. -/
def State.collLand (s : State) (g serial : Nat) (runs : List (Nat × List Byte)) : State :=
  s.modColl g serial fun r => { r with
    runs := r.runs ++ runs.filter (fun e => !e.2.isEmpty), left := r.left - (runs.map fun e => e.2.length).sum }

/-! ### Writing dst -/

/-- Bytes of a run that lie in a page, in place. -/
def runInPage (x : Nat) (run : Nat × List Byte) : Nat × List Byte :=
  let a := max run.1 (x * pageBytes)
  (a, (run.2.drop (a - run.1)).take ((x + 1) * pageBytes - a))

/-- Runs of an array laid over a page's old bytes. -/
def overlay (x : Nat) (old : List Byte) (runs : List (Nat × List Byte)) : List Byte :=
  runs.foldl (fun bs run =>
    let (a, ys) := runInPage x run
    let o := a - x * pageBytes
    if ys.isEmpty then bs else bs.take o ++ ys ++ bs.drop (o + ys.length)) old

/-- The byte ranges of dst that an all-gather writes on a rank: every chunk but its own. -/
def gatherRanges (d : Nat) (n rank : Nat) : List (Nat × Nat) :=
  let N := L.count d
  (List.range n).flatMap fun j =>
    if j = rank then [] else
      let a := chunkStart N n j
      (elemRuns (L.fmt d) (L.dst d) N a (chunkStart N n (j + 1) - a)).filter (·.2 != 0)

/-- Bytes of ranges in a page. -/
def bytesInPage (x : Nat) (rs : List (Nat × Nat)) : Nat :=
  (rs.map fun (a, len) => min (a + len) ((x + 1) * pageBytes) - max a (x * pageBytes)).sum

/-- The pages of a versioned all-gather that are still to be written, in ascending order. -/
def CollRun.pagesLeft (r : CollRun) (d : Nat) : List Nat :=
  let rs := gatherRanges d r.members.length r.rank
  let lo := pageOf (L.dst d)
  let hi := rs.foldl (fun m (a, len) => max m (pageOf (a + len - 1) + 1)) lo
  (rangeFrom lo (hi - lo)).filter fun x => bytesInPage x rs != 0 && !r.advanced.contains x

/-- The lowest page still to be written is claimed, when all of its bytes have arrived; true when it is held. -/
def State.collClaim (s : State) (g serial : Nat) : State × Option Nat :=
  let k := s.core g
  match k.coll serial, k.ctx with
  | some (i, r), some c =>
    match r.pagesLeft i.desc with
    | [] => (s, none)
    | x :: _ =>
      let need := bytesInPage x (gatherRanges i.desc r.members.length r.rank)
      let have_ := (r.runs.map fun run => (runInPage x run).2.length).sum
      if have_ < need then (s, none)
      else
        let (s, waits) := s.preparePages k.part { core := g, ctx := c, index := i.index } r.waiting [x]
        let s := s.modColl g serial fun r => { r with waiting := waits }
        (s, if waits.isEmpty then some x else none)
  | _, _ => (s, none)

/-- A claimed page is written whole, the bytes that the COLL does not name copied from the newest buffer, and advances
(R206, R267). -/
def State.collAdvance (s : State) (g serial : Nat) : State :=
  match s.collClaim g serial with
  | (s, none) => s
  | (s, some x) =>
    match (s.core g).coll serial with
    | none => s
    | some (_, r) =>
      let n := (s.core g).part
      let whole := (r.runs.map fun run => (runInPage x run).2.length).sum == pageBytes
      let old := if whole then .ok (fill pageBytes 0) else s.devRead n .plain .newest (x * pageBytes) pageBytes
      let put := match old with
        | .ok bs => s.writerPut n (x * pageBytes) (overlay x bs r.runs) false
        | .bad a p => .bad a p
        | .wait a => .wait a
      match put with
      | .bad a p => s.collStopAt g serial a p
      | .wait _ => s
      | .ok s =>
        let s := s.advancePage n x
        s.modColl g serial fun r => { r with
          advanced := x :: r.advanced, waiting := []
          runs := r.runs.flatMap fun run =>
            let below := (run.1, run.2.take (x * pageBytes - run.1))
            let above := (max run.1 ((x + 1) * pageBytes), run.2.drop ((x + 1) * pageBytes - run.1))
            [below, above].filter fun e => !e.2.isEmpty }

/-- The runs of a COLL whose dst is not versioned are written as far as no page waits. -/
def State.collFlush (s : State) (g serial : Nat) : Nat → State
  | 0 => s
  | fuel + 1 =>
    match (s.core g).coll serial with
    | none => s
    | some (_, r) => match r.runs with
      | [] => s
      | (a, bs) :: t => match s.devWrite (s.core g).part .plain a bs with
        | .bad b p => s.collStopAt g serial b p
        | .wait _ => s.countDrains g serial [(a, bs.length)]
        | .ok s => (s.modColl g serial fun r => { r with runs := t }).collFlush g serial fuel

/-! ### Squares (R216) -/

/-- Elements of chunk `r` of a reduce-scatter. -/
def ownElems (d n rank : Nat) : Nat := chunkStart (L.count d) n (rank + 1) - chunkStart (L.count d) n rank

/-- The squares of the values written by a reduce-scatter are added to element (0, 0) of slot 7. -/
def State.addSquares (s : State) (g serial : Nat) : State :=
  match (s.core g).coll serial with
  | none => s
  | some (i, r) =>
    let m := ownElems i.desc r.members.length r.rank
    match s.readElems (s.core g).part .newest (L.fmt i.desc) (L.dst i.desc) m 0 m with
    | .ok bs =>
      let v := segValues (L.fmt i.desc) m bs
      let acc := groupSum rne64 m .zero (v.map fun x => x.mul x)
      let old := f64.decode (s.lsGet g 7 0 0)
      let s := s.lsSet g 7 0 0 (f64.encode .rne false 0 (rne64 (old.add acc)))
      s.modColl g serial fun r => { r with squared := true }
    | .bad a p => s.collStopAt g serial a p
    | .wait _ => s

/-- Whether a COLL's dst is versioned. -/
def State.collVersioned (s : State) (g d : Nat) : Bool := s.inWindow (s.core g).part (L.dst d)

/-- Whether a reduce-scatter with squares still has to add them. -/
def owesSquares (e : Issued × CollRun) : Bool := e.2.op == 1 && L.redOp e.1.desc == 2 && !e.2.squared

/-- A NORM_GATHER that has its S writes it to dst, releases slot 7, and is done (R217). -/
def State.normFlush (s : State) (g serial : Nat) : State :=
  let s := s.collFlush g serial 1
  match (s.core g).coll serial with
  | some (_, r) =>
    if r.runs.isEmpty then
      (s.modCore g fun k => { k with normOwner := false }).modColl g serial fun r => { r with done := true }
    else s
  | none => s

/-- A COLL goes on: it writes what it can, adds its squares in program order, and is done when nothing is left (R270). -/
def State.collStep (s : State) (g serial : Nat) : State :=
  match (s.core g).coll serial with
  | none => s
  | some (i, r) =>
    if r.op = 4 && !r.runs.isEmpty then s.normFlush g serial
    else if r.op ≥ 3 then s
    else
      let s := if s.collVersioned g i.desc then (s.collClaim g serial).1
        else s.collFlush g serial r.runs.length
      match (s.core g).coll serial with
      | none => s
      | some (_, r) =>
        if r.left = 0 && r.toSend = 0 && r.runs.isEmpty then
          let first := ((s.core g).colls.find? owesSquares).map (·.1.serial)
          let s := if owesSquares (i, r) then (if first = some serial then s.addSquares g serial else s) else s
          s.modColl g serial fun r => { r with done := !owesSquares (i, r) }
        else s

/-- Every COLL of a core goes on, in program order. -/
def State.collSteps (s : State) (g : Nat) : State := (s.core g).colls.foldl (fun s e => s.collStep g e.1.serial) s

/-! ### Reductions and gathers (R265 to R267) -/

/-- A reduced segment of a chunk reaches its owner: it is written, and an all-reduce sends it on to every other member. -/
def State.chunkWritten (s : State) (g serial e m : Nat) (bs : List Byte) : State :=
  match (s.core g).coll serial with
  | none => s
  | some (i, r) =>
    let N := L.count i.desc
    let n := r.members.length
    let f := L.fmt i.desc
    let (_, half) := chunkOf N n e
    if r.op = 1 then
      s.collLand g serial (layRuns (elemRuns f (L.dst i.desc) (ownElems i.desc n r.rank) (e - chunkStart N n r.rank) m) bs)
    else
      let s := s.collLand g serial (layRuns (elemRuns f (L.dst i.desc) N e m) bs)
      if n = 1 then s
      else
        let next := if half = 0 then (r.rank + 1) % n else (r.rank + n - 1) % n
        s.collSend g serial r next half { mkind := 0, fmt := f.code, count := N, offset := e, hop := n - 1, data := bs }

/-- The contribution of a rank at hop `h` of a segment: `p` is the partial sum received, none at hop 0. -/
def State.contribute (s : State) (g serial e m h : Nat) (p : Option (List Byte)) : State :=
  match (s.core g).coll serial with
  | none => s
  | some (i, r) =>
    let d := i.desc
    let N := L.count d
    let n := r.members.length
    let f := L.fmt d
    let (j, half) := chunkOf N n e
    let sel := { s.core g with sq := i.regs }.sel
    match s.readElems (s.core g).part sel f (L.src d) N e m with
    | .bad a q => s.collStopAt g serial a q
    | .wait _ => s
    | .ok own =>
      let bs := match p with
        | none => own
        | some p =>
          let xs := (segValues f m p).zip (segValues f m own)
          let ys := xs.map fun (a, b) => if L.redOp d = 1 then Fp.max a b else rne32 (a.add b)
          collConvert f r.seed r.group r.rank r.op h e ys
      let s := s.modColl g serial fun r => { r with toSend := r.toSend - m }
      if h + 1 = n then s.chunkWritten g serial e m bs
      else s.collSend g serial r (orderAt n j half (h + 1)) half
        { mkind := 0, fmt := f.code, count := N, offset := e, hop := h, data := bs }

/-- Elements that a segment's data holds. -/
def segLength (N n e : Nat) : Nat :=
  let (j, half) := chunkOf N n e
  let (_, b) := halfRange N n j half
  min segElems (b - e)

/-- A gathered segment arrives: it is kept for dst and travels on, until every rank has it. `h` counts the hops of the
gather. -/
def State.gathered (s : State) (g serial e m h hop : Nat) (bs : List Byte) : State :=
  match (s.core g).coll serial with
  | none => s
  | some (i, r) =>
    let N := L.count i.desc
    let n := r.members.length
    let f := L.fmt i.desc
    let (_, half) := chunkOf N n e
    let s := s.collLand g serial (layRuns (elemRuns f (L.dst i.desc) N e m) bs)
    if h + 2 < n then
      let next := if half = 0 then (r.rank + 1) % n else (r.rank + n - 1) % n
      s.collSend g serial r next half { mkind := 0, fmt := f.code, count := N, offset := e, hop := hop + 1, data := bs }
    else s

/-- A rank's own chunk of an all-gather sets out, and goes into dst unless it stands there (R267). -/
def State.gatherOwn (s : State) (g serial : Nat) : State :=
  match (s.core g).coll serial with
  | none => s
  | some (i, r) =>
    let d := i.desc
    let N := L.count d
    let n := r.members.length
    let f := L.fmt d
    let a := chunkStart N n r.rank
    let inPlace := L.src d == L.dst d + packedBytes f a
    let sel := if s.collVersioned g d then Sel.newest else { s.core g with sq := i.regs }.sel
    ([0, 1].flatMap fun half => (halfSegments N n r.rank half).map fun q => (half, q)).foldl (fun s (half, e, m) =>
      let bytes := if inPlace then s.readElems (s.core g).part sel f (L.dst d) N e m
        else s.readElems (s.core g).part sel f (L.src d) (ownElems d n r.rank) (e - a) m
      match bytes with
      | .bad b q => s.collStopAt g serial b q
      | .wait _ => s
      | .ok bs =>
        let s := s.modColl g serial fun r => { r with toSend := r.toSend - m }
        let s := if inPlace then s else s.collLand g serial (layRuns (elemRuns f (L.dst d) N e m) bs)
        if n = 1 then s
        else
          let next := if half = 0 then (r.rank + 1) % n else (r.rank + n - 1) % n
          s.collSend g serial r next half { mkind := 0, fmt := f.code, count := N, offset := e, hop := 0, data := bs }) s

/-! ### All-to-all (R268) -/

/-- The count of bin `e` of rank `r` in the table at the start of src. -/
def countAt (table : List Byte) (bins r e : Nat) : Nat := leAt table (4 * (r * bins + e)) 4
/-- Rows of a rank in the table. -/
def rowsOf (table : List Byte) (bins r : Nat) : Nat := ((List.range bins).map (countAt table bins r)).sum

/-- A rank's contribution to another: its counts, padded to 64 bytes, and its rows. -/
def CollRun.contribution (r : CollRun) (table rows : List Byte) (rank : Nat) : List Byte :=
  let before := ((List.range rank).map (rowsOf table r.bins)).sum
  let counts := (table.drop (4 * r.bins * rank)).take (4 * r.bins)
  padTo (alignUp (4 * r.bins) 64) counts
    ++ (rows.drop (before * r.rowBytes)).take (rowsOf table r.bins rank * r.rowBytes)

/-- The whole contribution of a rank, where all of its parts have arrived. -/
def CollRun.whole (r : CollRun) (rank : Nat) : Option (List Byte) :=
  let parts := r.rowsIn.filter (·.1 == rank)
  match parts.find? (·.2.1 == 0) with
  | none => none
  | some (_, _, first) =>
    let head := alignUp (4 * r.bins) 64
    let total := head + ((List.range r.bins).map fun e => leAt first (4 * e) 4).sum * r.rowBytes
    if (parts.map fun q => q.2.2.length).sum < total then none
    else some ((List.range (total / msgMax + 1)).flatMap fun p => match parts.find? (·.2.1 == p) with
      | some q => q.2.2
      | none => [])

/-- Whether a COLL waits for a peer, or for a page (R207, R313): with nothing left to arrive or to send it only writes. -/
def CollRun.waitsOutside (r : CollRun) : Bool :=
  !r.done && (!r.waiting.isEmpty || r.toSend != 0 || match r.op with
    | 3 => (List.range r.members.length).any fun i => (r.whole i).isNone
    | 4 => r.runs.isEmpty
    | _ => r.left != 0)

/-- Rows of bin `e` of a contribution. -/
def CollRun.binRows (r : CollRun) (bs : List Byte) (e : Nat) : List Byte :=
  let head := alignUp (4 * r.bins) 64
  let before := ((List.range e).map fun i => leAt bs (4 * i) 4).sum
  (bs.drop (head + before * r.rowBytes)).take (leAt bs (4 * e) 4 * r.rowBytes)

/-- The bin of the first row that a part of a contribution holds; `off` is the part's place in it (R252). -/
def CollRun.binAt (r : CollRun) (bs : List Byte) (off : Nat) : Nat :=
  let head := alignUp (4 * r.bins) 64
  let stop := fun e => head + ((List.range (e + 1)).map fun i => leAt bs (4 * i) 4).sum * r.rowBytes
  ((List.range r.bins).find? fun e => decide (off < stop e)).getD 0

/-- When every contribution is there, the rows are placed, dropped beyond cap, and the counters added (R268, R270). -/
def State.a2aStep (s : State) (g serial : Nat) : State :=
  match (s.core g).coll serial with
  | none => s
  | some (i, r) =>
    let n := r.members.length
    match (List.range n).mapM r.whole with
    | none => s
    | some parts =>
      if r.done then s
      else
        let d := i.desc
        let p := (s.core g).part
        let bins := (List.range r.bins).map fun e => (parts.map fun bs => r.binRows bs e).flatten
        let placed := bins.map fun bs => bs.take (r.cap * r.rowBytes)
        let dropped := (bins.map fun bs => (bs.length - r.cap * r.rowBytes) / max 1 r.rowBytes).sum
        let res := placed.zipIdx.foldl (fun (a : Acc State) (bs, e) => match a with
          | .ok t => if bs.isEmpty then .ok t else t.devWrite p .plain (L.dst d + e * r.cap * r.rowBytes) bs
          | a => a) (.ok s)
        match res with
        | .bad a q => s.collStopAt g serial a q
        | .wait _ => s.countDrains g serial (placed.zipIdx.map fun (bs, e) => (L.dst d + e * r.cap * r.rowBytes, bs.length))
        | .ok s =>
          let s := s.modDie (dieOf g) fun q => { q with a2aOverflow := satAdd 16 q.a2aOverflow dropped }
          let s := if L.cntCtr d = 0xFFFF then s
            else placed.zipIdx.foldl (fun s (bs, e) =>
              s.addCounter (ownDie g (L.cntCtr d + e)) (BitVec.ofNat 64 (bs.length / max 1 r.rowBytes))) s
          s.modColl g serial fun r => { r with done := true }

/-- A rank's rows set out to every member; its own are kept. -/
def State.a2aSend (s : State) (g serial : Nat) : State :=
  match (s.core g).coll serial with
  | none => s
  | some (i, r) =>
    let d := i.desc
    let n := r.members.length
    let k := s.core g
    let sel := { k with sq := i.regs }.sel
    let head := alignUp (4 * n * r.bins) 64
    match s.devRead k.part .plain sel (L.src d) head with
    | .bad a q => s.collStopAt g serial a q
    | .wait _ => s
    | .ok table =>
      let all := ((List.range n).map (rowsOf table r.bins)).sum
      match s.devRead k.part .plain sel (L.src d + head) (all * r.rowBytes) with
      | .bad a q => s.collStopAt g serial a q
      | .wait _ => s
      | .ok rows =>
        let s := s.modColl g serial fun r => { r with toSend := 0 }
        let s := (List.range n).foldl (fun s rank =>
          let bs := r.contribution table rows rank
          (msgParts (bs.length / msgMax + 1) 0 bs).foldl (fun s (off, part) =>
            if rank = r.rank then
              s.modColl g serial fun r => { r with rowsIn := r.rowsIn ++ [(rank, off / msgMax, part)] }
            else s.collSend g serial r rank (if (rank + n - r.rank) % n ≤ n / 2 then 0 else 1)
              { mkind := 1, fmt := L.fmtCode d, count := L.count d, offset := r.binAt bs off + r.rank * 2 ^ 16, hop := off / msgMax
                data := part }) s) s
        s.a2aStep g serial

/-! ### The global norm (R217, R269) -/

/-- A fixed tree of sums; `k` bounds its rounds. -/
def treeSum : Nat → List Fp → Fp
  | 0, v => v.headD .zero
  | k + 1, v => match v with
    | [] => .zero
    | [x] => x
    | v => treeSum k (pairSums rne64 v)

/-- The sum of a package over a context's cores: each die's in ascending order of core, then the dies'. -/
def State.packageSum (s : State) (x : Ctx) : Fp :=
  let die := fun d => (x.coreList.filter fun g => dieOf g == d).foldl
    (fun acc g => rne64 (acc.add (f64.decode (s.lsGet g 7 0 0)))) Fp.zero
  [0, 1, 2, 3].foldl (fun acc d => rne64 (acc.add (die d))) Fp.zero

/-- The NORM_GATHERs of a core on a group, in program order, that are combined with the number `of` of the lowest core's, or with
none yet. -/
def Core.normColl (k : Core) (group : Nat) (of : Option Nat) : Option (Issued × CollRun) :=
  k.colls.find? fun e => e.2.op == 4 && e.2.group == group && e.2.normOf == of

/-- S is known on a package: every core of the context that is combined under number `of` writes it to its dst (R217). -/
def State.normWrite (s : State) (x : Ctx) (group of bits : Nat) : State :=
  x.coreList.foldl (fun (s : State) g => match (s.core g).normColl group (some of) with
    | none => s
    | some (i, _) => (s.modColl g i.serial fun r => { r with runs := [(L.dst i.desc, toLE 8 bits)] }).normFlush g i.serial) s

/-- Rank 0 has every package's sum: it forms S and sends it to every member. -/
def State.normRoot (s : State) (g serial : Nat) (x : Ctx) : State :=
  match (s.core g).coll serial with
  | none => s
  | some (i, r) =>
    let n := r.members.length
    if r.rank != 0 || r.norms.length < n then s
    else
      let v := (List.range n).map fun i => f64.decode (Tab.get 0 r.norms i)
      let bits := f64.encode .rne false 0 (treeSum n v)
      let s := (List.range n).foldl (fun s j =>
        if j = 0 then s
        else s.collSend g serial r j (if j ≤ n / 2 then 0 else 1)
          { mkind := 2, fmt := L.fmtCode i.desc, count := L.count i.desc, hop := 1, data := toLE 8 bits }) s
      s.normWrite x r.group r.cseq bits

/-- When every core of the context has issued its NORM_GATHER, the package's sum is formed, and goes to rank 0. Each core's next
NORM_GATHER on the group takes part, whatever number it has (R263, R269). -/
def State.normStep (s : State) (g serial : Nat) : State :=
  let k := s.core g
  match k.coll serial, k.ctx.bind (s.ctx k.part ·) with
  | some (_, r), some x =>
    let low := x.coreList.headD 0
    if !(x.coreList.all fun h => ((s.core h).normColl r.group none).isSome) then s
    else match (s.core low).normColl r.group none with
    | none => s
    | some (li, lr) =>
      let s := x.coreList.foldl (fun (s : State) h => match (s.core h).normColl r.group none with
        | some (i, _) => s.modColl h i.serial fun q => { q with normOf := some lr.cseq, summed := true }
        | none => s) s
      let bits := f64.encode .rne false 0 (s.packageSum x)
      if lr.axis = 5 then s.normWrite x lr.group lr.cseq bits
      else if lr.rank = 0 then
        (s.modColl low li.serial fun r => { r with norms := Tab.insert 0 bits r.norms }).normRoot low li.serial x
      else
        let n := lr.members.length
        s.collSend low li.serial lr 0 (if (n - lr.rank) % n ≤ n / 2 then 0 else 1)
          { mkind := 2, fmt := L.fmtCode li.desc, count := L.count li.desc, offset := lr.rank, hop := 0, data := toLE 8 bits }
  | _, _ => s

/-! ### Matching messages (R263) -/

/-- Whether a message belongs to a COLL of core `g`: axis 5 by the receiving die, the others by group and number. -/
def collMatches (g : Nat) (r : CollRun) (m : Msg) : Bool :=
  m.cseq == r.cseq && (if 4 ≤ m.vc then r.axis == 5 && dieOf g == m.vc - 4 else r.axis != 5 && m.group == r.group)

/-- The core that a collective message is for. -/
def Msg.target (m : Msg) : Nat := if 4 ≤ m.vc then 64 * (m.vc - 4) + m.core % 64 else m.core

/-- A message reaches its COLL; a mismatch fails it (R263). -/
def State.collMessage (s : State) (g : Nat) (i : Issued) (r : CollRun) (m : Msg) : State :=
  let d := i.desc
  let N := L.count d
  let n := r.members.length
  if m.mkind = 6 then s.collFail g i.serial (if m.reason = 0 then 2 else 1) m.src
  else if m.op != r.op || m.fmt != L.fmtCode d || (m.mkind != 1 && m.count != N) then
    s.collFail g i.serial 3 m.src
  else match m.mkind with
    | 0 =>
      let e := m.offset
      let len := segLength N n e
      let s := if r.op = 2 then s.gathered g i.serial e len m.hop m.hop m.data
        else if n - 1 ≤ m.hop then s.gathered g i.serial e len (m.hop - (n - 1)) m.hop m.data
        else s.contribute g i.serial e len (m.hop + 1) (some m.data)
      s.collSteps g
    | 1 =>
      (s.modColl g i.serial fun r => { r with rowsIn := r.rowsIn ++ [(m.offset / 2 ^ 16, m.hop, m.data)] }).a2aStep g i.serial
    | _ =>
      match (s.core g).ctx.bind (s.ctx (s.core g).part ·) with
      | none => s
      | some x =>
        if m.hop = 0 then
          (s.modColl g i.serial fun r => { r with norms := Tab.insert m.offset (leAt m.data 0 8) r.norms }).normRoot g i.serial x
        else s.normWrite x r.group r.cseq (leAt m.data 0 8)

/-- The COLL that a message belongs to. -/
def State.collFor (s : State) (m : Msg) : Option (Nat × Issued × CollRun) :=
  let g := m.target
  ((s.core g).colls.find? fun e => collMatches g e.2 m && (s.core g).part == m.dstPart).map fun e => (g, e)

/-- Whether a COLL can take a message now: its read or write of a page that waits for a version would lose it. -/
def State.collTakes (s : State) (g : Nat) (i : Issued) (r : CollRun) (m : Msg) : Bool :=
  if m.mkind = 0 && r.op ≤ 1 && decide (m.hop + 1 < r.members.length) then
    match s.readElems (s.core g).part ({ s.core g with sq := i.regs }.sel) (L.fmt i.desc) (L.src i.desc) (L.count i.desc)
        m.offset (segLength (L.count i.desc) r.members.length m.offset) with
    | .wait _ => false
    | _ => true
  else true

/-- Messages held for a core's COLLs are taken, oldest first, and their credits returned; `k` bounds them. -/
def State.takeHeld (s : State) (g : Nat) : Nat → State
  | 0 => s
  | k + 1 =>
    let hit := s.crs.heldColl.find? fun (_, m) => m.target == g && (match s.collFor m with
      | some (h, i, r) => s.collTakes h i r m
      | none => false)
    match hit with
    | none => s
    | some (c, m) =>
      let s := { s with crs := { s.crs with heldColl := s.crs.heldColl.erase (c, m) } }
      let s := s.freeCredits c m
      match s.collFor m with
      | some (h, i, r) => (s.collMessage h i r m).takeHeld g k
      | none => s

/-- A collective message is taken by its COLL or held for it (R263). -/
def State.collReceive (s : State) (c : Nat) (m : Msg) : State :=
  let s := { s with crs := { s.crs with heldColl := s.crs.heldColl ++ [(c, m)] } }
  s.takeHeld m.target s.crs.heldColl.length

/-! ### Issue -/

/-- The formats that a COLL accepts: ops 3 and 4 take any code that is not reserved (R8, R266, R267). -/
def collCodeOk (d : Nat) : Bool :=
  decide (L.op d ≤ 4) && decide (L.axis d ≤ 5) && (
    if L.op d ≤ 1 then
      (match Fmt.ofCode (L.fmtCode d) with
        | some f => f.isFloat
        | none => false)
      && L.redOp d != 3 && !(L.redOp d == 2 && L.op d == 0)
    else match Fmt.ofCode (L.fmtCode d) with
      | some f => f != .sbf || decide (3 ≤ L.op d)
      | none => false)

/-- A group record of a partition (R262): members, rank, bins, row_bytes, cap. -/
structure GroupRec where
  members : List Nat
  rank : Nat
  bins : Nat
  rowBytes : Nat
  cap : Nat
  deriving DecidableEq, Repr

/-- The group of a COLL: its record, or the dies of axis 5, which has no record: the bins, row bytes and cap of an all-to-all come
from the free value `free`. A cause of R271 where the record is inconsistent. -/
def State.groupOf (s : State) (g n d : Nat) (rec_ : List Byte) (free : Nat) : GroupRec ⊕ Nat :=
  if L.axis d = 5 then
    let dies := (List.range 4).filter fun i => s.coreIn n (64 * i + g % 64)
    .inl {
      members := dies, rank := dies.idxOf (dieOf g), bins := 1 + field free 5 0, rowBytes := 64 * (1 + field free 15 6)
      cap := field free 63 32 }
  else
    let k := leAt rec_ 0 2
    let r : GroupRec := {
      members := (List.range k).map fun i => leAt rec_ (0x40 + 2 * i) 2, rank := leAt rec_ 2 2
      bins := leAt rec_ 4 1, rowBytes := leAt rec_ 8 4, cap := leAt rec_ 12 4 }
    let me := s.crs.nodeId + n * 2 ^ 12
    let p := s.pair n
    if k = 0 || k > 1024 || r.members[r.rank]? != some me then .inr 3
    else if L.op d = 3 && (r.bins = 0 || r.bins > 64 || r.rowBytes % 64 != 0 || r.rowBytes > 65536) then .inr 3
    else if L.axis d = 4 then
      if p.state != 2 then .inr 4
      else if k = 2 && r.members.contains (p.node + p.npart * 2 ^ 12) then .inl r else .inr 3
    else .inl r

/-- The byte ranges of dst that a COLL writes, for its checks. -/
def collDst (d : Nat) (r : GroupRec) : List (Nat × Nat) :=
  collRanges d r.members.length r.rank (r.bins * r.cap * r.rowBytes)

/-- The faults of a COLL at issue once its group is known (R91, R99, R206, R267, R268). -/
def State.collFault (s : State) (g n d : Nat) (r : GroupRec) : Option Nat :=
  let N := L.count d
  let k := r.members.length
  let f := L.fmt d
  let touches := (collDst d r).any fun (a, len) => s.inWindow n a || s.inWindow n (a + len - 1)
  let pageCut := (List.range k).any fun j =>
    let e := chunkStart N k (j + 1)
    e != N && (L.dst d + packedBytes f e) % pageBytes != 0
  if L.op d = 3 && L.cntCtr d != 0xFFFF && decide (4096 < L.cntCtr d % 2 ^ 12 + r.bins) then some 2
  else if L.op d = 3 && L.cntCtr d != 0xFFFF && !s.clusterIn n (counterCluster (ownDie g (L.cntCtr d))) then some 2
  else if touches && L.op d != 2 then some 3
  else if touches && (L.dst d % pageBytes != 0 || pageCut || L.src d != L.dst d + packedBytes f (chunkStart N k r.rank)) then some 3
  else if (collDst d r).any fun (a, len) => s.meetsProgram n a len then some 4
  else none

/-- Whether a read of a COLL's src still waits for a version (R202, R204). -/
def State.srcWaits (s : State) (g : Nat) (i : Issued) (r : CollRun) : Bool :=
  let d := i.desc
  let n := r.members.length
  let sel := { s.core g with sq := i.regs }.sel
  let waits := fun (a : Acc (List Byte)) => match a with
    | .wait _ => true
    | _ => false
  if r.op ≤ 1 then waits (s.readElems (s.core g).part sel (L.fmt d) (L.src d) (L.count d) 0 (L.count d))
  else if r.op = 2 then
    let m := ownElems d n r.rank
    !s.collVersioned g d && waits (s.readElems (s.core g).part sel (L.fmt d) (L.src d) m 0 m)
  else if r.op = 3 then
    waits (s.devRead (s.core g).part .plain sel (L.src d) (alignUp (4 * n * r.bins) 64 + L.count d * r.rowBytes))
  else false

/-- The segments that a rank is the first to contribute to. -/
def firstSegments (N n rank : Nat) : List (Nat × Nat) :=
  let starts := if n = 1 then [(0, 0), (0, 1)] else [((rank + n - 1) % n, 0), ((rank + 1) % n, 1)]
  starts.flatMap fun q => halfSegments N n q.1 q.2

/-- A new COLL sets out, once its src can be read: the first hop of every segment it starts, its own chunk, its rows, or its
norm. -/
def State.collStart (s : State) (g serial : Nat) : State :=
  match (s.core g).coll serial with
  | none => s
  | some (i, r) =>
    if r.started || s.srcWaits g i r then s
    else
      let s := s.modColl g serial fun r => { r with started := true }
      match r.op with
      | 0 | 1 =>
        (firstSegments (L.count i.desc) r.members.length r.rank).foldl
          (fun (s : State) q => s.contribute g serial q.1 q.2 0 none) s
      | 2 => s.gatherOwn g serial
      | 3 => s.a2aSend g serial
      | _ => s.normStep g serial

/-- What a COLL still expects when it starts: bytes of dst, and elements to contribute. -/
def collExpects (d : Nat) (r : GroupRec) : Nat × Nat :=
  let n := r.members.length
  let N := L.count d
  let f := L.fmt d
  let size := fun (rs : List (Nat × Nat)) => (rs.map (·.2)).sum
  match L.op d with
  | 0 => (size (elemRuns f 0 N 0 N), N)
  | 1 => let m := ownElems d n r.rank
         (size (elemRuns f 0 m 0 m), N)
  | 2 =>
    let own := size (elemRuns f 0 N (chunkStart N n r.rank) (ownElems d n r.rank))
    let inPlace := L.src d == L.dst d + packedBytes f (chunkStart N n r.rank)
    (size (gatherRanges d n r.rank) + (if inPlace then 0 else own), ownElems d n r.rank)
  | 3 => (0, L.count d)
  | _ => (0, 0)

/-- A COLL of the given op is issued (R94, R96, R262, R263, R271). -/
def State.issueColl (s : State) (g op : Nat) : State :=
  let k := s.core g
  match s.gate g (fun d => dType d == tyColl && (L.op d == op || (op == 0 && decide (5 ≤ L.op d)))) false (k.outstanding tyColl) 8 with
  | .stay s => s
  | .go d0 =>
    let d := applyOffsets d0 k.sq
    match s.headerFault g d, k.ctx with
    | some c, _ => s.seqFault g c tyColl k.pc
    | none, none => s
    | none, some _ =>
      let n := k.part
      let p := s.part n
      let key := if L.axis d = 5 then 2 ^ 16 else L.group d
      if !collCodeOk d then s.seqFault g 1 tyColl k.pc
      else if L.axis d != 5 && L.group d ≥ p.groups then s.seqFault g 3 tyColl k.pc
      else if k.cseq.length ≥ 480 && (k.cseq.find key).isNone then s.seqFault g 3 tyColl k.pc
      else
        let at_ := p.groupBase + 0x1000 * L.group d
        let (e, s) := if L.axis d = 5 && L.op d = 3 then s.draw else (0, s)
        match (if L.axis d != 5 then s.devRead n .plain .newest at_ 0x840 else .ok []) with
        | .bad a q => s.accessFault g a q tyColl k.pc
        | .wait _ => s
        | .ok rec_ =>
          let grp := s.groupOf g n d rec_ (Config.value e).toNat
          let r := match grp with
            | .inl r => r
            | .inr _ => { members := [0], rank := 0, bins := 1, rowBytes := 64, cap := 0 }
          match (match grp with
            | .inl _ => s.collFault g n d r
            | .inr _ => none) with
          | some c => s.seqFault g c tyColl k.pc
          | none =>
            let cseq := Tab.get 0 k.cseq key
            let (left, toSend) := collExpects d r
            let run : CollRun := {
              op := L.op d, group := key, axis := L.axis d, cseq := cseq, rank := r.rank, members := r.members
              seed := k.sq.getD (L.seedReg d) 0, bins := r.bins, rowBytes := r.rowBytes, cap := r.cap
              left := left, toSend := toSend }
            let serial := k.serial
            let squares := L.op d = 1 && L.redOp d = 2
            let s := if squares && !k.normOwner then s.lsSet g 7 0 0 0 else s
            let s := s.issue g d (.coll run)
            let s := s.modCore g fun k => { k with
              cseq := Tab.insert key ((cseq + 1) % 2 ^ 32) k.cseq, normOwner := k.normOwner || squares }
            match grp with
            | .inr cause => s.collFail g serial cause (s.pair n).node
            | .inl _ => ((s.collStart g serial).collSteps g).takeHeld g s.crs.heldColl.length

/-! ### Resume points of an all-gather (R208) -/

/-- The first element of a page of an all-gather's dst; beyond the elements of a microscaling tensor, of the block of a scale. -/
def elemOfPage (d x : Nat) : Nat :=
  let f := L.fmt d
  let o := x * pageBytes - L.dst d
  if o < packedBytes f (L.count d) then o * 8 / max 1 f.width else 32 * (o - packedBytes f (L.count d))

/-- A stop request reaches the all-gathers into the version window that wait for a page or write one: each leaves the core at the
lowest page that has not advanced (R208). What has arrived for it and its claims stay. -/
def State.collSuspend (s : State) (g : Nat) : State :=
  let k := s.core g
  k.colls.foldl (fun (s : State) (e : Issued × CollRun) =>
    let (i, r) := e
    if k.stopReq && r.op = 2 && s.collVersioned g i.desc && !r.done && (!r.waiting.isEmpty || !r.runs.isEmpty) then
      match r.pagesLeft i.desc with
      | [] => s
      | x :: _ => s.keepResume g i (elemOfPage i.desc x)
    else s) s

/-- The run of an all-gather that a record names and the device has not kept: it starts anew at element `e`. -/
def State.collAnew (s : State) (g d e : Nat) : Option CollRun :=
  let k := s.core g
  let n := k.part
  let rec_ := match s.devRead n .plain .newest ((s.part n).groupBase + 0x1000 * L.group d) 0x840 with
    | .ok bs => bs
    | _ => []
  match s.groupOf g n d rec_ 0 with
  | .inr _ => none
  | .inl r =>
    let key := if L.axis d = 5 then 2 ^ 16 else L.group d
    let from_ := L.dst d + packedBytes (L.fmt d) e
    some {
      op := 2, group := key, axis := L.axis d, cseq := (Tab.get 0 k.cseq key + 2 ^ 32 - 1) % 2 ^ 32, rank := r.rank
      members := r.members, started := true, seed := k.sq.getD (L.seedReg d) 0
      left := ((gatherRanges d r.members.length r.rank).map fun (a, len) => a + len - max a from_).sum
      advanced := rangeFrom (pageOf (L.dst d)) (pageOf from_ - pageOf (L.dst d)) }

/-- A stopped all-gather is issued again and goes on: pages that have advanced are not written again (R208). -/
def State.collResume (s : State) (g x e : Nat) : State :=
  let k := s.core g
  if !(k.ctx.isSome && k.state == .issuing && !k.stopReq) then s
  else
    let again : Option Issued := match k.resumes with
      | (i, _) :: _ => match i.work with
        | .coll _ => some i
        | _ => none
      | [] => match s.descriptor g x with
        | .ok d0 =>
          if dType d0 != tyColl || L.op d0 != 2 then none
          else
            let d := applyOffsets d0 k.sq
            (s.collAnew g d e).map fun r => { serial := 0, index := x, desc := d, regs := k.sq, work := .coll r }
        | _ => none
    match again with
    | none => s
    | some i => ((s.takeResume g i).collSteps g).takeHeld g s.crs.heldColl.length

/-! ### Rows -/

/-- ALL_REDUCE: a COLL of op 0 is issued; one with a reserved op raises cause 0x01 (R8, R265, R267). -/
def execAllReduce (g : Nat) (s : State) : Host.Outcome State Fault Refusal :=
  if s.dieOff (dieOf g) then .next s else .next (s.issueColl g 0)

/-- REDUCE_SCATTER: a COLL of op 1 is issued (R265, R216). -/
def execReduceScatter (g : Nat) (s : State) : Host.Outcome State Fault Refusal :=
  if s.dieOff (dieOf g) then .next s else .next (s.issueColl g 1)

/-- ALL_GATHER: a COLL of op 2 is issued, or one that was stopped under R208 goes on (R267). -/
def execAllGather (g : Nat) (s : State) : Host.Outcome State Fault Refusal :=
  if s.dieOff (dieOf g) then .next s else
  match (s.core g).resumePoint with
  | some (i, e) => .next (s.collResume g i e)
  | none => .next (s.issueColl g 2)

/-- ALL_TO_ALL: a COLL of op 3 is issued (R268). -/
def execAllToAll (g : Nat) (s : State) : Host.Outcome State Fault Refusal :=
  if s.dieOff (dieOf g) then .next s else .next (s.issueColl g 3)

/-- NORM_GATHER: a COLL of op 4 is issued (R217, R269). -/
def execNormGather (g : Nat) (s : State) : Host.Outcome State Fault Refusal :=
  if s.dieOff (dieOf g) then .next s else .next (s.issueColl g 4)

/-- Whether every message of a COLL has been sent: none waits at a course (R270). -/
def State.sentInFull (s : State) (g : Nat) (r : CollRun) : Bool :=
  (List.range 16).all fun c => (s.port c).queue.all fun q =>
    r.axis == 5 || !(q.msg.src == s.crs.nodeId && q.msg.srcPart == (s.core g).part && decide (q.msg.mkind ≤ 2) && q.msg.core == g
      && q.msg.group == r.group && q.msg.cseq == r.cseq)

/-- COLL_COMPLETE: a COLL whose part has been delivered, no byte of it waiting for the host to give up a line (R246), completes on
its core (R270). -/
def execCollComplete (g serial : Nat) (s : State) : Host.Outcome State Fault Refusal :=
  if s.dieOff (dieOf g) then .next s else
  let s := (s.collStart g serial).collSteps g
  match (s.core g).coll serial with
  | some (_, r) =>
    let s := if r.op = 3 then s.a2aStep g serial else s
    match (s.core g).coll serial with
    | some (i, r) =>
      if r.done && s.sentInFull g r && !((collRanges i.desc r.members.length r.rank (r.bins * r.cap * r.rowBytes)).any
          fun (e : Nat × Nat) => s.heldIn e.1 e.2) then
        .next ((s.modDie (dieOf g) fun d => { d with collCompleted := wrapAdd 32 d.collCompleted 1 }).complete g serial)
      else .next s
    | none => .next s
  | none => .next s

/-- VERSION_CLAIM: the writers of a core claim the next page's other buffer (R207). -/
def execVersionClaim (g : Nat) (s : State) : Host.Outcome State Fault Refusal :=
  if s.dieOff (dieOf g) then .next s else
  let s := s.updProceed g (s.updFuel g)
  let s := (s.core g).colls.foldl (fun (s : State) e => s.collStart g e.1.serial) s
  .next ((s.collSteps g).takeHeld g s.crs.heldColl.length)

/-- VERSION_ADVANCE: the writers of a core write the pages they have claimed, whose versions advance (R206). -/
def execVersionAdvance (g : Nat) (s : State) : Host.Outcome State Fault Refusal :=
  if s.dieOff (dieOf g) then .next s else
  let s := s.updAdvance g
  let s := (s.core g).colls.foldl (fun s e =>
    if e.2.op = 2 && s.collVersioned g e.1.desc then s.collAdvance g e.1.serial else s) s
  .next (s.collSteps g)

end Sys2Proof.Machine
end

