-- ==== Sys2Proof/Machine/Links.lean ====
section
/-! DEFINITION. Messages that a course delivers (R254, R259, R261), the training and the loss of courses (R256, R257), and
node adoption (R260). Port 16 holds the messages for the package itself (R258). -/

namespace Sys2Proof.Machine

/-! ### Messages -/

/-- Whether a core or the context that has left it keeps a COLL for resumption that a message belongs to (R208). -/
def State.keepsColl (s : State) (m : Msg) : Bool :=
  let g := m.target
  let mine := fun (rs : List (Issued × Nat)) => rs.any fun e => match e.1.work with
    | .coll r => collMatches g r m
    | _ => false
  s.coreIn m.dstPart g && (mine (s.core g).resumes || (s.part m.dstPart).ctxs.any fun x => mine (x.2.core g).resumes)

/-- A refusal reaches what it refuses: a collective, a pair or a fill (R271, R276, R376). One for a COLL that is kept for resumption
is held for it. -/
def State.refused (s : State) (m : Msg) : State :=
  if m.hop ≤ 2 then
    match s.collFor m with
    | some (g, i, r) => s.collMessage g i r m
    | none => if s.keepsColl m then { s with crs := { s.crs with heldColl := s.crs.heldColl ++ [(16, m)] } } else s
  else s.pairRefused m

/-- A message of the mirror or control channel is consumed by the pair or the fill it belongs to, or refused with NOT_BOUND
(R276). -/
def State.mirrorMessage (s : State) (n : Nat) (m : Msg) : State :=
  let p := s.pair n
  let mine := p.node == m.src && p.npart == m.srcPart
  if m.mkind = 7 then s.handshake n m
  else if m.mkind = 5 && decide (2 ≤ m.op) then
    match s.fillOf true with
    | some f => if f.part = n && f.node = m.src && f.npart = m.srcPart && f.matched then s.fillMessage f m
      else s.sendRefusal m 2
    | none => s.sendRefusal m 2
  else if (p.state = 1 || p.state = 2) && mine then s.pairMessage n m
  else if p.state = 3 && mine then s
  else s.sendRefusal m 2

/-- Whether a message is a part of a bind copy or of a fill that this side takes. -/
def State.landDue (s : State) (n : Nat) (m : Msg) : Bool :=
  (s.part n).state == 1 && m.mkind == 5
    && if m.op ≤ 1 then
        let p := s.pair n
        p.state == 1 && p.node == m.src && p.npart == m.srcPart
      else match s.fillOf true with
        | some f => f.part == n && f.node == m.src && f.npart == m.srcPart && f.matched
        | none => false

/-- A whole message is consumed (R254, R261, R263). -/
def State.consume (s : State) (c : Nat) (m : Msg) : State :=
  let n := m.dstPart
  if (s.part n).state != 1 then (s.freeCredits c m).sendRefusal m 0
  else if m.mkind = 6 then (s.freeCredits c m).refused m
  else if m.mkind ≤ 2 then s.collReceive c m
  else if m.mkind ≤ 7 then (s.freeCredits c m).mirrorMessage n m
  else s.freeCredits c m

/-- MESSAGE_RECEIVE: the oldest whole message of a course is forwarded, or consumed, or refused (R254, R259, R261). A part of a bind
copy or of a fill stays where it is until its bytes may be written (R228, R246). -/
def execMessageReceive (c : Nat) (s : State) : Host.Outcome State Fault Refusal :=
  if s.dieOff (if c = 16 then 4 else c % 4) then .next s else
  if 16 < c then .next s
  else match (s.port c).arrived with
    | [] => .next s
    | m :: t =>
      if m.dst = s.crs.nodeId && s.landDue m.dstPart m && s.landWaits m.dstPart m then .next s else
      let s := s.modPort c fun p => { p with arrived := t }
      if m.dst = s.crs.nodeId then .next ((s.consume c m).settleBridges)
      else match s.send m (some (c, m.cls)) [] with
        | some s => .next s
        | none => .next ((s.freeCredits c m).sendRefusal m 1)

/-! ### A course goes down -/

/-- A message that a course can no longer carry: it takes another course, or fails what it belongs to, or is answered with
NO_ROUTE (R257, R259, R271). -/
def State.stranded (s : State) (q : Queued) : State :=
  let m := q.msg
  let courses := if q.via.isNone && 3 ≤ m.mkind && m.mkind ≤ 7 && m.mkind != 6 then s.pairCourses m.dst else s.routeCourses m.dst
  match s.pickCourse courses with
  | some b => s.enqueue b q
  | none =>
    if q.via.isSome then (s.settleOwed q).sendRefusal m 1
    else if m.mkind ≤ 2 then s.refused { s.refusalOf m 1 with src := m.dst, dstPart := m.srcPart }
    else s

/-- Pairs and fills that no course reaches any more are broken or abort (R276, R376). -/
def State.pairsLost (s : State) : State :=
  let s := (List.range 16).foldl (fun (s : State) n =>
    if (s.pairCourses (s.pair n).node).isEmpty then s.breakPair n 1 else s) s
  s.jobs.fills.foldl (fun (s : State) f => if (s.pairCourses f.node).isEmpty then s.abortFill f else s) s

/-- A course is down, which enters the life log (R257, R384, R400). -/
def State.courseDown (s : State) (c : Nat) : State :=
  let p := s.port c
  let s := s.modPort c fun p => { p with state := 3, rate := 0, width := 0, lanes := 0, queue := [] }
  let s := s.logRecord 4 (toLE 1 2 ++ toLE 1 c)
  let s := p.queue.foldl (fun (s : State) q => s.stranded q) s
  s.pairsLost

/-- ADOPT_NODE completes when no course retrains any more, and the configuration block keeps the node id (R260, R398). -/
def State.adoptEnd (s : State) : State :=
  if (List.range 16).any fun c => (s.port c).state == 2 then s
  else
    let ns := (s.hub.accepted.filter fun c => c.opcode == 0x91 && c.started).map (·.number)
    if ns.isEmpty then s
    else { s with flash := s.flash.rewriteConfig s.flash.activeSlot s.crs.nodeId }.finishAll ns stOk 0

/-- Stage 4 of a bring-up has started the training of the courses (R380). -/
def State.trainingStarted (s : State) : Bool := decide (2 ≤ s.boot.stage ∧ s.boot.stage ≤ 5)

/-- COURSE_TRAINING_ATTEMPT_END: a training attempt ends; the course is up at the option tried, or tries the next option, or
is down (R256, R257). Options that CRS_PORT_CTRL has cleared are skipped. -/
def execCourseTrainingAttemptEnd (c : Nat) (ok : Bool) (peer : Nat) (s : State) : Host.Outcome State Fault Refusal :=
  if s.dieOff (c % 4) then .next s else
  let p := s.port c
  if 16 ≤ c || (p.state != 0 && p.state != 2) || (p.state = 0 && !s.trainingStarted) then .next s
  else match p.options[p.attempt]? with
    | none => .next ((s.courseDown c).adoptEnd.settleBridges)
    | some (rate, lanes, width) =>
      if ok then
        let s := s.modPort c fun p => { p with
          state := 1, rate := rate, width := width, lanes := lanes, peer := peer % 2 ^ 12, attempt := 0 }
        .next ((s.pump c).adoptEnd.settleBridges)
      else
        let s := s.modPort c fun p => { p with attempt := p.attempt + 1 }
        .next (if p.options.length ≤ p.attempt + 1 then (s.courseDown c).adoptEnd.settleBridges else s)

/-- The fields that a write of CRS_PORT_CTRL changes. -/
def Port.configure (p : Port) (value : Nat) : Port :=
  { p with
    wBulk := field value 63 56, wColl := field value 55 48, wMirror := field value 47 40, dateline := bit value 30
    fecLimit := field value 23 16, widths := field value 15 12, rates := field value 11 10 }

/-- RETRAIN: a write of CRS_PORT_CTRL; with retrain 1 the course retrains, from down too (R256, R277). -/
def execRetrain (c value : Nat) (s : State) : Host.Outcome State Fault Refusal :=
  if s.dieOff (c % 4) then .next s else
  if 16 ≤ c then .next s
  else
    let s := s.modPort c fun p => p.configure value
    .next ((if bit value 31 then s.retrainCourse c else s).settleBridges)

/-- ADOPT_NODE: the package takes a node id, the configuration block keeps it, and every course that is up retrains, so that
its peer learns it (R260, R398). -/
def execAdoptNode (n : Nat) (s : State) : Host.Outcome State Fault Refusal :=
  s.hostCommand n 0x91 fun c s =>
    let node := pk c.packet 16 2 % 2 ^ 12
    let s := { s with crs := { s.crs with nodeId := node } }
    let up := (List.range 16).filter fun c => (s.port c).state == 1
    (up.foldl (fun (s : State) c => s.retrainCourse c) s).adoptEnd

end Sys2Proof.Machine
end

