-- ==== Sys2Proof/Machine/Resonator.lean ====
section
/-! DEFINITION. The Resonator (R145 to R166): sequences, pages, the step fold, pre-emption and swaps. A page that is swapped
out exchanges frames with a place of the swap area, so that the place's address joins the pool while the page is away. -/

namespace Sys2Proof.Machine

/-! ### Parts -/

/-- The Resonator's state for partition `n`. -/
def State.resPart (s : State) (n : Nat) : ResPart := Tab.get {} s.res.parts n
/-- That state changed. -/
def State.modRes (s : State) (n : Nat) (f : ResPart → ResPart) : State :=
  { s with res := { s.res with parts := Tab.update {} s.res.parts n f } }
/-- The sequence of a key. -/
def State.seq (s : State) (n key : Nat) : Option ResSeq := s.res.seqs.find? fun q => q.part == n && q.key == key
/-- A sequence changed. -/
def State.modSeq (s : State) (n key : Nat) (f : ResSeq → ResSeq) : State :=
  { s with res := { s.res with seqs := s.res.seqs.map fun q => if q.part = n ∧ q.key = key then f q else q } }
/-- A sequence removed. -/
def State.dropSeq (s : State) (n key : Nat) : State :=
  { s with res := { s.res with seqs := s.res.seqs.filter fun q => !(q.part == n && q.key == key) } }
/-- The next place of the orders of appends and pre-emptions. -/
def State.resClock (s : State) : Nat × State := (s.res.clock, { s with res := { s.res with clock := s.res.clock + 1 } })

/-! ### Parameters (R145): offsets are those of the command, less 16 -/
namespace ResSeq
/-- layers. -/
def nlayers (q : ResSeq) : Nat := leAt q.params 4 2
/-- heads. -/
def heads (q : ResSeq) : Nat := leAt q.params 6 1
/-- D. -/
def dim (q : ResSeq) : Nat := 16 * leAt q.params 7 1
/-- kv_fmt: MXFP4, or E4M3. -/
def isMx (q : ResSeq) : Bool := leAt q.params 8 1 % 16 == 7
/-- cap. -/
def cap (q : ResSeq) : Nat := 16 * 2 ^ field (leAt q.params 8 1) 5 4
/-- evict_en. -/
def evictEn (q : ResSeq) : Bool := bit (leAt q.params 8 1) 6
/-- sr. -/
def sr (q : ResSeq) : Bool := bit (leAt q.params 8 1) 7
/-- priority. -/
def prio (q : ResSeq) : Nat := leAt q.params 9 1 % 8
/-- headroom. -/
def headroom (q : ResSeq) : Nat := leAt q.params 9 1 / 16
/-- sinks. -/
def sinks (q : ResSeq) : Nat := leAt q.params 10 2
/-- W. -/
def window (q : ResSeq) : Nat := leAt q.params 12 4
/-- budget. -/
def budget (q : ResSeq) : Nat := leAt q.params 16 4
/-- decay. -/
def decay (q : ResSeq) : Fp := f32.decode (leAt q.params 20 4)
/-- app_cap. -/
def appCap (q : ResSeq) : Nat := leAt q.params 24 2
/-- tpf. -/
def tpf (q : ResSeq) : Nat := leAt q.params 26 2
/-- wframes. -/
def wframes (q : ResSeq) : Nat := leAt q.params 28 2
/-- app_addr. -/
def appAddr (q : ResSeq) : Nat := leAt q.params 32 6
/-- view_addr. -/
def viewAddr (q : ResSeq) : Nat := leAt q.params 38 6
/-- Dr. -/
def dimR (q : ResSeq) : Nat := if q.isMx then alignUp q.dim 32 else q.dim
/-- The element format. -/
def fmt (q : ResSeq) : Fmt := if q.isMx then .mxfp4 else .e4m3
/-- Bytes of a row. -/
def rowBytes (q : ResSeq) : Nat := if q.isMx then q.dimR / 2 else q.dim
/-- Scale bytes of a row. -/
def rowScales (q : ResSeq) : Nat := if q.isMx then q.dimR / 32 else 0
/-- Pages of all layers. -/
def allPages (q : ResSeq) : List Nat := q.layers.flatMap (·.pages)
/-- The record that KV_FORK gives the child: its own key and addresses. -/
def childParams (q : ResSeq) (key app view : Nat) : List Byte :=
  toLE 4 key ++ ((q.params.drop 4).take 28) ++ toLE 6 app ++ toLE 6 view ++ fill 4 0
end ResSeq

/-! ### Pages (R148, R149, R160) -/

/-- Bytes of a pool page. -/
def State.pageRead (s : State) (x off n : Nat) : List Byte :=
  s.mems.readLoc (locate (eTier (s.entry x)) (eFrame (s.entry x)) off) n
/-- Bytes written to a pool page, as the Resonator writes (R228). -/
def State.pageWrite (s : State) (x off : Nat) (bs : List Byte) : State :=
  s.hubWrite (ePart (s.entry x)) 5 .resonator (x * pageBytes + off) bs
/-- Whether a page's contents can be read and written by the fold. -/
def State.pageOk (s : State) (n x : Nat) : Bool :=
  let e := s.entry x
  eValid e && ePart e == n && decide (eState e ≤ 1) && decide (eTier e ≤ 5) && !s.frt.poisoning.contains x
/-- Whether a page is poisoned, or will be once the host has given up its lines (R165, R232). -/
def State.pagePoisoned (s : State) (x : Nat) : Bool := eState (s.entry x) == 3 || s.frt.poisoning.contains x
/-- The pages of the pool that can be taken: the free ones, without those found poisoned. -/
def State.freePages (s : State) (n : Nat) : List Nat := (s.resPart n).free.filter (s.pageOk n)
/-- The places of the swap area that can be taken. -/
def State.freePlaces (s : State) (n : Nat) : List Nat := (s.resPart n).swapFree.filter (s.pageOk n)

/-- A page's share count; copy_on_write is set while it is above 1 (R223). -/
def State.setShare (s : State) (x k : Nat) : State :=
  s.setEntry x (setField (setField (s.entry x) 53 48 k) 38 38 (ofBool (decide (1 < k))))

/-- A page that no sequence shares and no view or swap pins joins the deferred list (R160), once it has drained where it is
marked for a checkpoint (R367). A swapped-out page's frame is a place of the swap area, and goes back there. -/
def State.tryFree (s : State) (n x : Nat) : State :=
  let e := s.entry x
  let r := s.resPart n
  if !eValid e || eShare e != 0 || eDrain e || s.pinned x || r.free.contains x || r.deferred.contains x || r.swapFree.contains x then s
  else if eState e = 2 then
    (s.setEntry x (setField e 59 58 0)).modRes n fun r => { r with swapFree := r.swapFree ++ [x] }
  else s.modRes n fun r => { r with deferred := r.deferred ++ [x] }

/-- A sequence gives up a page. -/
def State.dropPage (s : State) (n x : Nat) : State := (s.setShare x (eShare (s.entry x) - 1)).tryFree n x

/-- Whether a page is left as it stands: it is shared, or marked for a checkpoint's drain (R159, R367). -/
def State.keepAsIs (s : State) (x : Nat) : Bool := decide (1 < eShare (s.entry x)) || eDrain (s.entry x)

/-- The slots of a page that are live for a sequence: slot and position. Those beyond a fork's prefix and those removed under
wframes are not (R146, R158). -/
def State.slotsOf (s : State) (q : ResSeq) (x : Nat) : List (Nat × Nat) :=
  let h := s.pageRead x 0x40 256
  (List.range q.cap).filterMap fun i =>
    let p := leAt h (4 * i) 4
    if p = 0xFFFFFFFF || decide (p < q.floor) || (match q.cut with
      | some c => decide (c ≤ p)
      | none => false) then none else some (i, p)

/-- The pages that hold live positions of a layer: page, slot and position, in page order. -/
def State.liveOf (s : State) (q : ResSeq) (l : ResLayer) : List (Nat × Nat × Nat) :=
  l.pages.flatMap fun x => (s.slotsOf q x).map fun e => (x, e.1, e.2)

/-- Where row (h, slot) of keys (0) or values (1) stands in a page. -/
def ResSeq.rowAt (q : ResSeq) (which h slot : Nat) : Nat :=
  0x1000 + which * (q.heads * q.cap * q.rowBytes) + (h * q.cap + slot) * q.rowBytes
/-- Where the scales of that row stand. -/
def ResSeq.scaleAt (q : ResSeq) (which h slot : Nat) : Nat :=
  0x1000 + 2 * (q.heads * q.cap * q.rowBytes) + (which * (q.heads * q.cap) + h * q.cap + slot) * q.rowScales

/-- What a slot holds: score bits and its rows and scales, keys first, by head. -/
structure Slot where
  pos : Nat
  score : Nat
  rows : List (List Byte × List Byte)
  deriving DecidableEq, Repr

/-- A slot's content. -/
def State.readSlot (s : State) (q : ResSeq) (x slot pos : Nat) : Slot :=
  { pos := pos, score := leAt (s.pageRead x (0x140 + 4 * slot) 4) 0 4
    rows := [0, 1].flatMap fun w => (List.range q.heads).map fun h =>
      (s.pageRead x (q.rowAt w h slot) q.rowBytes, s.pageRead x (q.scaleAt w h slot) q.rowScales) }

/-- A slot is written; its mass lanes are +0. -/
def State.writeSlot (s : State) (q : ResSeq) (x slot : Nat) (v : Slot) : State :=
  let s := s.pageWrite x (0x40 + 4 * slot) (toLE 4 v.pos)
  let s := s.pageWrite x (0x140 + 4 * slot) (toLE 4 v.score)
  let s := [0, 1, 2, 3].foldl (fun (s : State) i => s.pageWrite x (0x240 + 256 * i + 4 * slot) (fill 4 0)) s
  v.rows.zipIdx.foldl (fun (s : State) (r, i) =>
    let s := s.pageWrite x (q.rowAt (i / q.heads) (i % q.heads) slot) r.1
    if r.2.isEmpty then s else s.pageWrite x (q.scaleAt (i / q.heads) (i % q.heads) slot) r.2) s

/-- A slot is made free. -/
def State.freeSlot (s : State) (x slot : Nat) : State :=
  (s.pageWrite x (0x40 + 4 * slot) (fill 4 0xFF)).pageWrite x (0x140 + 4 * slot) (fill 4 0)

/-- The last fields of a header: used, writer and fold_step (R148). -/
def State.sealPage (s : State) (q : ResSeq) (x : Nat) (step : W64) : State :=
  let used := ((List.range q.cap).filter fun i => leAt (s.pageRead x (0x40 + 4 * i) 4) 0 4 != 0xFFFFFFFF).length
  (s.pageWrite x 6 (toLE 1 used)).pageWrite x 8 (toLE 4 q.key ++ toLE 4 (step.toNat % 2 ^ 32))

/-- The header of a page that a sequence takes (R148, R151). -/
def ResSeq.header (q : ResSeq) (l : ResLayer) (layer : Nat) (step : W64) : List Byte :=
  toLE 2 layer ++ toLE 1 q.heads ++ toLE 1 (q.dim / 16) ++ toLE 1 q.fmt.code ++ toLE 1 q.cap ++ toLE 2 0
    ++ toLE 4 q.key ++ toLE 4 (step.toNat % 2 ^ 32) ++ fill 48 0 ++ fill 256 0xFF ++ fill 256 0 ++ fill 1024 0
    ++ padTo 128 (l.kscale.map (BitVec.ofNat 8)) ++ padTo 128 (l.vscale.map (BitVec.ofNat 8)) ++ fill 2240 0

/-- The first free page of the pool is taken. -/
def State.takePage (s : State) (n : Nat) : Option (Nat × State) :=
  match s.freePages n with
  | [] => none
  | x :: _ => some (x, (s.modRes n fun r => { r with free := r.free.filter (· != x) }).setShare x 1)

/-- A layer of a sequence changed. -/
def State.modLayer (s : State) (n key l : Nat) (f : ResLayer → ResLayer) : State :=
  s.modSeq n key fun q => { q with layers := q.layers.modify l f }

/-! ### Faults (R165) -/

/-- A Resonator fault is recorded, the first one only (R166). -/
def State.resFault (s : State) (n cause layer key : Nat) : State :=
  { s with res := { s.res with err := match s.res.err with
      | some e => some e
      | none => some (cause, n, layer, key) } }

/-- A sequence moves to status 4. -/
def State.failSeq (s : State) (n cause layer key : Nat) : State :=
  (s.modSeq n key fun q => { q with status := 4, held := false }).resFault n cause layer key

/-! ### Scores, expiry and eviction (R157 to R159) -/

/-- The scores of a page's live slots are folded and its mass lanes set to +0 (R157); its header names the writer and the fold
(R148). -/
def State.foldScores (s : State) (q : ResSeq) (x : Nat) (step : W64) : State :=
  let m := s.pageRead x 0x240 1024
  let lane := fun i slot => f32.decode (leAt m (256 * i + 4 * slot) 4)
  let add := fun (a b : Fp) => rne32 (a.add b)
  let s := (s.slotsOf q x).foldl (fun (s : State) e =>
    let mass := add (add (add (lane 0 e.1) (lane 1 e.1)) (lane 2 e.1)) (lane 3 e.1)
    let old := f32.decode (leAt (s.pageRead x (0x140 + 4 * e.1) 4) 0 4)
    s.pageWrite x (0x140 + 4 * e.1) (toLE 4 (f32.encode .rne false 0 (add (rne32 (old.mul q.decay)) mass)))) s
  (s.pageWrite x 0x240 (fill 1024 0)).pageWrite x 8 (toLE 4 q.key ++ toLE 4 (step.toNat % 2 ^ 32))

/-- The protected positions of a layer (R158). `newest` is one past the newest position. -/
def State.evictable (s : State) (q : ResSeq) (newest : Nat) (e : Nat × Nat × Nat) : Bool :=
  decide (q.sinks ≤ e.2.2) && decide (e.2.2 + q.window < newest) && !s.keepAsIs e.1

/-- The lowest-scored of some positions, the lower position first on a tie. -/
def State.lowest (s : State) : List (Nat × Nat × Nat) → Option (Nat × Nat × Nat)
  | [] => none
  | e :: t => match s.lowest t with
    | none => some e
    | some f =>
      let a := f32.decode (leAt (s.pageRead e.1 (0x140 + 4 * e.2.1) 4) 0 4)
      let b := f32.decode (leAt (s.pageRead f.1 (0x140 + 4 * f.2.1) 4) 0 4)
      if Fp.lt a b || (!(Fp.lt b a) && decide (e.2.2 < f.2.2)) then some e else some f

/-- Positions have been removed. -/
def State.countRemoved (s : State) (n k : Nat) : State :=
  s.modRes n fun r => { r with evicted := wrapAdd 32 r.evicted k }

/-- A position is removed. -/
def State.removePos (s : State) (n : Nat) (e : Nat × Nat × Nat) : State := (s.freeSlot e.1 e.2.1).countRemoved n 1

/-- The lowest-scored unprotected positions of a layer are evicted, until `keep` positions are left or none can go; `k`
bounds them. -/
def State.evictTo (s : State) (n key l newest keep : Nat) : Nat → State
  | 0 => s
  | k + 1 => match s.seq n key with
    | none => s
    | some q =>
      let live := s.liveOf q (q.layers.getD l {})
      if live.length ≤ keep then s
      else match s.lowest (live.filter (s.evictable q newest)) with
        | none => s
        | some e => (s.removePos n e).evictTo n key l newest keep k

/-- The page of a layer that appends fill first: the last one with a live slot. -/
def State.tailOf (s : State) (q : ResSeq) (l : Nat) : Option Nat :=
  ((q.layers.getD l {}).pages.filter fun x => !(s.slotsOf q x).isEmpty).getLast?

/-- The pages of a layer that a compaction has emptied and that the step's appends will fill. -/
def State.emptiesOf (s : State) (q : ResSeq) (l : Nat) : List Nat :=
  (q.layers.getD l {}).pages.filter fun x => (s.slotsOf q x).isEmpty && !s.keepAsIs x

/-- Free slots of the layer's tail page, for which it may have to be copied first. -/
def State.tailRoom (s : State) (q : ResSeq) (l : Nat) : Nat :=
  match s.tailOf q l with
  | some x => q.cap - (s.slotsOf q x).length
  | none => 0

/-- Pages in the order of their lowest live positions, those without one at the end (R150). -/
def State.byPosition (s : State) (q : ResSeq) (xs : List Nat) : List Nat :=
  let keyed := xs.foldl (fun (t : Tab Nat) x => match (s.slotsOf q x).map (·.2) with
    | [] => t
    | p :: ps => Tab.insert (ps.foldl min p) x t) []
  keyed.map (·.2) ++ xs.filter fun x => (s.slotsOf q x).isEmpty

/-- A changed layer is compacted: the positions of its pages that are not kept as they are, in position order, fill those pages
from the first one (R159). A page left with no live slot is kept at the end of the list where the `k` positions that the step
appends will fill it, so that a sequence at its budget reuses its own slots; it is given up otherwise, as is a page kept as it is
whose positions have all been removed. -/
def State.compact (s : State) (n key l k : Nat) (step : W64) : State :=
  match s.seq n key with
  | none => s
  | some q =>
    let layer := q.layers.getD l {}
    let mine := layer.pages.filter fun x => !s.keepAsIs x
    let gone := layer.pages.filter fun x => s.keepAsIs x && (s.slotsOf q x).isEmpty
    let slots := ((mine.flatMap fun x => (s.slotsOf q x).map fun e => s.readSlot q x e.1 e.2).foldl
      (fun (t : Tab Slot) v => Tab.insert v.pos v t) []).map (·.2)
    let s := mine.foldl (fun (s : State) x => (List.range q.cap).foldl (fun (s : State) i => s.freeSlot x i) s) s
    let s := slots.zipIdx.foldl (fun (s : State) (v, i) => s.writeSlot q (mine.getD (i / q.cap) 0) (i % q.cap) v) s
    let s := mine.foldl (fun (s : State) x => s.sealPage q x step) s
    let empty := mine.drop (ceilDiv slots.length q.cap)
    let fills := ceilDiv (k - s.tailRoom q l) q.cap
    let kept := s.byPosition q (layer.pages.filter fun x => !empty.contains x && !gone.contains x)
    let s := s.modLayer n key l fun y => { y with pages := kept ++ empty.take fills }
    (gone ++ empty.drop fills).foldl (fun (s : State) x => s.dropPage n x) s

/-- The first position that wframes leaves to a sequence. `newest` is one past the newest position (R158). -/
def ResSeq.firstKept (q : ResSeq) (newest : Nat) : Nat :=
  if q.wframes = 0 || newest = 0 then q.floor else max q.floor (((newest - 1) / q.tpf - q.wframes) * q.tpf)

/-- Positions older than wframes are removed, whatever their score, from every page of every layer: their slots are freed, but
for those of pages that are left as they stand, which the sequence lists as free from now on (R158). -/
def State.expire (s : State) (n : Nat) (q : ResSeq) (newest : Nat) : State :=
  let a := q.firstKept newest
  let old := (q.layers.flatMap (s.liveOf q)).filter fun e => decide (e.2.2 < a)
  let s := (old.filter fun e => !s.keepAsIs e.1).foldl (fun (s : State) e => s.freeSlot e.1 e.2.1) s
  (s.countRemoved n old.length).modSeq n q.key fun q => { q with floor := a }

/-! ### Appends (R150 to R152) -/

/-- The append header: count and first position. -/
def State.appendHeader (s : State) (q : ResSeq) : Acc (Nat × Nat) :=
  match s.devRead q.part .resonator .newest q.appAddr 8 with
  | .ok bs => .ok (leAt bs 0 4, leAt bs 4 4)
  | .bad a p => .bad a p
  | .wait a => .wait a

/-- Layer `l`'s keys (0) or values (1) of an append of `k` positions: bytes of `k` rows of heads × D BF16 elements. -/
def State.appendRows (s : State) (q : ResSeq) (k l which : Nat) : Acc (List Byte) :=
  let row := 2 * q.heads * q.dim
  let area := alignUp (4 * q.appCap * q.heads * q.dim) 64
  s.devRead q.part .resonator .newest (q.appAddr + 64 + l * area + which * k * row) (k * row)

/-- The E8M0 code of a fixed scale from the largest magnitude of the first append (R151). DESIGN CHOICE: a NaN takes no part in it, and
an infinity gives the largest code, 254 (log 183). -/
def fixedScale (q : ResSeq) (xs : List Fp) : Nat :=
  let amax := amaxFinite xs
  if xs.any Fp.isInf then 254
  else if amax.isZero then 127
  else
    let fmax := Fp.ofInt (if q.isMx then 6 else 448)
    let e0 := amax.log2 - fmax.log2
    let e := if Fp.le amax (fmax.scale e0) then e0 else e0 + 1
    (max (-127 : Int) (min 127 (e + q.headroom)) + 127).toNat

/-- The values of one head of one appended row. -/
def headValues (q : ResSeq) (rows : List Byte) (i h : Nat) : List Fp :=
  (List.range q.dim).map fun e => bf16.decode (leAt rows (2 * ((i * q.heads + h) * q.dim + e)) 2)

/-- A row of a head quantised: its bytes, its block scales, and how many elements saturate (R151, R152). -/
def quantRow (q : ResSeq) (seed : W64) (layer which h pos scale : Nat) (xs : List Fp) : List Byte × List Byte × Nat :=
  let mode : RMode := if q.sr then .sr else .rne
  let draw := fun e => if q.sr then DrawAt.bits seed {
      tensor := q.key, tileRow := 2 * layer + which, tileCol := h, redBlock := pos / 2 ^ 16, purpose := 4
      draw := pos % 2 ^ 16 * 256 + e } else 0
  let ys := xs.map fun x => x.scale (127 - (scale : Int))
  let (codes, sc) := convertRow q.fmt mode true draw ys
  let sat := (ys.zipIdx.filter fun (y, e) =>
    let z := if q.isMx then y.scale (127 - (sc.getD (e / 32) 127 : Int)) else y
    z.isInf || q.fmt.elem.overflows mode (draw e) z).length
  (padTo q.rowBytes (packElems q.fmt codes), sc.map (BitVec.ofNat 8), sat)

/-- Pages that the appends of `k` positions need in a layer: a copy of a tail page that is kept as it is and has room, and
the new pages (R155, R160). -/
def State.layerNeed (s : State) (q : ResSeq) (l k : Nat) : Nat :=
  if k = 0 then 0
  else
    let room := s.tailRoom q l
    (if (s.tailOf q l).any s.keepAsIs && decide (0 < room) then 1 else 0)
      + ceilDiv (k - room - (s.emptiesOf q l).length * q.cap) q.cap

/-- Pages that an append needs over all layers. -/
def State.seqNeed (s : State) (q : ResSeq) (k : Nat) : Nat := ((List.range q.nlayers).map fun l => s.layerNeed q l k).sum

/-- The tail page of a layer is made ready for appends: copied where it is kept as it is, and rid of the slots beyond a
fork's prefix (R146, R160). -/
def State.readyTail (s : State) (n key l : Nat) (step : W64) : State :=
  match s.seq n key with
  | none => s
  | some q => match s.tailOf q l with
    | none => s
    | some x =>
      let live := (s.slotsOf q x).map (·.1)
      let dead := (List.range q.cap).filter fun i => !live.contains i
      if q.cap ≤ live.length then s
      else if s.keepAsIs x then
        match s.takePage n with
        | none => s
        | some (y, s) =>
          let s := s.pageWrite y 0 (s.pageRead x 0 pageBytes)
          let s := dead.foldl (fun (s : State) i => s.freeSlot y i) s
          let s := s.sealPage q y step
          let s := s.modLayer n key l fun z => { z with pages := z.pages.map fun p => if p = x then y else p }
          let s := s.modRes n fun r => { r with cow := wrapAdd 32 r.cow 1 }
          s.dropPage n x
      else dead.foldl (fun (s : State) i => s.freeSlot x i) s

/-- One appended position is placed in the layer's tail page, in a page that a compaction has emptied, or in a new one. -/
def State.placeOne (s : State) (n key l : Nat) (step : W64) (v : Slot) : State :=
  match s.seq n key with
  | none => s
  | some q =>
    let layer := q.layers.getD l {}
    let room := ((s.tailOf q l).toList ++ s.emptiesOf q l).findSome? fun x =>
      let live := (s.slotsOf q x).map (·.1)
      ((List.range q.cap).find? fun i => !live.contains i).map fun i => (x, i)
    match room with
    | some (x, i) => (s.writeSlot q x i v).sealPage q x step
    | none => match s.takePage n with
      | none => s
      | some (y, s) =>
        let s := s.pageWrite y 0 (q.header layer l step)
        let s := s.modLayer n key l fun z => { z with pages := z.pages ++ [y] }
        (s.writeSlot q y 0 v).sealPage q y step

/-- A layer's appends are quantised and placed; the first ones fix its scales (R151). -/
def State.appendLayer (s : State) (n key l k : Nat) (seed step : W64) : State :=
  match s.seq n key with
  | none => s
  | some q =>
    match s.appendRows q k l 0, s.appendRows q k l 1 with
    | .ok ks, .ok vs =>
      let first := (q.layers.getD l {}).kscale.isEmpty
      let scales := fun (rows : List Byte) => (List.range q.heads).map fun h =>
        fixedScale q ((List.range k).flatMap fun i => headValues q rows i h)
      let s := if first then s.modLayer n key l fun y => { y with kscale := scales ks, vscale := scales vs } else s
      let s := s.readyTail n key l step
      let layer := ((s.seq n key).getD q).layers.getD l {}
      (List.range k).foldl (fun (s : State) i =>
        let pos := q.next + i
        let rows := ([0, 1] : List Nat).flatMap fun w => (List.range q.heads).map fun h =>
          quantRow q seed l w h pos ((if w = 0 then layer.kscale else layer.vscale).getD h 127)
            (headValues q (if w = 0 then ks else vs) i h)
        let sats := (rows.map fun r => r.2.2).sum
        let s := s.modRes n fun r => { r with saturations := satAdd 32 r.saturations sats }
        s.placeOne n key l step { pos := pos, score := 0, rows := rows.map fun r => (r.1, r.2.1) }) s
    | .bad a p, _ | _, .bad a p => (s.noteFault n 5 a p).failSeq n 2 l key
    | _, _ => s

/-- A sequence's appends are placed in every layer, and its next position moves on. DESIGN CHOICE: of the sequences that append in one
fold, the one placed first has the older last append (R162, log 182). -/
def State.appendAll (s : State) (n key k : Nat) (seed step : W64) : State :=
  if k = 0 then s
  else match s.seq n key with
    | none => s
    | some q =>
      let s := (List.range q.nlayers).foldl (fun (s : State) l => s.appendLayer n key l k seed step) s
      let (t, s) := s.resClock
      s.modSeq n key fun q => { q with next := q.next + k, cut := none, lastAppend := t }

/-! ### Pre-emption and swaps (R161 to R163) -/

/-- The pages of a sequence that a pre-emption swaps out: share 1, no pin, resident, not kept in place (R162). -/
def State.swappable (s : State) (q : ResSeq) : List Nat :=
  q.allPages.filter fun x =>
    let e := s.entry x
    eShare e == 1 && !s.pinned x && eState e == 0 && eValid e && !ePinned e && !eDrain e

/-- A sequence is pre-empted: its swappable pages start to move to the swap area, where they fit. -/
def State.preemptSeq (s : State) (n key : Nat) (held : Bool) : State :=
  match s.seq n key with
  | none => s
  | some q =>
    let xs := s.swappable q
    let places := s.freePlaces n
    let (t, s) := s.resClock
    let s := s.modSeq n key fun q => { q with status := 2, held := held, preOrder := t }
    if places.length < xs.length then s
    else
      let s := xs.foldl (fun (s : State) x => s.setEntry x (setField (s.entry x) 59 58 1)) s
      s.modRes n fun r => { r with
        swapFree := r.swapFree.filter fun y => !(places.take xs.length).contains y
        swapping := r.swapping ++ (xs.zip places).map fun e => (key, e.1, e.2) }

/-- The candidates for a grower (R162, R163). -/
def State.victims (s : State) (q : ResSeq) : List ResSeq :=
  s.res.seqs.filter fun v => v.part == q.part && v.key != q.key && v.status == 1 && decide (v.prio ≤ q.prio)
    && !(s.swappable v).isEmpty && decide ((s.swappable v).length ≤ (s.freePlaces q.part).length)

/-- Whether victim `a` is chosen before `b` (R162). -/
def State.victimBefore (s : State) (a b : ResSeq) : Bool :=
  let byKey := decide (b.key < a.key)
  if a.prio != b.prio then decide (a.prio < b.prio)
  else if s.res.policy = 1 then decide (a.lastAppend < b.lastAppend) || (a.lastAppend == b.lastAppend && byKey)
  else if s.res.policy = 2 then byKey
  else
    let m := (s.swappable a).length
    let k := (s.swappable b).length
    decide (k < m) || (m == k && byKey)

/-- The victim that is chosen. -/
def State.victim (s : State) (q : ResSeq) : Option ResSeq :=
  (s.victims q).foldl (fun b v => match b with
    | none => some v
    | some w => if s.victimBefore v w then some v else some w) none

/-- Page `x` and place `y` exchange frames: the place becomes a free page of the pool, and the page is swapped out. -/
def State.exchange (s : State) (x y : Nat) (xState : Nat) : State :=
  let a := s.entry x
  let b := s.entry y
  let take := fun (e f st : Nat) => setField (setField (setField e 62 60 (eTier f)) 35 0 (eFrame f)) 59 58 st
  (s.setEntry x (take a b xState)).setEntry y (setField (take b a 0) 53 48 0)

/-- A swap copy is undone: the page stays where it is, and its place is free again. -/
def State.cancelSwap (s : State) (n : Nat) (w : Nat × Nat × Nat) : State :=
  let s := s.modRes n fun r => { r with swapping := r.swapping.erase w, swapFree := r.swapFree ++ [w.2.2] }
  if eState (s.entry w.2.1) = 1 then s.setEntry w.2.1 (setField (s.entry w.2.1) 59 58 0) else s

/-- The page whose swap copy failed enters state 11 (R231). Where the source failed, its frame is retired, and the place is free
again. Where the destination failed, the page keeps the place's frame, and its own is released to the pool of pages; where the
place itself is poisoned by then, the frame goes back to its tier. -/
def State.swapFailed (s : State) (n : Nat) (w : Nat × Nat × Nat) (source : Bool) : State :=
  let (_, x, y) := w
  let e := s.entry x
  if source then ((s.cancelSwap n w).poisonPage x).retireFrame (eTier e) (eFrame e)
  else
    let s := s.modRes n fun r => { r with swapping := r.swapping.erase w }
    if s.pagePoisoned y then
      let b := s.entry y
      ((s.releaseFrame (eTier e) (eFrame e)).setEntry x
        (setField (setField (setField e 62 60 (eTier b)) 35 0 (eFrame b)) 59 58 0)).poisonPage x
    else ((s.exchange x y 0).poisonPage x).modRes n fun r => { r with free := r.free ++ [y] }

/-- A swap copy ends (R162, R165, R231). A failed one moves the victim to status 4, and the pages it had not yet given up stay
where they are. A copy whose page is poisoned by then has failed in the source, one whose place is, in the destination. -/
def State.swapEnd (s : State) (n : Nat) (w : Nat × Nat × Nat) (result : MoveResult) : State :=
  let (key, x, y) := w
  if result = .done && !s.pagePoisoned x && !s.pagePoisoned y then
    let bs := s.pageRead x 0 pageBytes
    let s := s.modMems fun m => m.writeLoc (locate (eTier (s.entry y)) (eFrame (s.entry y)) 0) bs
    let s := s.modRes n fun r => { r with swapping := r.swapping.erase w, free := r.free ++ [y] }
    (s.exchange x y 2).modSeq n key fun q => { q with swapped := q.swapped ++ [x] }
  else
    let s := s.swapFailed n w (result == .sourceFailed || s.pagePoisoned x)
    let rest := (s.resPart n).swapping.filter fun v => v.1 == key
    (rest.foldl (fun (s : State) v => s.cancelSwap n v) s).failSeq n 3 0 key

/-! ### The fold (R155) -/

/-- A fold of a context is in progress on the sequence `key`: scores, expiry, eviction to budget and compaction. `k` is the
step's append count. DESIGN CHOICE: the newest frame and the newest positions of R158 count the positions that this step appends, and
the eviction to budget takes place whatever evict_en says, which action 1 of R161 alone reads (log 181). -/
def State.foldHead (s : State) (n key k : Nat) (step : W64) : State :=
  match s.seq n key with
  | none => s
  | some q =>
    let newest := q.next + k
    let s := q.allPages.foldl (fun (s : State) x => if s.keepAsIs x then s else s.foldScores q x step) s
    let befores := q.layers.map fun l => (s.liveOf q l).length
    let s := s.expire n q newest
    let q := (s.seq n key).getD q
    let (s, beyond) := (List.range q.nlayers).foldl (fun ((s, beyond) : State × Bool) l =>
      let before := befores.getD l 0
      let keep := q.budget * q.cap - k
      let s := if q.budget = 0 then s else s.evictTo n key l newest keep before
      let after := (s.liveOf q (q.layers.getD l {})).length
      let s := if after < before then s.compact n key l k step else s
      (s, beyond || (q.budget != 0 && decide (q.budget * q.cap < after + k)))) (s, false)
    if beyond then s.modRes n fun r => { r with overBudget := satAdd 32 r.overBudget 1 } else s

/-- Action 1 of R161: further positions are evicted until the appends fit, or none is left; `fuel` bounds them. -/
def State.squeeze (s : State) (n key k : Nat) (step : W64) : Nat → State
  | 0 => s
  | fuel + 1 => match s.seq n key with
    | none => s
    | some q =>
      if s.seqNeed q k ≤ (s.freePages n).length then s
      else
        let hit := (List.range q.nlayers).findSome? fun l =>
          if s.layerNeed q l k = 0 then none
          else (s.lowest ((s.liveOf q (q.layers.getD l {})).filter (s.evictable q (q.next + k)))).map fun e => (l, e)
        match hit with
        | none => s
        | some (l, e) => ((s.removePos n e).compact n key l k step).squeeze n key k step fuel

/-- The pages that a sequence kept for the step's appends and does not fill join the deferred list. -/
def State.dropEmpties (s : State) (n key : Nat) : State :=
  match s.seq n key with
  | none => s
  | some q =>
    let gone := (List.range q.nlayers).flatMap (s.emptiesOf q)
    let s := s.modSeq n key fun q => { q with
      layers := q.layers.map fun l => { l with pages := l.pages.filter fun x => !gone.contains x } }
    gone.foldl (fun (s : State) x => s.dropPage n x) s

/-- The count of a sequence's append in this step, after its checks (R150, R165). -/
def State.appendCount (s : State) (n key : Nat) : State × Nat :=
  match s.seq n key with
  | none => (s, 0)
  | some q => match s.appendHeader q with
    | .bad a p => ((s.noteFault n 5 a p).failSeq n 2 0 key, 0)
    | .wait _ => (s, 0)
    | .ok (k, first) =>
      if k = 0 then (s, 0)
      else if first != q.next || q.appCap < k then (s.resFault n 1 0 key, 0)
      else (s, k)

/-- A page of a sequence that cannot be read, with its layer (R165). A page that is swapped out is not looked at unless it is
poisoned. -/
def State.badPage (s : State) (n : Nat) (q : ResSeq) : Option (Nat × Nat) :=
  (List.range q.nlayers).findSome? fun l => ((q.layers.getD l {}).pages.find? fun x =>
    !s.pageOk n x && !(q.swapped.contains x && !s.pagePoisoned x)).map fun x => (l, x)

/-- A sequence with a page found poisoned, or out of range, moves to status 4 (R165, R229). -/
def State.failPage (s : State) (n key : Nat) (b : Nat × Nat) : State :=
  (s.noteFault n 5 (b.2 * pageBytes) (s.pagePoisoned b.2)).failSeq n 2 b.1 key

/-- The fold goes on with the sequences of its list; it stops while a victim's pages are copied. `fuel` bounds its turns. -/
def State.foldSeqs (s : State) (n : Nat) (seed : W64) : Nat → State
  | 0 => s
  | fuel + 1 =>
    match (s.resPart n).fold with
    | none => s
    | some f => match f.todo with
      | [] => s
      | key :: rest =>
        let next := fun (s : State) => (s.modRes n fun r => { r with
          fold := some { f with todo := rest, waitKey := none
                                preempted := ((r.fold.map (·.preempted)).getD f.preempted) } }).foldSeqs n seed fuel
        match s.seq n key with
        | none => next s
        | some q =>
          if q.status != 1 then next s
          else
            let (s, fresh) := match f.waitKey with
              | some v => (s, if (s.resPart n).swapping.any (·.1 == v) then none else some false)
              | none => (s, some true)
            match fresh with
            | none => s
            | some isFresh =>
              match s.badPage n q with
              | some b => next (s.failPage n key b)
              | none =>
                let (s, k) := s.appendCount n key
                let s := if isFresh then s.foldHead n key k f.step else s
                match s.seq n key with
                | none => next s
                | some q =>
                  if q.status != 1 then next s
                  else
                    let live := (q.layers.map fun l => (s.liveOf q l).length).sum
                    let s := if isFresh && q.evictEn then s.squeeze n key k f.step live else s
                    let q := (s.seq n key).getD q
                    if s.seqNeed q k ≤ (s.freePages n).length then next (s.appendAll n key k seed f.step)
                    else match s.victim q with
                      | some v =>
                        let held := v.ctx != f.ctx || rest.contains v.key
                        let s := s.preemptSeq n v.key held
                        s.modRes n fun r => { r with
                          preemptOthers := satAdd 16 r.preemptOthers 1
                          fold := some { f with waitKey := some v.key, preempted := v.key :: f.preempted } }
                      | none =>
                        let s := (s.dropEmpties n key).preemptSeq n key true
                        next (s.modRes n fun r => { r with
                          selfPreempt := satAdd 16 r.selfPreempt 1
                          fold := some { f with preempted := key :: f.preempted } })

/-- A sequence is resumed: its swapped pages take free pages' frames, and its held appends are placed (R163). -/
def State.resumeSeq (s : State) (n key k : Nat) (seed step : W64) : State :=
  match s.seq n key with
  | none => s
  | some q =>
    let s := q.swapped.foldl (fun (s : State) x => match s.freePages n with
      | [] => s
      | y :: _ =>
        let bs := s.pageRead x 0 pageBytes
        let s := s.modMems fun m => m.writeLoc (locate (eTier (s.entry y)) (eFrame (s.entry y)) 0) bs
        (s.exchange x y 0).modRes n fun r => { r with free := r.free.filter (· != y), swapFree := r.swapFree ++ [y] }) s
    let s := s.modSeq n key fun q => { q with status := 1, held := false, swapped := [] }
    let s := s.modRes n fun r => { r with resumes := satAdd 16 r.resumes 1 }
    s.appendAll n key k seed step

/-- Pre-empted sequences of a context in the order of their resumption: priority, then order of pre-emption. -/
def resumeOrder : List ResSeq → List ResSeq
  | [] => []
  | q :: t =>
    let rest := resumeOrder t
    let before := rest.filter fun r => decide (r.prio > q.prio) || (r.prio == q.prio && decide (r.preOrder < q.preOrder))
    before ++ q :: rest.filter fun r => !before.contains r

/-- Pre-empted sequences of the context resume, where the free pages cover what they need (R163). One with a page found poisoned
moves to status 4 (R165). -/
def State.foldResumes (s : State) (n c : Nat) (seed step : W64) : State :=
  (resumeOrder (s.res.seqs.filter fun q => q.part == n && q.ctx == c && q.status == 2)).foldl (fun (s : State) q =>
    if (s.resPart n).swapping.any (·.1 == q.key) then s
    else match s.badPage n q with
    | some b => s.failPage n q.key b
    | none =>
      let (s, k) := if q.held then s.appendCount n q.key else (s, 0)
      let q := (s.seq n q.key).getD q
      if q.status = 2 && decide (q.swapped.length + s.seqNeed q k ≤ (s.freePages n).length) then
        s.resumeSeq n q.key k seed step
      else s) s

/-- Sequences in the order in which their KV_SEQ_OPENs were accepted. -/
def byAcceptance (qs : List ResSeq) : List ResSeq := (qs.foldl (fun (t : Tab ResSeq) q => Tab.insert q.order q t) []).map (·.2)

/-- Joins are placed or deferred: deferred ones first, then new ones, in order of acceptance (R164). Placed joins keep the
pages they need from the later joins of the fold. An open that was accepted after the fold began is left to the next one
(R154). -/
def State.foldJoins (s : State) (n c upTo : Nat) (step : W64) : State :=
  let js := s.res.seqs.filter fun q => q.part == n && q.ctx == c && q.status == 0 && (decide (q.order < upTo) || q.deferred)
  let js := byAcceptance (js.filter (·.deferred)) ++ byAcceptance (js.filter fun q => !q.deferred)
  (js.foldl (fun ((s, kept) : State × Nat) q =>
    let need := q.nlayers * ceilDiv q.appCap q.cap
    let waits := s.res.seqs.any fun v => v.part == n && v.status == 2 && decide (q.prio ≤ v.prio)
    if need + kept ≤ (s.freePages n).length && !waits then
      let s := s.modSeq n q.key fun q => { q with
        status := 1, deferred := false, cmd := none, layers := List.replicate q.nlayers {} }
      ((match q.cmd with
        | some m => s.finish m stOk ((step.toNat + 1) % 2 ^ 64)
        | none => s), kept + need)
    else
      let s := s.modSeq n q.key fun q => { q with deferred := true }
      (s.modRes n fun r => { r with deferredJoins := satAdd 16 r.deferredJoins 1 }, kept)) (s, 0)).1

/-- A sequence's view record (R150): its status, step and page lists, and the slot biases. -/
def State.viewRecord (s : State) (q : ResSeq) (step : W64) : List Byte :=
  let layers := if q.status = 1 then q.layers else []
  let pmax := (layers.map fun l => l.pages.length).foldl max 0
  let entry := fun x => toLE 8 (x * pageBytes + (s.slotsOf q x).length * 2 ^ 41 + 2 ^ 63)
  let bias := fun x =>
    let live := (s.slotsOf q x).map (·.1)
    (List.range 64).flatMap fun i => toLE 4 (if live.contains i then 0 else 0xFF800000)
  padTo 64 (toLE 4 q.status ++ toLE 4 (step.toNat % 2 ^ 32) ++ toLE 4 pmax)
    ++ layers.flatMap (fun l => padTo (8 * pmax) (l.pages.flatMap entry))
    ++ layers.flatMap (fun l => l.pages.flatMap bias)

/-- A sequence's view record is written, once a page that moves or drains allows it (R228); an access that is refused is recorded
and moves the sequence to status 4. -/
def State.writeView (s : State) (q : ResSeq) (step : W64) : State :=
  let bs := s.viewRecord q step
  let s := match s.devWrite q.part .resonator q.viewAddr bs with
    | .ok t => t
    | .bad a p => (s.noteFault q.part 5 a p).failSeq q.part 2 0 q.key
    | .wait _ => s.hubWrite q.part 5 .resonator q.viewAddr bs
  if s.unsettled q.part q.viewAddr bs.length then
    s.modRes q.part fun r => { r with
      viewWrites := (q.ctx, q.viewAddr, bs.length) :: r.viewWrites.filter fun w => s.unsettled q.part w.2.1 w.2.2 }
  else s

/-- Whether a view record of a context is not in memory yet (R156, R228, R246). -/
def State.viewsPending (s : State) (n c : Nat) : Bool :=
  (s.resPart n).viewWrites.any fun w => w.1 == c && s.unsettled n w.2.1 w.2.2

/-- A sequence gives up everything it holds. -/
def State.closePages (s : State) (n : Nat) (q : ResSeq) : State :=
  let ws := (s.resPart n).swapping.filter fun w => w.1 == q.key
  let s := ws.foldl (fun (s : State) w => s.cancelSwap n w) s
  q.allPages.foldl (fun (s : State) x => s.dropPage n x) s

/-- A close is applied (R155): pages with share and pins zero join the deferred list; the sequence's last view shows status
3. A KV_SEQ_OPEN that still waits ends with ABORTED. -/
def State.foldClose (s : State) (n : Nat) (c : Cmd) (step : W64) : State :=
  let key := pk c.packet 16 4
  match s.seq n key with
  | none => s.finish c.number stBadParam 16
  | some q =>
    let s := s.closePages n q
    let s := s.writeView { q with status := 3 } (step + 1)
    let s := s.dropSeq n key
    let s := match q.cmd with
      | some m => s.finish m stAborted 0
      | none => s
    s.finish c.number stOk 0

/-- A fork is applied (R146). The child belongs to the context whose fold applies it, whichever context its parent belongs to. -/
def State.foldFork (s : State) (n : Nat) (c : Cmd) : State :=
  let p := c.packet
  let key := pk p 20 4
  match s.seq n (pk p 16 4) with
  | none => s.finish c.number stBadParam 16
  | some q =>
    let cut := min q.next (pk p 24 4)
    let layers := q.layers.map fun l => { l with
      pages := l.pages.filter fun x => (s.slotsOf q x).any fun e => decide (e.2 < cut) }
    let xs := layers.flatMap (·.pages)
    if q.status != 1 then s.finish c.number stBadParam 16
    else if (s.seq n key).isSome then s.finish c.number stBadParam 20
    else if s.res.seqs.length ≥ 65536 || xs.any fun x => decide (63 ≤ eShare (s.entry x)) then s.finish c.number stNoResource 0
    else
      let child : ResSeq := { q with
        key := key, ctx := pkCtx p, params := q.childParams key (pk p 28 6) (pk p 34 6), cmd := none, order := c.number
        next := cut, cut := if cut < q.next then some cut else q.cut, layers := layers, swapped := [], held := false }
      let s := xs.foldl (fun (s : State) x => s.setShare x (eShare (s.entry x) + 1)) s
      let s := { s with res := { s.res with seqs := s.res.seqs ++ [child] } }
      s.finish c.number stOk 0

/-- A KV_SEQ_OPEN's sequence joins the table (R145). -/
def State.openSeq (s : State) (c : Cmd) : State :=
  let p := c.packet
  let q : ResSeq := {
    part := pkPart p, ctx := pkCtx p, key := pk p 16 4, params := p.drop 16, cmd := some c.number, order := c.number }
  { s with res := { s.res with seqs := s.res.seqs ++ [q] } }

/-- The accepted commands of an opcode and context, in acceptance order. -/
def State.kvCmds (s : State) (op n c : Nat) : List Cmd :=
  s.hub.accepted.filter fun q => q.opcode == op && pkPart q.packet == n && pkCtx q.packet == c

/-- Opens that were accepted before the fold and have not been carried out join now (R154). -/
def State.openPending (s : State) (n c : Nat) : State :=
  (s.kvCmds 0x70 n c).foldl (fun (s : State) q =>
    if q.started then s
    else match s.stateCheck q.fn q.number q.packet with
      | some (code, detail) => s.finish q.number code detail
      | none => (s.modCmd q.number fun q => { q with started := true }).openSeq q) s

/-- A fold begins: pins are released, and closes and forks applied (R154, R155). -/
def State.foldBegin (s : State) (n c : Nat) (step : W64) : State :=
  let old := Tab.get [] (s.resPart n).views c
  let s := s.modRes n fun r => { r with views := r.views.erase c }
  let s := old.foldl (fun (s : State) x => s.tryFree n x) s
  let s := s.openPending n c
  let s := (s.kvCmds 0x71 n c).foldl (fun (s : State) q => s.foldClose n q step) s
  let s := (s.kvCmds 0x72 n c).foldl (fun (s : State) q => s.foldFork n q) s
  let keys := (s.res.seqs.filter fun q => q.part == n && q.ctx == c && q.status == 1).map (·.key)
  let todo := keys.foldl (fun (t : Tab Unit) k => Tab.insert k () t) []
  s.modRes n fun r => { r with fold := some { ctx := c, step := step, todo := todo.map (·.1), upTo := s.hub.nextNumber } }

/-- Sequences that a restore reopens become active (R370). -/
def State.foldReopens (s : State) (n c : Nat) : State :=
  let qs := s.jobs.reopen.filter fun q => q.part == n && q.ctx == c
  let s := { s with jobs := { s.jobs with reopen := s.jobs.reopen.filter fun q => !(q.part == n && q.ctx == c) } }
  { s with res := { s.res with seqs := s.res.seqs ++ qs } }

/-- The end of a fold: resumptions, joins, the deferred list, and the views of the next step with their pins (R155). -/
def State.foldEnd (s : State) (n : Nat) (f : FoldRun) (seed : W64) : State :=
  let c := f.ctx
  let s := s.foldResumes n c seed f.step
  let s := (s.foldReopens n c).foldJoins n c f.upTo f.step
  let s := s.modRes n fun r => { r with free := r.free ++ r.deferred, deferred := [] }
  let qs := s.res.seqs.filter fun q => q.part == n && q.ctx == c
  let s := qs.foldl (fun (s : State) q => s.writeView q (f.step + 1)) s
  let pins := ((s.res.seqs.filter fun q => q.part == n && q.ctx == c && q.status == 1).flatMap ResSeq.allPages).eraseDups
  s.modRes n fun r => { r with
    fold := none, views := Tab.set [] r.views c pins
    folded := Tab.insert c f.step r.folded, foldPre := Tab.set 0 r.foldPre c f.preempted.length }

/-- Whether the pages that the end of a fold would exchange for swapped ones have lines at the host, which it gives up first (R163,
R246). -/
def State.resumeWaits (s : State) (n c : Nat) : Bool :=
  let back := (s.res.seqs.filter fun q => q.part == n && q.ctx == c && q.status == 2).flatMap (·.swapped)
  (back ++ (s.freePages n).take back.length).any s.frt.pageSnooped

/-- The fold goes on as far as no swap copy holds it. -/
def State.foldGo (s : State) (n : Nat) : State :=
  match (s.resPart n).fold with
  | none => s
  | some f =>
    let seed := match s.ctx n f.ctx with
      | some x => x.seed
      | none => 0
    let s := s.foldSeqs n seed (f.todo.length + s.res.seqs.length + 1)
    match (s.resPart n).fold with
    | some f => if f.todo.isEmpty && !s.resumeWaits n f.ctx then s.foldEnd n f seed else s
    | none => s

/-- Whether a context has sequences, or commands for them, so that its STEP_END needs a fold (R156). -/
def State.hasSeqs (s : State) (n c : Nat) : Bool :=
  (s.res.seqs.any fun q => q.part == n && q.ctx == c) || (s.jobs.reopen.any fun q => q.part == n && q.ctx == c)
    || ([0x70, 0x71, 0x72].any fun op => !(s.kvCmds op n c).isEmpty)

/-- Whether every core of a context has passed the STEP_MARK of its open step (R18). -/
def Ctx.stepPassed (x : Ctx) : Bool := x.stepOpen && x.coreList.all x.passed.contains

/-- Whether a STEP_END of the open step has been accepted. -/
def State.stepEnding (s : State) (n c : Nat) (x : Ctx) : Bool :=
  s.hub.accepted.any fun q => q.opcode == 0x51 && pkHandle q.packet == handleOf n c x.gen
    && pk q.packet 16 8 == x.step.toNat

/-! ### Rows -/

/-- KV_SEQ_OPEN: the sequence joins the table and waits for its fold (R145, R154). -/
def execKvSeqOpen (n : Nat) (s : State) : Host.Outcome State Fault Refusal := s.hostCommand n 0x70 fun c s => s.openSeq c

/-- KV_SEQ_CLOSE: waits for the fold that applies it (R146, R154). -/
def execKvSeqClose (n : Nat) (s : State) : Host.Outcome State Fault Refusal := s.hostCommand n 0x71 fun _ s => s

/-- KV_FORK: waits for the fold that applies it (R146, R154). -/
def execKvFork (n : Nat) (s : State) : Host.Outcome State Fault Refusal := s.hostCommand n 0x72 fun _ s => s

/-- STEP_FOLD: the fold of a context whose STEP_END has been accepted and whose cores have passed the step begins, or goes on
(R155, R156). A fold of a partition with pages in host memory waits while the host leaves its requests unanswered (R244). -/
def execStepFold (n c : Nat) (s : State) : Host.Outcome State Fault Refusal :=
  if s.off then .next s else
  match s.ctx n c with
  | none => .next s
  | some x =>
    if s.frt.silent && s.frt.entry.any (fun (e : Nat × Nat) => eValid e.2 && ePart e.2 == n && eTier e.2 == 5) then .next s
    else match (s.resPart n).fold with
    | some f => .next (if f.ctx = c then s.foldGo n else s)
    | none =>
      let again := (s.resPart n).folded.find c == some x.step
      if s.hasSeqs n c && x.stepPassed && s.stepEnding n c x && !again then .next (((s.foldBegin n c x.step).foldGo n).settleBridges)
      else .next s

/-- SWAP_COPY_COMPLETE: the copy of a page to the swap area ends, once the host has given up the lines of the page and of its place
(R246), and answers, where either lies in host memory (R244); a fold that waits for it goes on (R160 to R163, R165). -/
def execSwapCopyComplete (n x : Nat) (result : MoveResult) (s : State) : Host.Outcome State Fault Refusal :=
  if s.off then .next s else
  match (s.resPart n).swapping.find? fun w => w.2.1 == x with
  | none => .next s
  | some w =>
    let far := fun (x : Nat) => eTier (s.entry x) == 5
    if s.frt.pageSnooped x || s.frt.pageSnooped w.2.2 || (s.frt.silent && (far x || far w.2.2)) then .next s
    else .next ((((s.swapEnd n w result).flushLate).foldGo n).settleBridges)

/-- A partition reset closes every sequence without a fold, and returns all its pages to the pool (R166). -/
def State.resReset (s : State) (n : Nat) : State :=
  let r := s.resPart n
  let s := s.modRes n fun r => { r with views := [], fold := none }
  let qs := s.res.seqs.filter fun q => q.part == n
  let s := qs.foldl (fun (s : State) q => s.closePages n q) s
  let s := r.views.foldl (fun (s : State) v => v.2.foldl (fun (s : State) x => s.tryFree n x) s) s
  let s := { s with res := { s.res with seqs := s.res.seqs.filter fun q => q.part != n } }
  s.modRes n fun r => { free := r.free ++ r.deferred, swapFree := r.swapFree }

end Sys2Proof.Machine
end

