-- ==== Sys2Proof/Machine/Memory.lean ====
section
/-! DEFINITION. Device memory as the host and the controllers act on it (R225 to R246, R337): mapping, COPY, the host window
and its snoop filter, translation walks, memory errors and failures. -/

namespace Sys2Proof.Machine

/-! ### The snoop filter (R246) -/

/-- A device-side write that was held for a line takes effect under the entry it was translated with. -/
def State.releaseHeld (s : State) (h : HeldWrite) : State :=
  s.modMems fun m => m.writeLoc (locate (eTier h.entry) (eFrame h.entry) (h.addr % pageBytes)) h.bytes

/-- Lines leave the filter; the writes held for them take effect in order. A page whose error waited for its last line is
poisoned (R232). -/
def State.dropLines (s : State) (gone : Nat → Bool) : State :=
  let hs := s.frt.held.filter fun h => gone h.line
  let s := s.modFrt fun f => { f with
    snoop := f.snoop.filter fun l => !gone l, evicting := f.evicting.filter fun l => !gone l
    held := f.held.filter fun h => !gone h.line }
  let s := hs.foldl (fun (s : State) h => s.releaseHeld h) s
  let xs := s.frt.poisoning.filter fun x => !s.frt.pageSnooped x
  let s := s.modFrt fun f => { f with poisoning := f.poisoning.filter f.pageSnooped }
  xs.foldl (fun (s : State) x => s.poisonPage x) s

/-- Lines that the filter holds at most (R246). -/
def snoopLines : Nat := 262144

/-- A host read of a line of the host window (R229, R245, R246). One that may leave the line at the host enters it in the filter.
Where the filter is full, its oldest line that is not yet on its way out is taken back, and the read waits for that. -/
def State.windowRead (s : State) (line : Nat) (mayCache : Bool) : State :=
  let f := s.frt
  let a := f.hwinBase + 64 * line
  match s.windowEntry f.hwinPart a false with
  | .wait _ => s
  | .bad _ poison =>
    let (k, s) := (s.noteFault f.hwinPart hostWindowUnit a poison).draw
    let v := if poison then (Config.value k).toNat else 2 ^ 512 - 1
    { s with rdata := 2 ^ 512 + v }
  | .ok e =>
    let v := ofLE (s.mems.readLoc (locate (eTier e) (eFrame e) (a % pageBytes)) 64)
    if !mayCache || f.snoop.contains line then { s with rdata := v }
    else if snoopLines ≤ f.snoop.length then
      s.modFrt fun f => { f with
        hostReads := f.hostReads ++ [line]
        evicting := f.evicting ++ (f.snoop.find? fun l => !f.evicting.contains l).toList }
    else { s.modFrt (fun f => { f with snoop := f.snoop ++ [line] }) with rdata := v }

/-- The oldest host read that waits for room in the filter goes on. -/
def State.nextHostRead (s : State) : State :=
  match s.frt.hostReads with
  | [] => s
  | line :: rest =>
    if s.frt.snoop.length < snoopLines then (s.modFrt fun f => { f with hostReads := rest }).windowRead line true else s

/-- BIRSP: the host answers a back-invalidation: the line leaves the filter, which may make room for a host read that waits
(R246). -/
def execBirsp (line : Nat) (s : State) : Host.Outcome State Fault Refusal :=
  if s.off then .next s
  else
    let t := (s.dropLines (· == line)).nextHostRead
    .next (if s.frt.poisoning.isEmpty then t else t.settleBridges)

/-! ### Mapping (R225, R226, R245) -/

/-- The entry of a newly mapped page. -/
def newEntry (p : List Byte) (n tier frame : Nat) : Nat :=
  mkEntry tier 0 n 1 0 (pk p 17 1 / 16) (bit (pk p 17 1) 3) false false frame

/-- A zeroed frame of a tier is mapped at a page. -/
def State.mapFrame (s : State) (p : List Byte) (n tier x : Nat) : State :=
  match s.takeFrame tier with
  | none => s
  | some (f, s) => (s.modMems fun m => m.clearFrame tier f).setEntry x (newEntry p n tier f)

/-- A page is mapped: with its shadow, where it lies in the version window. -/
def State.mapPage (s : State) (p : List Byte) (n tier x : Nat) : State :=
  let s := s.mapFrame p n tier x
  if s.inWindow n (x * pageBytes) then s.mapFrame p n tier (s.shadowOf n x) else s

/-- Host pages are mapped from their frame list. -/
def State.mapHost (s : State) (p : List Byte) (n : Nat) : List Nat → List Nat → State
  | x :: xs, a :: as =>
    let s := s.setEntry x (newEntry p n 5 (a / pageBytes))
    if s.inWindow n (x * pageBytes) then
      match as with
      | b :: as => (s.setEntry (s.shadowOf n x) (newEntry p n 5 (b / pageBytes))).mapHost p n xs as
      | [] => s
    else s.mapHost p n xs as
  | _, _ => s

/-- A newly mapped page joins the partition's Resonator pool or swap area, where it belongs to one. The swap area lies in the
part's second tier (R163). -/
def State.joinPools (s : State) (n tier x : Nat) : State :=
  if Config.resonatorPool n x then s.modRes n fun r => { r with free := r.free ++ [x] }
  else if tier = s.secondTier && Config.resonatorSwap n x then s.modRes n fun r => { r with swapFree := r.swapFree ++ [x] }
  else s

/-- An unmapped page leaves them. -/
def State.leavePools (s : State) (n x : Nat) : State :=
  s.modRes n fun r => { r with
    free := r.free.filter (· != x), deferred := r.deferred.filter (· != x), swapFree := r.swapFree.filter (· != x) }

/-- MAP_PAGES: pages of a partition are mapped to frames of a tier, or the host window is set (R225, R245). -/
def execMapPages (n : Nat) (s : State) : Host.Outcome State Fault Refusal :=
  s.hostCommand n 0x30 fun c s =>
    let p := c.packet
    let part := pk p 16 1 % 16
    let tier := pk p 17 1 % 8
    let xs := pageRange (pk p 20 6) (pk p 26 4)
    if bit (pk p 18 1) 0 then
      ((s.dropLines fun _ => true).modFrt fun f => { f with
        hwinPart := part, hwinPages := pk p 26 4, hwinBase := pk p 20 6 }).finish n stOk 0
    else if tier = 5 then
      let k := (xs.map (s.framesFor part)).sum
      match s.fnRead c.fn (pk p 32 8) (8 * k) with
      | none => s.hostReadFailed n
      | some bs =>
        let s := s.mapHost p part xs ((List.range k).map fun i => leAt bs (8 * i) 8)
        (xs.foldl (fun (s : State) x => s.joinPools part tier x) s).finish n stOk 0
    else (xs.foldl (fun (s : State) x => (s.mapPage p part tier x).joinPools part tier x) s).finish n stOk 0

/-- A page's entry is cleared and its frame returns to its pool (R226). -/
def State.unmapPage (s : State) (x : Nat) : State := (s.freeEntryFrame (s.entry x)).setEntry x 0

/-- UNMAP_PAGES: waits for drains and for the host's lines, and then clears the entries (R226, R246). -/
def execUnmapPages (n : Nat) (s : State) : Host.Outcome State Fault Refusal :=
  s.hostCommand n 0x31 fun c s =>
    let p := c.packet
    let part := pk p 16 1 % 16
    let xs := (pageRange (pk p 20 6) (pk p 26 4)).flatMap fun x =>
      if s.inWindow part (x * pageBytes) then [x, s.shadowOf part x] else [x]
    if xs.any fun x => eDrain (s.entry x) || s.frt.pageSnooped x || s.frt.moves.any (·.page == x) then s.unstart n
    else (xs.foldl (fun (s : State) x => (s.unmapPage x).leavePools part x) s).finish n stOk 0

/-! ### COPY (R337) -/

/-- COPY: bytes move between device addresses, or between a device address and host memory; then, once no byte of them still
waits for the host to give up a line (R246), the counter is added to. A refused access ends it with BAD_PARAM or MEM_POISON; one
that waits is tried again. -/
def execCopy (n : Nat) (s : State) : Host.Outcome State Fault Refusal :=
  s.hostCommand n 0x32 fun c s =>
    let p := c.packet
    let part := pk p 16 1 % 16
    let src := pk p 20 8
    let dst := pk p 28 8
    let len := pk p 36 4
    let fl := pk p 40 1
    let failed := fun (off a : Nat) (poison : Bool) =>
      (s.noteFault part 9 a poison).finish n (if poison then stMemPoison else stBadParam) (if poison then 0 else off)
    let done := fun (s : State) =>
      if !bit fl 1 && s.heldIn dst len then (s.modCmd n fun c => { c with offset := len }).unstart n
      else (if bit fl 2 then s.addCounter (pk p 44 4 % 2 ^ 17) (BitVec.ofNat 64 (pk p 48 8)) else s).finish n stOk 0
    let bytes := if bit fl 0 then (match s.fnRead c.fn src len with
        | some bs => some (.ok bs)
        | none => none)
      else some (s.devRead part .plain .newest src len)
    if len != 0 && c.offset == len then done s
    else match bytes with
    | none => s.hostReadFailed n
    | some (.bad a q) => failed 20 a q
    | some (.wait _) => s.unstart n
    | some (.ok bs) =>
      if bit fl 1 then done (s.fnWrite c.fn dst bs)
      else match s.devWrite part .plain dst bs with
        | .bad a q => failed 28 a q
        | .wait _ => s.unstart n
        | .ok s => done s

/-! ### The host window (R245, R246) -/

/-- HOST_WINDOW_ACCESS: a host read or write of a line, translated for the window's partition. -/
def execHostWindowAccess (offset : Nat) (data : Option (List Byte)) (mayCache : Bool) (s : State) :
    Host.Outcome State Fault Refusal :=
  if s.off then .next s else
  let f := s.frt
  let line := offset / 64
  let a := f.hwinBase + 64 * line
  if f.hwinPages * pageBytes ≤ offset then .next s
  else
    match data with
    | none => .next (s.windowRead line mayCache)
    | some bs => .next (s.windowWrite f.hwinPart a (padTo 64 bs))

/-! ### Translation walks (R227, R228) -/

/-- FRETBOARD_WALK: the entry that a lookup asked for arrives and fills both caches. -/
def execFretboardWalk (d k x : Nat) (s : State) : Host.Outcome State Fault Refusal :=
  if s.dieOff d then .next s else
  if !s.frt.walks.contains (d, k, x) then .next s
  else
    let set := d * 512 + x % 512
    .next (s.modFrt fun f => { f with
      walks := f.walks.erase (d, k, x)
      clCache := Tab.update [] f.clCache k fun l => (x :: l.filter (· != x)).take 64
      dieCache := Tab.update [] f.dieCache set fun l => (x :: l.filter (· != x)).take 8 })

/-! ### Memory errors (R232, R239, R240, R242, R243) -/

/-- A page is poisoned, once the host has given up its lines (R232, R246). -/
def State.poison (s : State) (x : Nat) : State :=
  if !s.frt.pageSnooped x then s.poisonPage x
  else if s.frt.poisoning.contains x || !eValid (s.entry x) || eState (s.entry x) == 3 then s
  else s.modFrt fun f => { f with poisoning := f.poisoning ++ [x] }

/-- Every valid entry with a frame of a pool is poisoned, and the pool is gone (R240, R243). -/
def State.losePool (s : State) (i : Nat) : State :=
  let xs := (s.frt.entry.filter fun e => eValid e.2 && decide (eTier e.2 ≤ 4) && poolOf (eTier e.2) (eFrame e.2) == i).map (·.1)
  (xs.foldl (fun (s : State) x => s.poison x) s).modPool i fun p => { p with live := false }

/-- A controller declares its stack or interface failed (R240, R243, R389, R394, R400). -/
def State.failCtl (s : State) (c : MemCtl) : State :=
  if (s.ctl c).state != 1 then s
  else
    let s := (s.modCtl c fun r => { r with state := 3 }).census 1
    match c with
    | .hbm i =>
      let s := { s with boot := { s.boot with
        hbmLive := s.boot.hbmLive - (s.boot.hbmLive &&& 2 ^ i), hbmLost := s.boot.hbmLost ||| 2 ^ i } }
      (s.losePool i).logRecord 4 (toLE 1 0 ++ toLE 1 i)
    | .lp i =>
      let g := i / 4
      let first := bit s.boot.lpGroups g
      let s := { s with boot := { s.boot with
        lpLive := s.boot.lpLive - (s.boot.lpLive &&& 2 ^ i), lpLost := s.boot.lpLost ||| 2 ^ i
        lpGroups := s.boot.lpGroups - (s.boot.lpGroups &&& 2 ^ g) } }
      if first then (s.losePool (12 + g)).logRecord 4 (toLE 1 1 ++ toLE 1 g) else s

/-- An uncorrectable error is counted by its controller, which fails at the sixteenth (R240, R243). -/
def State.countUncorrectable (s : State) (c : MemCtl) : State :=
  let s := (s.modCtl c fun r => { r with uncorrectable := wrapAdd 8 r.uncorrectable 1 }).memUncorrected 1
  if 16 ≤ (s.ctl c).uncorrectable then s.failCtl c else s

/-- The controller of byte `o` of a frame (R224, R242). -/
def ctlOf (tier frame o : Nat) : MemCtl :=
  if tier < 4 then .hbm (poolOf tier frame) else .lp (4 * (poolOf tier frame - 12) + field o 13 12)

/-- MEMORY_UNCORRECTABLE_ERROR: a read or a write-back finds an uncorrectable error in a page's frame, or a host read of a
tier-5 frame carries CXL poison: the page is poisoned (R232, R239, R244). -/
def execMemoryUncorrectableError (x o : Nat) (s : State) : Host.Outcome State Fault Refusal :=
  if s.off then .next s else
  let e := s.entry x
  if !eValid e || 6 ≤ eTier e then .next s
  else
    let s := s.poison x
    .next ((if eTier e ≤ 4 && s.carries (ctlOf (eTier e) (eFrame e) o) then s.countUncorrectable (ctlOf (eTier e) (eFrame e) o) else s).settleBridges)

/-- Lines that a controller's scrub pass reads. -/
def State.scrubLines (s : State) : MemCtl → Nat
  | .hbm _ => 603979776
  | .lp i => (s.lpReg i).usable * 2 ^ 28

/-- The line of a pass that a scrub reads next, as a frame of its pool and a byte of that frame, in address order (R238, R239, R242).
DESIGN CHOICE: the 32 pseudo-channels of a stack, which each read one line at an interval, take their turns by number. -/
def scrubLine (c : MemCtl) (i : Nat) : Nat × Nat :=
  match c with
  | .hbm _ =>
    let line := i / 32
    let f := line / 256
    (f, field line 7 2 * 2 ^ 13 + Nat.xor (i % 32) (f % 32) * 2 ^ 8 + line % 4 * 64)
  | .lp k =>
    let b := 64 * i
    (b / 2 ^ 17, field b 16 12 * 2 ^ 14 + k % 4 * 2 ^ 12 + b % 2 ^ 12)

/-- A page whose frame lies in a controller's pool with a number. -/
def State.pageAt (s : State) (c : MemCtl) (frame : Nat) : Option Nat :=
  let pool := match c with
    | .hbm i => i
    | .lp i => 12 + i / 4
  (s.frt.entry.find? fun e => eValid e.2 && decide (eTier e.2 ≤ 4)
    && poolOf (eTier e.2) (eFrame e.2) == pool && frameInPool (eTier e.2) (eFrame e.2) == frame).map (·.1)

/-- SCRUB_READ: a controller's scrub reads the next line, in address order (R239, R242); `frame` and `o` name that line. The
corrections that demand reads of the controller's memory have met since are counted with it. A group that has failed carries no
data (R243). -/
def execScrubRead (c : MemCtl) (frame o : Nat) (met : ScrubOutcome) (s : State) : Host.Outcome State Fault Refusal :=
  if s.off || !s.carries c then .next s else
  let s := met.demand.foldl (fun (s : State) r => s.countFix c r) s
  let r := s.ctl c
  if r.gap = 0 || scrubLine c r.scrubAt != (frame, o) then .next s
  else
    let s := s.modCtl c fun r =>
      if s.scrubLines c ≤ r.scrubAt + 1 then { r with scrubAt := 0, passes := wrapAdd 16 r.passes 1 }
      else { r with scrubAt := r.scrubAt + 1 }
    match met.scrub with
    | .clean => .next s
    | .onDie | .corrected | .linkRetry => .next (s.countFix c met.scrub)
    | .uncorrectable =>
      let s := match s.pageAt c frame with
        | some x => s.poison x
        | none => s
      .next ((s.countUncorrectable c).settleBridges)

/-- STACK_FAILED: a retraining of a stack's interface has failed at every rate (R240). -/
def execStackFailed (i : Nat) (s : State) : Host.Outcome State Fault Refusal :=
  if s.dieOff (i / 3) then .next s else
  if 12 ≤ i then .next s else .next ((s.memRetrained.failCtl (.hbm i)).settleBridges)

/-- LP_INTERFACE_FAILED: a retraining of an interface has failed at every rate; its group fails (R243). -/
def execLpInterfaceFailed (i : Nat) (s : State) : Host.Outcome State Fault Refusal :=
  if s.off then .next s else
  if 16 ≤ i then .next s else .next ((s.memRetrained.failCtl (.lp i)).settleBridges)

end Sys2Proof.Machine
end

