-- ==== Sys2Proof/Machine/Scroll.lean ====
section
/-! DEFINITION. The Scroll (07): puts and gets of pieces, the directory's pages, watermarks and overrides, migration,
demotion and promotion, and replays of dropped pieces. -/

namespace Sys2Proof.Machine

/-! ### SCROLL fields (R105) -/
namespace Scl
/-- tensor_id. -/
def tensor (d : Nat) : Nat := d32 d 8
/-- dev_addr. -/
def dev (d : Nat) : Nat := d48 d 12
/-- sp_addr. -/
def sp (d : Nat) : Nat := d16 d 18
/-- length. -/
def length (d : Nat) : Nat := d32 d 20
/-- disposition. -/
def disp (d : Nat) : Nat := dfield d 24 1 0
/-- dir: a get. -/
def get (d : Nat) : Bool := bit d (8 * 24 + 2)
/-- droppable. -/
def droppable (d : Nat) : Bool := bit d (8 * 24 + 3)
/-- store_fmt. -/
def storeFmt (d : Nat) : Nat := dfield d 24 7 4
/-- key_int, 0 meaning 32. -/
def keyInt (d : Nat) : Nat := if dfield d 25 4 0 = 0 then 32 else dfield d 25 4 0
/-- seed_reg. -/
def seedReg (d : Nat) : Nat := dfield d 26 3 0
/-- src_fmt. -/
def srcFmt (d : Nat) : Nat := dfield d 26 7 4
/-- err_budget. -/
def budget (d : Nat) : Nat := dfield d 27 7 0
/-- frame index. -/
def frame (d : Nat) : Nat := d32 d 28
/-- seg_id. -/
def seg (d : Nat) : Nat := d32 d 32
end Scl

/-- Whether a directive's combination of formats is one of R168. -/
def scrollFormats (d : Nat) : Bool :=
  match Scl.disp d with
  | 1 => decide (Scl.srcFmt d ≤ 2) && [3, 5, 10].contains (Scl.storeFmt d)
  | 2 => decide (Scl.srcFmt d ≤ 2) && Scl.storeFmt d == 10
  | _ => decide (Scl.srcFmt d ≤ 9)

/-! ### Piece records (R171) -/

/-- A piece record. -/
structure Piece where
  state : Nat := 0             -- 0 empty, 1 writing, 2 stored, 3 dropped, 4 kept, 5 faulted
  flags : Nat := 0
  pref : Nat := 0
  uses : Nat := 0
  nextUse : Nat := 0
  tensor : Nat := 0
  frame : Nat := 0
  seg : Nat := 0
  src : Nat := 0
  store : Nat := 0
  disp : Nat := 0              -- carried out
  compiled : Nat := 0
  droppable : Bool := false
  budget : Nat := 0
  keyInt : Nat := 32
  seed : Nat := 0
  rawLen : Nat := 0
  storedLen : Nat := 0
  addr : Nat := 0
  tier : Nat := 0
  step : Nat := 0
  usesLeft : Nat := 0
  deriving DecidableEq, Repr

/-- A record from its bytes. -/
def Piece.decode (b : List Byte) : Piece :=
  { state := leAt b 0 1, flags := leAt b 1 1 % 16, pref := leAt b 2 1 % 4, uses := leAt b 3 1, nextUse := leAt b 4 4
    tensor := leAt b 8 4, frame := leAt b 12 4, seg := leAt b 16 4, src := leAt b 20 1 % 16, store := leAt b 20 1 / 16
    disp := leAt b 21 1 % 4, compiled := leAt b 21 1 / 4 % 4, droppable := bit (leAt b 21 1) 4
    budget := leAt b 22 1, keyInt := leAt b 23 1, seed := leAt b 24 8, rawLen := leAt b 32 4, storedLen := leAt b 36 4
    addr := leAt b 40 8 % 2 ^ 41, tier := field (leAt b 40 8) 62 60, step := leAt b 48 4, usesLeft := leAt b 52 1 }

/-- The bytes of a record up to its reserved ones. -/
def Piece.encode (r : Piece) : List Byte :=
  toLE 1 r.state ++ toLE 1 r.flags ++ toLE 1 r.pref ++ toLE 1 r.uses ++ toLE 4 r.nextUse
    ++ toLE 4 r.tensor ++ toLE 4 r.frame ++ toLE 4 r.seg ++ toLE 1 (r.src + 16 * r.store)
    ++ toLE 1 (r.disp + 4 * r.compiled + 16 * ofBool r.droppable) ++ toLE 1 r.budget ++ toLE 1 r.keyInt ++ toLE 8 r.seed
    ++ toLE 4 r.rawLen ++ toLE 4 r.storedLen ++ toLE 8 (r.addr + r.tier * 2 ^ 60) ++ toLE 4 r.step ++ toLE 1 r.usesLeft

/-- A DELTA piece is a keyframe (R180). -/
def Piece.key (r : Piece) : Bool := r.frame % max 1 r.keyInt == 0
/-- A piece names its segment: compiled DROP, or STORE and droppable (R168). -/
def Piece.names (r : Piece) : Bool := r.compiled == 3 || (r.compiled == 1 && r.droppable)
/-- The format of a piece's raw elements. -/
def Piece.srcFmt (r : Piece) : Fmt := (Fmt.ofCode r.src).getD .fp32
/-- The format of its stored elements. -/
def Piece.storeFmt (r : Piece) : Fmt := (Fmt.ofCode r.store).getD .sbf
/-- Raw elements of a piece. -/
def Piece.elems (r : Piece) : Nat := (elemsIn r.srcFmt (64 * r.rawLen)).getD 0

/-- A record as the codec or the directory reads it. -/
def State.readPiece (s : State) (n a : Nat) : Acc Piece :=
  match s.devRead n .codec .newest a 64 with
  | .ok b => .ok (Piece.decode (s.withLate n a b))
  | .bad c q => .bad c q
  | .wait c => .wait c

/-- Whether a record can be written now: it waits for its page, and for its line at the host (R228, R246). -/
def State.recordCheck (s : State) (n a : Nat) : Acc Unit :=
  if (s.frt.windowLine a).any s.frt.snoop.contains then .wait a else s.devCheckWrite n .codec a 64

/-- Refused reads of records are recorded (R229). -/
def State.notePieces (s : State) (n : Nat) (as : List Nat) : State := as.foldl (fun s a => s.noteBad n 4 (s.readPiece n a)) s

/-- Whether what a record's release reads lies partly in host memory while the host does not answer (R244). -/
def State.chainAway (s : State) (a : Nat) : Bool :=
  s.frt.silent && [a - 2048, a, a + 2048].any fun b => eTier (s.entry (pageOf b)) == 5

/-- A record is written; a write that is refused is recorded (R229), and one in a page that moves or drains waits for it (R228). -/
def State.putPiece (s : State) (n a : Nat) (r : Piece) : State := s.hubWrite n 4 .codec a r.encode

/-- The index of a record in its partition's table, where it lies in it (R168). -/
def State.recordIndex (s : State) (n a : Nat) : Option Nat :=
  let q := s.scrPart n
  if q.ptBase ≤ a && a % 64 == 0 && decide (a < q.ptBase + q.ptSize * 8192 * 64) then some ((a - q.ptBase) / 64) else none

/-! ### Segments that pieces name (R172, R205) -/

/-- The pin of a segment is released where its last piece has been and it is closed. -/
def State.releaseSegPin (s : State) (n seg : Nat) : State :=
  s.modPart n fun p => { p with ctxs := p.ctxs.map fun e =>
    (e.1, { e.2 with segPins := e.2.segPins.filter fun q => !(q.seg == seg && q.closed) }) }

/-- The count of pieces in a segment's record is changed (R205). -/
def State.countPiece (s : State) (n seg : Nat) (up : Bool) : State :=
  match s.segAddr n seg with
  | none => s
  | some a =>
    let k := s.segPieces n seg
    let k' := if up then k + 1 else k - 1
    let s := s.hubWrite n 4 .plain (a + 0x24) (toLE 4 k')
    if !up && k' = 0 then s.releaseSegPin n seg else s

/-! ### Scroll pages (R173, R174) -/

/-- HBM3E pages held. -/
def ScrPart.hbmPages (q : ScrPart) : Nat := (q.pages.filter fun p => decide (p.tier < 4)).length
/-- Second-tier pages held. -/
def ScrPart.secPages (q : ScrPart) : Nat := (q.pages.filter fun p => decide (4 ≤ p.tier)).length

/-- The override level after a change of occupancy, quota or watermarks (R183): the rises first, then the falls. -/
def ScrPart.nextLevel (q : ScrPart) (override : Bool) : Nat :=
  if !override then 0
  else
    let at_ := fun (mark pages quota : Nat) => quota != 0 && decide (mark * quota ≤ 256 * pages)
    let under := fun (mark pages quota : Nat) => decide (256 * pages ≤ mark * quota)
    let l := if at_ q.secHigh q.secPages q.quotaSec then 2
      else if at_ q.hbmHigh q.hbmPages q.quotaHbm && q.level = 0 then (if q.quotaSec = 0 then 2 else 1)
      else q.level
    let l := if l = 2 && (if q.quotaSec = 0 then under q.hbmLow q.hbmPages q.quotaHbm else under q.secLow q.secPages q.quotaSec)
      then 1 else l
    if l = 1 && under q.hbmLow q.hbmPages q.quotaHbm then 0 else l

/-- The override level of a partition follows. -/
def State.scrLevel (s : State) (n : Nat) : State :=
  s.modScr n fun q => { q with level := q.nextLevel s.scr.override }

/-- A page of the window that the directory may open: no Scroll page, and its entry is not valid or is absent (R173, R174).
`k` of the window's pages remain. -/
def State.windowPage (s : State) (n : Nat) : Nat → Nat → Option Nat
  | 0, _ => none
  | k + 1, x =>
    let e := s.entry x
    if !(s.scrPart n).pages.any (·.page == x) && (!eValid e || (ePart e == n && eTier e == 6)) then some x
    else s.windowPage n k (x + 1)

/-- Whether a page belongs to the Resonator: to the pool, to the swap area, or to a sequence, or has been given up by its last
sequence and waits for a pin or a drain (R173); no other mapped page has a share count of 0. -/
def State.resonatorPage (s : State) (n x : Nat) : Bool :=
  let r := s.resPart n
  eShare (s.entry x) == 0 || s.pinned x
    || r.free.contains x || r.deferred.contains x || r.swapFree.contains x || r.swapping.any (fun (w : Nat × Nat × Nat) => w.2.2 == x)
    || s.res.seqs.any fun q => q.part == n && q.allPages.contains x

/-- A tier-5 frame that MAP_PAGES has put into the window and that neither a Scroll page nor the Resonator uses (R173). -/
def State.hostPage (s : State) (n : Nat) : Nat → Nat → Option Nat
  | 0, _ => none
  | k + 1, x =>
    let e := s.entry x
    if !(s.scrPart n).pages.any (·.page == x) && eValid e && ePart e == n && eTier e == 5 && eState e == 0 && !s.resonatorPage n x then some x
    else s.hostPage n k (x + 1)

/-- A frame of a tier for the Scroll. In tier 5 it is one of the partition's host frames. -/
def State.scrFrame (s : State) (n tier : Nat) : Option (Nat × State) :=
  if tier ≤ 4 then s.takeFrame tier
  else match (s.scrPart n).hostFree with
    | f :: fs => some (f, s.modScr n fun q => { q with hostFree := fs })
    | [] => match s.hostPage n (s.scrPart n).winPages (pageOf (s.scrPart n).winBase) with
      | none => none
      | some x => some (eFrame (s.entry x), s.setEntry x 0)

/-- A frame that the Scroll held goes back: to its pool, to the window's host frames, or out of use when it is poisoned. -/
def State.scrFreeFrame (s : State) (n e : Nat) : State :=
  if eTier e = 5 then
    if eState e = 3 then s else s.modScr n fun q => { q with hostFree := q.hostFree ++ [eFrame e] }
  else s.freeEntryFrame e

/-- A tier's quota leaves room for one more page; pages on their way into it count (R173). -/
def State.quotaRoom (s : State) (n tier : Nat) : Bool :=
  let q := s.scrPart n
  let coming := fun (hbm : Bool) => (s.frt.moves.filter fun m =>
    q.pages.any (·.page == m.page) && decide (m.tier < 4) == hbm).length
  if tier < 4 then decide (q.hbmPages + coming true < q.quotaHbm) else decide (q.secPages + coming false < q.quotaSec)

/-- A new page is opened for a codec (R173). -/
def State.openPage (s : State) (n cluster tier : Nat) (drop : Bool) : Option (Nat × State) :=
  if !s.quotaRoom n tier then none
  else match s.scrFrame n tier with
    | none => none
    | some (f, t) =>
      match t.windowPage n (t.scrPart n).winPages (pageOf (t.scrPart n).winBase) with
      | none => none
      | some x =>
        let t := t.setEntry x (mkEntry tier 0 n 1 0 0xA false false true f)
        let p : ScrPage := { page := x, tier := tier, cluster := cluster, droppable := drop }
        some (x, (t.modScr n fun q => { q with
          pages := (q.pages.map fun y =>
            if y.open_ && y.tier == tier && y.cluster == cluster && y.droppable == drop then { y with open_ := false } else y) ++ [p] }).scrLevel n)

/-- Bytes are taken from a page for a record. -/
def State.takeBytes (s : State) (n x a size : Nat) : Nat × State :=
  match (s.scrPart n).pages.find? (·.page == x) with
  | none => (x * pageBytes, s)
  | some p => (x * pageBytes + p.fill, s.modScr n fun q => { q with
      pages := q.pages.map fun y =>
        if y.page = x then { y with fill := alignUp (y.fill + size) 64, pieces := y.pieces ++ [a] } else y })

/-- A place for a record's bytes in one tier: in the codec's open page, or in a new one (R173). -/
def State.placeIn (s : State) (n cluster : Nat) (drop : Bool) (a size tier : Nat) : Option (Nat × Nat × State) :=
  let fits := (s.scrPart n).pages.find? fun p =>
    p.open_ && p.tier == tier && p.cluster == cluster && p.droppable == drop && decide (p.fill + size ≤ pageBytes)
  match fits with
  | some p => let (w, s) := s.takeBytes n p.page a size; some (w, tier, s)
  | none => match s.openPage n cluster tier drop with
    | some (x, s) => let (w, s) := s.takeBytes n x a size; some (w, tier, s)
    | none => none

/-- The die whose stacks have most free pages (R171 pref 1). -/
def State.freestDie (s : State) : Nat :=
  [1, 2, 3].foldl (fun b d => if s.tierFree d > s.tierFree b then d else b) 0

/-! ### Release and demotion (R172, R174, R184) -/

/-- Whether a record is one of a piece not yet released. -/
def ScrPart.live (q : ScrPart) (a : Nat) : Bool := q.pieces.any (·.1 == a)

/-- A page without pieces returns to its pool. Its entry stays as absent where a piece of it was demoted, and is made
invalid otherwise. A move of it ends. -/
def State.closeEmpty (s : State) (n x : Nat) : State :=
  match (s.scrPart n).pages.find? (·.page == x) with
  | none => s
  | some p =>
    if !p.pieces.isEmpty then s
    else
      let s := (s.frt.moves.filter (·.page == x)).foldl (fun (s : State) m =>
        s.scrFreeFrame n (mkEntry m.tier 0 n 1 0 0xA false false true m.frame)) s
      let s := s.modFrt fun f => { f with moves := f.moves.filter (·.page != x) }
      let s := s.scrFreeFrame n (s.entry x)
      let s := s.setEntry x (if p.demoted then mkEntry 6 0 n 1 0 0xA false false true 0 else 0)
      (s.modScr n fun q => { q with pages := q.pages.filter (·.page != x) }).scrLevel n

/-- The bytes of a record are given up. -/
def State.freeBytes (s : State) (n a : Nat) (r : Piece) (demoted : Bool) : State :=
  let x := pageOf r.addr
  let s := s.modScr n fun q => { q with pages := q.pages.map fun p =>
    if p.page = x then { p with pieces := p.pieces.erase a, demoted := p.demoted || demoted } else p }
  s.closeEmpty n x

/-- Whether a later piece of a DELTA piece's chain, before its next keyframe, is not yet released or is being put (R172). `a` is
the record of the next frame `f`; `k` records remain. -/
def State.chainHeld (s : State) (n : Nat) : Nat → Nat → Nat → Acc Bool
  | 0, _, _ => .ok false
  | k + 1, a, f =>
    match s.readPiece n a with
    | .ok r =>
      if r.disp != 2 || r.frame != f % 2 ^ 32 || r.key then .ok false
      else if (s.scrPart n).live a || r.state == 1 then .ok true
      else s.chainHeld n k (a + 64) (f + 1)
    | .bad c q => .bad c q
    | .wait c => .wait c

/-- The released DELTA pieces of the chain that ends at a record give up the bytes that no later piece needs (R172); a refused read
of the chain is recorded, and ends it (R229). -/
def State.sweepChain (s : State) (n a : Nat) : State :=
  (List.range 32).foldl (fun (s : State) j =>
    let b := a - 64 * j
    if (s.scrPart n).live b || !((s.scrPart n).pages.any fun p => p.pieces.contains b) then s
    else match s.readPiece n b with
      | .ok r =>
        let held := s.chainHeld n 32 (b + 64) (r.frame + 1)
        let s := s.noteBad n 4 held
        match held with
        | .ok true | .wait _ => s
        | _ => s.freeBytes n b r false
      | r => s.noteBad n 4 r) s

/-- No codec keeps a reconstruction of a record that is put again. -/
def State.dropRefs (s : State) (a : Nat) : State :=
  { s with clusters := s.clusters.map fun e => (e.1, { e.2 with refs := e.2.refs.filter (·.1 != a) }) }

/-- A piece is released (R172): its record returns to state 0, its segment counts it no longer, and its bytes are given up. -/
def State.releasePiece (s : State) (n a : Nat) : State :=
  let s := s.modScr n fun q => { q with pieces := q.pieces.filter (·.1 != a) }
  match s.readPiece n a with
  | .ok r =>
    let s := s.putPiece n a { r with state := 0 }
    let s := if r.names then s.countPiece n r.seg false else s
    if r.storedLen = 0 then s else if r.disp = 2 then s.sweepChain n a else s.freeBytes n a r false
  | .bad c q =>
    let xs := ((s.scrPart n).pages.filter fun p => p.pieces.contains a).map (·.page)
    xs.foldl (fun (s : State) x => s.freeBytes n a { addr := x * pageBytes } false) (s.noteFault n 4 c q)
  | .wait _ => s

/-- Whether a get of a piece is in progress (R184). -/
def State.getRuns (s : State) (n a : Nat) : Bool :=
  s.cores.any fun e => e.2.part == n && e.2.issued.any fun i =>
    dType i.desc == tyScroll && Scl.get i.desc && Scl.dev i.desc == a

/-- A piece that may be demoted now: stored, droppable, compiled STORE, in a page that does not move, with no get of it in progress
(R184). -/
def State.demotable (s : State) (n a : Nat) : Option Piece :=
  match if s.getRuns n a then .wait a else s.readPiece n a with
  | .ok r =>
    let e := s.entry (pageOf r.addr)
    let here := if (s.scrPart n).quotaSec = 0 then decide (eTier e < 4) else decide (4 ≤ eTier e)
    if r.state = 2 && r.droppable && r.compiled = 1 && eState e == 0 && here then some r else none
  | _ => none

/-- The piece demoted next: the highest next_use, and among equals the one put first (R183). -/
def State.nextDemotion (s : State) (n : Nat) : Option (Nat × Piece) :=
  (s.scrPart n).pieces.foldl (fun (best : Option (Nat × Piece)) e =>
    match s.demotable n e.1, best with
    | none, b => b
    | some r, none => some (e.1, r)
    | some r, some (a, q) => if r.nextUse > q.nextUse then some (e.1, r) else some (a, q)) none

/-- A stored piece is demoted: its record reads as a dropped piece's, to be requantised on replay, and its bytes are
released (R183, R184). -/
def State.demote (s : State) (n a : Nat) (r : Piece) : State :=
  let s := s.putPiece n a { r with state := 3, flags := r.flags ||| 9, disp := 3, storedLen := 0, addr := 0, tier := 0 }
  (s.freeBytes n a r true).modScr n fun q => { q with demoted := satAdd 24 q.demoted 1 }

/-- The tiers that a put is offered, in order: its own, and then the other (R174, R183, R186). -/
def State.putTiers (s : State) (n cluster pref : Nat) : List Nat :=
  if pref = 2 || (s.scrPart n).level = 1 then [s.secondTier, cluster / 8, s.freestDie]
  else if pref = 1 then [s.freestDie, s.secondTier]
  else [cluster / 8, s.secondTier]

/-- A place for a put: its address, its tier and the state. -/
def State.placeNow (s : State) (n cluster pref : Nat) (drop : Bool) (a size : Nat) : Option (Nat × Nat × State) :=
  (s.putTiers n cluster pref).findSome? fun t => s.placeIn n cluster drop a size t

/-- A place for a put, which at level 2 demotions may make (R186). -/
def State.placePut (s : State) (n cluster pref : Nat) (drop : Bool) (a size : Nat) : Nat → Option (Nat × Nat × State)
  | 0 => s.placeNow n cluster pref drop a size
  | k + 1 =>
    match s.placeNow n cluster pref drop a size with
    | some r => some r
    | none =>
      if (s.scrPart n).level != 2 then none
      else match s.nextDemotion n with
        | none => none
        | some (b, r) => ((s.notePieces n ((s.scrPart n).pieces.map (·.1))).demote n b r).placePut n cluster pref drop a size k

/-! ### The codec (R175 to R182) -/

/-- Elements, rounding mode and draws of a piece (R178, R179). -/
def Piece.draw (r : Piece) (i : Nat) : Nat :=
  let at_ : DrawAt := { tensor := r.tensor, tileRow := r.frame % 2 ^ 16, tileCol := r.frame / 2 ^ 16, purpose := 3, draw := i }
  at_.bits (BitVec.ofNat 64 r.seed)

/-- The rounding mode of an err_budget code. -/
def Piece.mode (r : Piece) : RMode := if bit r.budget 7 then .sr else .rne

/-- The values of a piece's raw bytes. -/
def Piece.values (r : Piece) (raw : List Byte) : List Fp := rowValues r.srcFmt raw [] r.elems

/-- Raw bytes of values in src_fmt, under RNE with sat = 1 (R178, R181). -/
def Piece.raw (r : Piece) (xs : List Fp) : List Byte := packElems r.srcFmt (xs.map fun x => convert r.srcFmt .rne true 0 x)

/-- The SBF blocks of values, the exponents of the frame's own blocks for a residual, and how many blocks were non-finite
and missed their budget (R177). -/
def Piece.sbf (r : Piece) (xs : List Fp) (erefs : Option (List Nat)) : List SbfBlock × Nat × Nat :=
  let gs := groups64 xs.length xs
  let bl := (gs.zip (List.range gs.length)).map fun (g, b) =>
    sbfCode g r.mode r.budget (erefs.map fun (l : List Nat) => l.getD b 0) erefs.isSome (if erefs.isSome then r.frame % max 1 r.keyInt else 0)
      fun i => if r.mode = RMode.sr then r.draw (64 * b + i) else 0
  (bl.map (·.1), (bl.filter (·.2.1)).length, (bl.filter (·.2.2)).length)

/-- The stored bytes of a STORE piece, and its non-finite blocks and budget misses (R177, R178). -/
def Piece.storeBytes (r : Piece) (xs : List Fp) : List Byte × Nat × Nat :=
  if r.store = 10 then
    let (bl, nf, miss) := r.sbf xs none
    (bl.flatMap SbfBlock.encode, nf, miss)
  else
    let (codes, sc) := convertRow r.storeFmt r.mode true (fun i => if r.mode = .sr then r.draw i else 0) xs
    (packElems r.storeFmt codes ++ sc.map (BitVec.ofNat 8), 0, 0)

/-- The values that stored bytes of a STORE piece hold. -/
def Piece.stored (r : Piece) (bs : List Byte) : List Fp :=
  if r.store = 10 then ((sbfBlocks bs.length bs).flatMap SbfBlock.values).take r.elems
  else rowValues r.storeFmt (bs.take (packedBytes r.storeFmt r.elems)) (bs.drop (packedBytes r.storeFmt r.elems)) r.elems

/-- Blocks of a piece. -/
def Piece.blocks (r : Piece) : Nat := ceilDiv r.elems 64

/-- A codec has coded blocks. -/
def State.coded (s : State) (k blocks nf miss : Nat) : State :=
  s.modCluster k fun c => { c with
    compressed := wrapAdd 32 c.compressed blocks
    nonfinite := satAdd 16 c.nonfinite nf, budgetMiss := satAdd 16 c.budgetMiss miss }
/-- A codec has decoded blocks. -/
def State.decoded (s : State) (k blocks : Nat) : State :=
  s.modCluster k fun c => { c with decompressed := wrapAdd 32 c.decompressed blocks }

/-- The reconstruction of a DELTA frame from its stored bytes and that of the frame before (R181). -/
def Piece.recon (r : Piece) (bs : List Byte) (prev : List Fp) : List Byte :=
  let xs := ((sbfBlocks bs.length bs).flatMap SbfBlock.values).take r.elems
  r.raw (if r.key then xs else (xs.zip (List.range xs.length)).map fun (x, i) => (prev.getD i .zero).add x)

/-- A chain is decoded forward from its last keyframe up to a record: the raw bytes of that frame and the frames decoded
(R182). `j` records before it remain. -/
def State.decodeChain (s : State) (n a : Nat) : Nat → List Fp → Acc (List Byte)
  | j, prev =>
    let b := a - 64 * j
    match s.readPiece n b with
    | .bad c q => .bad c q
    | .wait c => .wait c
    | .ok r =>
      match s.devRead n .codec .newest r.addr r.storedLen with
      | .bad c q => .bad c q
      | .wait c => .wait c
      | .ok bs =>
        let raw := r.recon bs prev
        match j with
        | 0 => .ok raw
        | j + 1 => s.decodeChain n a j (r.values raw)

/-- Where reference slot `i` of a cluster lies in its cluster memory (R236). -/
def refAddr (i : Nat) : Nat := 2 ^ 24 - 0x8000 - (i + 1) * 0x40000

/-- A codec keeps a frame's reconstruction as its chain's reference: in the chain's slot, else in an unused one, else in the
one used least recently (R182). -/
def State.keepRef (s : State) (k a : Nat) (raw : List Byte) : State :=
  let c := s.cluster k
  if c.refSlots = 0 then s
  else
    let own := c.refs.find? fun e => e.1 == a || e.1 + 64 == a
    let slot := match own with
      | some e => e.2.1
      | none =>
        match (List.range c.refSlots).find? fun i => !c.refs.any (·.2.1 == i) with
        | some i => i
        | none => (c.refs.getLast?.map (·.2.1)).getD 0
    (s.cmWrite k (refAddr slot) raw).modCluster k fun c => { c with
      refs := (a, slot, raw.length) :: c.refs.filter (·.2.1 != slot) }

/-- The reconstruction of the frame at a record, from a reference slot or by decoding its chain (R182). -/
def State.reference (s : State) (n k a : Nat) (r : Piece) : Acc (List Byte × State) :=
  match (s.cluster k).refs.find? (·.1 == a) with
  | some e => .ok (s.cmRead k (refAddr e.2.1) e.2.2, s)
  | none =>
    let frames := r.frame % max 1 r.keyInt
    match s.decodeChain n a frames [] with
    | .bad c q => .bad c q
    | .wait c => .wait c
    | .ok raw =>
      .ok (raw, (s.decoded k ((frames + 1) * r.blocks)).modCluster k fun c => { c with
        refMisses := satAdd 16 c.refMisses 1, redecoded := satAdd 16 c.redecoded (frames + 1) })

/-- The raw bytes of a stored piece, read by cluster `k`'s codec. -/
def State.getStored (s : State) (n k a : Nat) (r : Piece) : Acc (List Byte × State) :=
  match s.devRead n .codec .newest r.addr r.storedLen with
  | .bad c q => .bad c q
  | .wait c => .wait c
  | .ok bs =>
    if r.disp != 2 then .ok (r.raw (r.stored bs), s.decoded k r.blocks)
    else if r.key then
      let raw := r.recon bs []
      .ok (raw, (s.decoded k r.blocks).keepRef k a raw)
    else match s.readPiece n (a - 64) with
      | .bad c q => .bad c q
      | .wait c => .wait c
      | .ok p => match s.reference n k (a - 64) p with
        | .bad c q => .bad c q
        | .wait c => .wait c
        | .ok (prev, s) =>
          let raw := r.recon bs (p.values prev)
          .ok (raw, (s.decoded k r.blocks).keepRef k a raw)

/-! ### Faults (R196) -/

/-- A put whose record is in state 1 counts in the segment that it names (R205). -/
def Issued.putCounts (i : Issued) : Bool :=
  !Scl.get i.desc && dType i.desc == tyScroll && (Scl.disp i.desc == 3 || (Scl.disp i.desc == 1 && Scl.droppable i.desc))
    && [Work.scroll .room, .scroll .chain, .scroll .started, .scroll .recorded].contains i.work

/-- A put that ends without its piece counts no longer in its segment (R205). -/
def State.uncountPut (s : State) (g serial : Nat) : State :=
  match (s.core g).issued.find? (·.serial == serial) with
  | some i => if i.putCounts then s.countPiece (s.core g).part (Scl.seg i.desc) false else s
  | none => s

/-- A record goes to state 5, and the bytes that only its chain needed are given up (R172, R196). -/
def State.failPiece (s : State) (n a : Nat) : State :=
  match s.recordIndex n a with
  | some _ => (s.hubWrite n 4 .codec a (toLE 1 5)).sweepChain n a
  | none => s

/-- A directive stops its core: the Scroll's own record, the piece's record, and the sequencer fault. -/
def State.scrollFault (s : State) (g serial index cause a : Nat) : State :=
  let n := (s.core g).part
  let (s, idx) := match s.recordIndex n a with
    | some i => (s, i)
    | none => let (k, s) := s.draw; (s, (Config.value k).toNat % 2 ^ 32)
  let s := { s with scr := { s.scr with err := match s.scr.err with
    | some e => some e
    | none => some (cause, n, g, idx) } }
  let s := (s.failPiece n a).uncountPut g serial
  let s := s.modCore g fun k => { k with issued := k.issued.filter (·.serial != serial) }
  let s := s.modScr n fun q => { q with replays := q.replays.filter fun r => !(r.requester == g && r.serial == serial) }
  s.seqFault g (if cause = 4 then 9 else 3) tyScroll index

/-- An issued directive leaves the core with a sequencer fault that is not the Scroll's own. -/
def State.leaveFault (s : State) (g : Nat) (i : Issued) (cause : Nat) : State :=
  ((s.uncountPut g i.serial).modCore g fun k => { k with issued := k.issued.filter (·.serial != i.serial) }).seqFault g cause tyScroll
    i.index

/-- A translation refuses an access of a directive (R229): as a fault of its core. -/
def State.scrollAccess (s : State) (g serial index a addr : Nat) (poison : Bool) : State :=
  let n := (s.core g).part
  if poison then (s.noteFault n 4 addr true).scrollFault g serial index 4 a
  else
    let s := s.noteFault n 4 addr false
    let s := (s.failPiece n a).uncountPut g serial
    let s := s.modCore g fun k => { k with issued := k.issued.filter (·.serial != serial) }
    s.seqFault g 3 tyScroll index

/-! ### Reference-slot count (R182, R197) -/

/-- Whether a DELTA directive is in progress in a cluster. -/
def State.deltaRuns (s : State) (k : Nat) : Bool :=
  (rangeFrom (8 * k) 8).any fun g => (s.core g).issued.any fun i => dType i.desc == tyScroll && Scl.disp i.desc == 2

/-- SCR_REF_CFG takes effect when no DELTA directive is in progress in the cluster. -/
def State.settleRefs (s : State) (k : Nat) : State :=
  if (s.cluster k).refCfg = (s.cluster k).refSlots || s.deltaRuns k then s
  else s.modCluster k fun c => { c with refSlots := c.refCfg, refs := c.refs.filter fun e => decide (e.2.1 < c.refCfg) }

/-! ### Puts (R167, R169, R180) -/

/-- The record that a put writes, but for its state and where its bytes lie. -/
def putRecord (i : Issued) (old : Piece) (step : Nat) : Piece :=
  let d := i.desc
  { old with
    flags := 0, tensor := Scl.tensor d, frame := Scl.frame d, seg := Scl.seg d, src := Scl.srcFmt d
    store := Scl.storeFmt d, disp := Scl.disp d, compiled := Scl.disp d, droppable := Scl.droppable d, budget := Scl.budget d
    keyInt := Scl.keyInt d, seed := (i.regs.getD (Scl.seedReg d) 0).toNat, rawLen := Scl.length d, storedLen := 0, addr := 0
    tier := 0, step := step % 2 ^ 32, usesLeft := old.uses }

/-- A piece's segment counts it, once: when a put that waits writes its record, or when the put completes (R205). -/
def State.countPut (s : State) (n g serial : Nat) (r : Piece) : State :=
  let counted := ((s.core g).issued.find? (·.serial == serial)).any Issued.putCounts
  if r.names && !counted then s.countPiece n r.seg true else s

/-- A piece joins the directory's list. -/
def State.putDone (s : State) (n c g a serial : Nat) (r : Piece) : State :=
  let s := (s.putPiece n a r).modScr n fun q => { q with pieces := q.pieces ++ [(a, c)] }
  (s.countPut n g serial r).complete g serial

/-- A put that cannot go on waits, and its record is in state 1. -/
def State.putWaits_ (s : State) (n a g serial : Nat) (r : Piece) (ph : ScrollPhase) : State :=
  ((s.putPiece n a { r with state := 1 }).countPut n g serial r).setWork g serial (.scroll ph)

/-- The bytes of a put go to their place (R173, R174, R186). -/
def State.putBytes (s : State) (n c g serial index a : Nat) (r : Piece) (bs : List Byte) (fin : State → State) : State :=
  match s.placePut n (clusterOf g) r.pref r.droppable a bs.length (s.scrPart n).pieces.length with
  | none => s.putWaits_ n a g serial r .room
  | some (w, tier, t) =>
    match t.devWrite n .codec w bs with
    | .wait _ => (s.putWaits_ n a g serial r .started).countDrains g serial [(w, bs.length)]
    | .bad q p => (t.noteFault n 4 q p).scrollFault g serial index 6 a
    | .ok t =>
      let second := decide (4 ≤ tier) && r.pref != 2
      let t := if second && (s.scrPart n).level == 1 then
          t.modScr n fun q => { q with redirected := satAdd 24 q.redirected 1 }
        else t
      let key := r.disp == 2 && r.key
      fin (t.putDone n c g a serial { r with
        state := 2, flags := r.flags + (if second then 2 else 0) + (if key then 4 else 0)
        storedLen := bs.length, addr := w, tier := tier })

/-- A put is carried out as far as it can be. One that has begun does not look at the record before it again (R180). It writes its
record last, and nothing before the record can be written, so that it completes with the bytes and the record in memory (R169). -/
def State.tryPut (s : State) (g : Nat) (i : Issued) : State :=
  let begun := i.work == .scroll .room || i.work == .scroll .started
  let wait : ScrollPhase := if begun then .started else .recorded
  let k := s.core g
  let n := k.part
  let a := Scl.dev i.desc
  match k.ctx, k.ctx.bind (s.ctx n ·) with
  | some c, some x =>
    match s.readPiece n a, s.recordCheck n a with
    | .bad q p, _ | _, .bad q p => s.scrollAccess g i.serial i.index a q p
    | .wait _, _ | _, .wait _ => s.countDrains g i.serial [(a, 64)]
    | .ok old, .ok () =>
      if s.chainAway a then s else
      let s := (if (s.scrPart n).live a then s.releasePiece n a else s).dropRefs a
      let r := putRecord i old x.step.toNat
      if !s.scr.enable then s.putWaits_ n a g i.serial r wait
      else match Scl.disp i.desc with
      | 0 => s.putDone n c g a i.serial { r with state := 4 }
      | 3 => s.putDone n c g a i.serial { r with state := 3 }
      | 1 =>
        if (s.scrPart n).level = 2 && r.droppable then
          (s.modScr n fun q => { q with demoted := satAdd 24 q.demoted 1 }).putDone n c g a i.serial
            { r with state := 3, flags := 9, disp := 3 }
        else if old.pref = 3 then s.leaveFault g i 1
        else
          let (bs, nf, miss) := r.storeBytes (r.values (s.spRead g (64 * Scl.sp i.desc) (64 * r.rawLen)))
          s.putBytes n c g i.serial i.index a r bs fun t => t.coded (clusterOf g) r.blocks nf miss
      | _ =>
        if old.pref = 3 then s.leaveFault g i 1
        else
          let x := r.values (s.spRead g (64 * Scl.sp i.desc) (64 * r.rawLen))
          let cl := clusterOf g
          if r.key then
            let (bl, nf, miss) := r.sbf x none
            let bs := bl.flatMap SbfBlock.encode
            s.putBytes n c g i.serial i.index a r bs fun t => (t.coded cl r.blocks nf miss).keepRef cl a (r.recon bs [])
          else match s.readPiece n (a - 64) with
            | .bad q p => s.scrollAccess g i.serial i.index a q p
            | .wait _ => s.putWaits_ n a g i.serial r wait
            | .ok p =>
              if !begun && ((s.recordIndex n (a - 64)).isNone || (p.frame + 1) % 2 ^ 32 != r.frame || !(p.state == 1 || p.state == 2)) then
                s.scrollFault g i.serial i.index 3 a
              else if !begun && p.state == 1 then s.putWaits_ n a g i.serial r .chain
              else match s.reference n cl (a - 64) p with
                | .bad q p => s.scrollAccess g i.serial i.index a q p
                | .wait _ => s.putWaits_ n a g i.serial r wait
                | .ok (prev, s) =>
                  let pv := p.values prev
                  let res := (x.zip (List.range x.length)).map fun (v, j) => rne32 (v.sub (pv.getD j .zero))
                  let (bl, nf, miss) := r.sbf res (some ((groups64 x.length x).map sbfExp))
                  let bs := bl.flatMap SbfBlock.encode
                  s.putBytes n c g i.serial i.index a r bs fun t => (t.coded cl r.blocks nf miss).keepRef cl a (r.recon bs pv)
  | _, _ => s

/-! ### Gets (R167, R169, R190, R194) -/

/-- A get counts as a use; the last one releases the piece (R172). -/
def State.usePiece (s : State) (n a : Nat) : State :=
  match s.readPiece n a with
  | .ok r =>
    if r.usesLeft = 0 then s
    else if r.usesLeft = 1 then (s.putPiece n a { r with usesLeft := 0 }).releasePiece n a
    else s.putPiece n a { r with usesLeft := r.usesLeft - 1 }
  | _ => s

/-- The helper of a replay: the lowest core of the requester's partition on its die whose sequencer is in state 0 or 2 and
runs no replay; without one, the requester (R190). -/
def State.pickHelper (s : State) (n g : Nat) : Nat :=
  ((rangeFrom (64 * dieOf g) 64).find? fun h => s.coreIn n h && ((s.core h).state == .idle || (s.core h).state == .waiting)
    && !s.helping h).getD g

/-- A get waits for the replay of its piece (R190). -/
def State.askReplay (s : State) (n g : Nat) (i : Issued) : State :=
  let h := s.pickHelper n g
  (s.setWork g i.serial (.scroll .replay)).modScr n fun q => { q with
    replays := q.replays ++ [{ requester := g, serial := i.serial, record := Scl.dev i.desc, helper := some h }] }

/-- A get is carried out as far as it can be. -/
def State.tryGet (s : State) (g : Nat) (i : Issued) : State :=
  let n := (s.core g).part
  let a := Scl.dev i.desc
  if !s.scr.enable || s.chainAway a then s.setWork g i.serial (.scroll .held)
  else match s.readPiece n a with
  | .bad q p => s.scrollAccess g i.serial i.index a q p
  | .wait _ => s.setWork g i.serial (.scroll .held)
  | .ok r =>
    match r.state with
    | 1 => s.setWork g i.serial (.scroll .putOf)
    | 4 => (s.usePiece n a).complete g i.serial
    | 3 => s.askReplay n g i
    | 2 =>
      match s.getStored n (clusterOf g) a r with
      | .wait _ => s.setWork g i.serial (.scroll .held)
      | .bad q p =>
        if p && r.droppable && r.compiled = 1 then
          ((s.noteFault n 4 q p).modScr n fun q => { q with poisonReplays := satAdd 16 q.poisonReplays 1 }).askReplay n g i
        else s.scrollAccess g i.serial i.index a q p
      | .ok (raw, t) =>
        if 2 ^ 22 < 64 * Scl.sp i.desc + raw.length then
          s.leaveFault g i 3
        else ((t.spWrite g (64 * Scl.sp i.desc) raw).usePiece n a).complete g i.serial
    | _ => s.scrollFault g i.serial i.index 2 a

/-- The SCROLL directives that the codec of a core's cluster has to carry out (R94). -/
def State.scrollLoad (s : State) (g : Nat) : Nat :=
  ((rangeFrom (8 * clusterOf g) 8).map fun h => (s.core h).outstanding tyScroll).sum

/-- The checks of a SCROLL at issue (R99, R104, R111, R168, R91), and then its first attempt. -/
def State.issueScroll (s : State) (g d : Nat) (err : ReadError) : State :=
  let k := s.core g
  let a := Scl.dev d
  match s.headerFault g d with
  | some c => s.seqFault g c tyScroll k.pc
  | none =>
    if !scrollFormats d then s.seqFault g 1 tyScroll k.pc
    else if Scl.length d = 0 || 4096 < Scl.length d || (s.recordIndex k.part a).isNone then
      s.scrollFault g k.serial k.pc 1 a
    else if 0x10000 < Scl.sp d + Scl.length d then s.seqFault g 3 tyScroll k.pc
    else if s.meetsProgram k.part a 64 then s.seqFault g 4 tyScroll k.pc
    else s.onDieRead g g (clusterOf g) tyScroll k.pc (!Scl.get d) (Scl.get d || Scl.disp d == 2) true err fun s =>
      let s := (s.issue g d (.scroll .held)).lookups g a 64
      let s := match (s.core g).issued.find? (·.serial == k.serial) with
        | some i => if Scl.get d then s.tryGet g i else s.tryPut g i
        | none => s
      s.settleRefs (clusterOf g)

/-- SCROLL_PUT: a put keeps, stores, delta-codes or drops a piece, or waits (R167, R169, R186). -/
def execScrollPut (g : Nat) (err : ReadError) (s : State) : Host.Outcome State Fault Refusal :=
  if s.dieOff (dieOf g) then .next s else
  match s.gate g (fun d => dType d == tyScroll && !Scl.get d) false (s.scrollLoad g) 8 with
  | .stay s => .next s
  | .go d => .next (s.issueScroll g (applyOffsets d (s.core g).sq) err)

/-- SCROLL_GET: a get brings a piece back, asks for its replay, or waits (R167, R169, R170). -/
def execScrollGet (g : Nat) (err : ReadError) (s : State) : Host.Outcome State Fault Refusal :=
  if s.dieOff (dieOf g) then .next s else
  match s.gate g (fun d => dType d == tyScroll && Scl.get d) false (s.scrollLoad g) 8 with
  | .stay s => .next s
  | .go d => .next (s.issueScroll g (applyOffsets d (s.core g).sq) err)

/-- SCROLL_PUT_CONTINUE: a directive that waited for room, for its predecessor, for its put or for a page is tried again (R169,
R170, R180, R186). -/
def execScrollPutContinue (g i : Nat) (s : State) : Host.Outcome State Fault Refusal :=
  if s.dieOff (dieOf g) then .next s else
  match (s.core g).issued.find? (·.serial == i) with
  | none => .next s
  | some x =>
    match x.work with
    | .scroll .replay => .next s
    | .scroll _ => .next (((if Scl.get x.desc then s.tryGet g x else s.tryPut g x).settleRefs (clusterOf g)).settleBridges)
    | _ => .next s

/-! ### The directory's own moves (R183 to R185, R231) -/

/-- The next_use fields of the pieces in a page. -/
def State.nextUses (s : State) (n : Nat) (p : ScrPage) : List Nat :=
  p.pieces.filterMap fun a => match s.readPiece n a with
    | .ok r => some r.nextUse
    | _ => none

/-- A page that may be moved: in state 00, not pinned, no line of it with the host, and no get of a piece in it in progress (R184). -/
def State.movable (s : State) (p : ScrPage) : Bool :=
  let e := s.entry p.page
  eValid e && eState e == 0 && !ePinned e && !eDrain e && !s.frt.pageSnooped p.page
    && !p.pieces.any fun a => s.getRuns (ePart e) a

/-- A move of a Scroll page begins: the entry keeps its source frame in state 01 (R231). -/
def State.beginMove (s : State) (n x tier : Nat) : State :=
  if !s.quotaRoom n tier then s
  else match s.scrFrame n tier with
    | none => s
    | some (f, s) =>
      let s := s.setEntry x (setField (s.entry x) 59 58 1)
      let s := s.modScr n fun q => { q with pages := q.pages.map fun p => if p.page = x then { p with open_ := false } else p }
      s.modFrt fun r => { r with moves := r.moves ++ [{ page := x, tier := tier, frame := f }] }

/-- Pages of a kind of tier that are on their way out of it. -/
def State.leaving (s : State) (n : Nat) (hbm : Bool) : Nat :=
  ((s.scrPart n).pages.filter fun p => decide (p.tier < 4) == hbm && s.frt.moves.any fun m =>
    m.page == p.page && decide (m.tier < 4) != hbm).length

/-- SCROLL_MIGRATE: at level 1, while HBM3E occupancy exceeds hbm_low, the page whose largest next_use is highest moves to the
second tier (R183). -/
def execScrollMigrate (n : Nat) (s : State) : Host.Outcome State Fault Refusal :=
  if s.off then .next s else
  let q := s.scrPart n
  if q.level != 1 || 256 * (q.hbmPages - s.leaving n true) ≤ q.hbmLow * q.quotaHbm then .next s
  else
    let best := (q.pages.filter fun p => decide (p.tier < 4) && s.movable p).foldl (fun (b : Option (Nat × ScrPage)) p =>
      let u := (s.nextUses n p).foldl max 0
      match b with
      | some (v, _) => if u > v then some (u, p) else b
      | none => some (u, p)) none
    let s := s.notePieces n ((q.pages.filter fun p => decide (p.tier < 4) && s.movable p).flatMap (·.pieces))
    match best with
    | none => .next s
    | some (_, p) => .next (s.beginMove n p.page s.secondTier)

/-- SCROLL_PROMOTE: with promote_en at level 0, while HBM3E occupancy is below hbm_low, the page whose smallest next_use is
lowest moves back to HBM3E (R185). -/
def execScrollPromote (n : Nat) (s : State) : Host.Outcome State Fault Refusal :=
  if s.off then .next s else
  let q := s.scrPart n
  if !s.scr.promote || q.level != 0 || q.hbmLow * q.quotaHbm ≤ 256 * (q.hbmPages + s.leaving n false) then .next s
  else
    let best := (q.pages.filter fun p => decide (4 ≤ p.tier) && s.movable p).foldl (fun (b : Option (Nat × ScrPage)) p =>
      let u := (s.nextUses n p).foldl min (2 ^ 32)
      match b with
      | some (v, _) => if u < v then some (u, p) else b
      | none => some (u, p)) none
    let s := s.notePieces n ((q.pages.filter fun p => decide (4 ≤ p.tier) && s.movable p).flatMap (·.pieces))
    match best with
    | none => .next s
    | some (_, p) => .next (s.beginMove n p.page (if s.tierFree (p.cluster / 8) = 0 then s.freestDie else p.cluster / 8))

/-- SCROLL_DEMOTE: at level 2, while the second tier exceeds sec_low, the droppable stored piece of the highest next_use is
demoted (R183, R184). -/
def execScrollDemote (n : Nat) (s : State) : Host.Outcome State Fault Refusal :=
  if s.off then .next s else
  let q := s.scrPart n
  let beyond := if q.quotaSec = 0 then decide (q.hbmLow * q.quotaHbm < 256 * q.hbmPages)
    else decide (q.secLow * q.quotaSec < 256 * q.secPages)
  if q.level != 2 || !beyond then .next s
  else
    let t := s.notePieces n (q.pieces.map (·.1))
    match s.nextDemotion n with
    | none => .next t
    | some (a, r) => .next (t.demote n a r)

/-- How the copy of a move to a frame ends: it has failed in the source where the page is poisoned by then, and in the destination
where the pool of that frame has failed (R232, R240, R243). -/
def State.moveEnd (s : State) (m : PageMove) (result : MoveResult) : MoveResult :=
  if result == .sourceFailed || s.pagePoisoned m.page then .sourceFailed
  else if m.tier ≤ 4 && !(s.pool (poolOf m.tier m.frame)).live then .destinationFailed
  else result

/-- PAGE_MOVE_COMPLETE: the copy of a Scroll page ends: the entry takes its destination, or state 11 where the copy failed
(R231). Writes that waited for the page follow. A copy from or to host memory waits while the host does not answer (R244). -/
def execPageMoveComplete (x : Nat) (result : MoveResult) (s : State) : Host.Outcome State Fault Refusal :=
  if s.off then .next s else
  match s.frt.moves.find? (·.page == x) with
  | none => .next s
  | some m =>
    let e := s.entry x
    let n := ePart e
    let records := ((s.scrPart n).pages.find? (·.page == x)).elim [] (·.pieces)
    if s.frt.silent && (eTier e == 5 || m.tier == 5 || records.any s.chainAway) then .next s else
    let how := s.moveEnd m result
    let s := s.modFrt fun f => { f with moves := f.moves.filter (·.page != x) }
    let dest := mkEntry m.tier 0 n (eShare e) (eVersion e) 0xA (ePinned e) false true m.frame
    let moved := fun (s : State) => s.modScr n fun q => { q with
      pages := q.pages.map fun p => if p.page = x then { p with tier := m.tier } else p }
    match how with
    | .sourceFailed =>
      let s := (s.scrFreeFrame n dest).poisonPage x
      .next (s.retireFrame (eTier e) (eFrame e)).flushLate
    | .destinationFailed =>
      let s := s.scrFreeFrame n (setField e 59 58 0)
      .next (((moved ((s.setEntry x dest).poisonPage x)).scrLevel n).flushLate)
    | .done =>
      let bs := s.mems.readLoc (locate (eTier e) (eFrame e) 0) pageBytes
      let s := s.modMems fun q => q.writeLoc (locate m.tier m.frame 0) bs
      let s := (s.setEntry x dest).scrFreeFrame n (setField e 59 58 0)
      let s := records.foldl (fun (s : State) a => match s.readPiece n a with
        | .ok r => if pageOf r.addr = x then s.putPiece n a { r with tier := m.tier } else s
        | r => s.noteBad n 4 r) s
      .next (((moved (s.modScr n fun q => { q with migrated := satAdd 16 q.migrated 1 })).scrLevel n).flushLate)

/-! ### Replays (R188 to R194) -/

/-- What a replay needs: the helper, the partition, the requester's program, the register bank, the version selector and the
piece. -/
structure Replay where
  helper : Nat
  part : Nat
  base : Nat
  bank : List W64
  sel : Sel
  record : Nat
  piece : Piece
  deriving Repr

/-- Why a replay fails (R193, R194, R196): a translation that refused, as FRT_FAULT_INFO records it (R229): source, address and
poison; whether a piece of its own would have had to be replayed for the poison; and whether a get found a record empty or faulted
(R170). -/
structure ReplayFault where
  access : Option (Nat × Nat × Bool) := none
  inner : Bool := false
  empty : Bool := false
  deriving DecidableEq, Repr

/-- How a replay, or a descriptor of it, ends: a failed one with what it has run. -/
inductive Replayed where
  | go (s : State)
  | deliver (s : State) (v : List Byte)
  | wait
  | fail (s : State) (f : ReplayFault)
  deriving DecidableEq, Repr

/-- A streaming tile of a replay spills until its last segment. `k` bounds the segments. -/
def State.spillAll (s : State) (g serial pass : Nat) : Nat → State
  | 0 => s
  | k + 1 =>
    let q := s.core g
    match q.tiles.find? fun t => t.serial == serial && t.pass == pass && t.phase == .streaming && !t.lastSegment with
    | none => s
    | some t => match q.freeUnits t.engine t.desc (s.classF g) with
      | none => s
      | some us => (s.spill g t us).spillAll g serial pass k

/-- One pass of a tile runs whole on an engine that is free. -/
def State.passNow (s : State) (g : Nat) (t : TileRun) : State :=
  let s := (s.modCore g fun k => { k with tiles := k.tiles ++ [t] }).startOn g 0 t
  let s := s.spillAll g t.serial t.pass (T.steps t.desc)
  let mine := fun (u : TileRun) => u.serial == t.serial && u.pass == t.pass
  let s := match (s.core g).tiles.find? mine with
    | some u => s.drainTile g u
    | none => s
  match (s.core g).tiles.find? fun u => mine u && u.phase == .drained with
  | some u => (runEpilogue s g u).endTile g u
  | none => s

/-- A TILE of a replay. -/
def State.tileNow (s : State) (g d : Nat) (bank : List W64) : Option State :=
  let k := s.core g
  let tok := T.tokCtr d
  let ref := ownDie g (tok % 2 ^ 15)
  let count := (s.counter ref).toNat
  if (tileFaultCause d (s.classF g) false k.normOwner k.slotOpen).isSome then none
  else if tok != 0xFFFF && !s.clusterIn k.part (counterCluster ref) then none
  else if T.m d = 0 || T.n d = 0 then some (s.modCore g fun k => { k with empty := wrapAdd 16 k.empty 1 })
  else if !tileInRange d 0 (T.m d) (T.aAddr d, T.aStride d) (T.outAddr d, T.outStride d) then none
  else if tok != 0xFFFF && count ≤ T.rowBase d then
    some (s.modCore g fun k => { k with suppressed := wrapAdd 16 k.suppressed 1 })
  else
    let m := if tok = 0xFFFF then T.m d else min (T.m d) (count - T.rowBase d)
    let t : TileRun := { serial := k.serial, index := 0, desc := d, seed := bank.getD (T.seedReg d) 0, m := m }
    let s := (tileRuns t).foldl (fun (s : State) t => s.passNow g t) s
    some (s.modCore g fun k => { k with slotOpen := slotsAfter d k.slotOpen, serial := k.serial + 1 })

/-- The piece that a replay has recomputed, requantised where its store was demoted (R191). -/
def Piece.requantise (r : Piece) (v : List Byte) : List Byte :=
  r.raw (r.stored (r.storeBytes (r.values v)).1)

/-- One descriptor of a replay, its irq and done_en ignored (R111, R191). -/
def State.replayOne (s : State) (e : Replay) (d0 : Nat) : Replayed :=
  let h := e.helper
  let d := applyOffsets d0 e.bank
  if dType d = tyTile then
    if dTemplate d0 then .go s
    else match s.tileNow h d e.bank with
      | some s => .go s
      | none => .fail s {}
  else if dType d = tyVec then
    if (vecFault d).isSome then .fail s {} else .go (runVec s h d e.bank)
  else if dType d = tyMove then
    let mine := M.dstSpace d == 0 || (M.dstSpace d == 3 && 64 * dieOf h + field (M.dst d) 27 22 == h)
    if !mine then .go s
    else if (s.moveFault h e.part d e.sel).isSome then .fail s {}
    else match s.runMove h e.part d e.sel with
      | .done s => .go s
      | .wait => .wait
      | .fault cause a q => .fail s { access := if cause = 4 then none else some (dieOf h, a, q) }
  else if dType d = tyScroll then
    if !Scl.get d then
      if Scl.dev d != e.record then .go s
      else if 0x10000 < Scl.sp d + Scl.length d then .fail s {}
      else
        let v := s.spRead h (64 * Scl.sp d) (64 * Scl.length d)
        let re := bit e.piece.flags 3 || e.piece.state == 2
        let cl := clusterOf h
        let (_, nf, miss) := e.piece.storeBytes (e.piece.values v)
        .deliver (if re then (s.coded cl e.piece.blocks nf miss).decoded cl e.piece.blocks else s)
          (if re then e.piece.requantise v else v)
    else match s.readPiece e.part (Scl.dev d) with
      | .bad a q => .fail s { access := some (4, a, q) }
      | .wait _ => .wait
      | .ok r =>
        match r.state with
        | 1 => .wait
        | 4 => .go s
        | 2 => match s.getStored e.part (clusterOf h) (Scl.dev d) r with
          | .wait _ => .wait
          | .bad a q => .fail s { access := some (4, a, q), inner := q && r.droppable && r.compiled == 1 }
          | .ok (raw, s) => if 2 ^ 22 < 64 * Scl.sp d + raw.length then .fail s {} else .go (s.spWrite h (64 * Scl.sp d) raw)
        | 0 | 5 => .fail s { empty := true }
        | _ => .fail s {}
  else .fail s {}

/-- The descriptors of a segment in order, until the piece is delivered. `k` of them remain. -/
def State.replayFrom (s : State) (e : Replay) : Nat → Nat → Replayed
  | 0, _ => .fail s {}
  | k + 1, i =>
    match s.devRead e.part .plain .newest (e.base + 64 * i) 64 with
    | .bad a q => .fail s { access := some (dieOf e.helper, a, q) }
    | .wait _ => .wait
    | .ok bs => match s.replayOne e (ofLE bs) with
      | .go s => s.replayFrom e k (i + 1)
      | r => r

/-- A replay of a piece for a requester, on a helper whose engines are free. DESIGN CHOICE: the segment's begin and end count in the
program of the requester (log 184). -/
def State.replay (s : State) (n h c record : Nat) (x : Ctx) : Replayed :=
  match s.readPiece n record with
  | .bad a q => .fail s { access := some (4, a, q) }
  | .wait _ => .wait
  | .ok r =>
    match s.segAddr n r.seg with
    | none => .fail s {}
    | some a => match s.devRead n .plain .newest a 256 with
      | .bad b q => .fail s { access := some (4, b, q) }
      | .wait _ => .wait
      | .ok b =>
        let lo := leAt b 4 4
        let hi := leAt b 8 4
        if leAt b 14 1 != 2 then .fail s {}
        else
          let regs := (List.range 16).map fun i => BitVec.ofNat 64 (leAt b (0x80 + 8 * i) 8)
          let e : Replay := { helper := h, part := n, base := (s.core c).base, bank := regs.set 15 (BitVec.ofNat 64 x.replayBase)
                              sel := match selectorOf (BitVec.ofNat 64 (leAt b 0x20 1)) with
                                | some v => .version v
                                | none => .newest
                              record := record, piece := r }
          s.replayFrom e (hi - lo - 1) (lo + 1)

/-- A replay is over for its requester. -/
def State.endReplay (s : State) (n g serial : Nat) : State :=
  s.modScr n fun q => { q with replays := q.replays.filter fun r => !(r.requester == g && r.serial == serial) }

/-- A replay stops its requester (R193, R194, R196): with the Scroll's cause 4 for a poisoned page, or an on-die word that nothing
mends, that no replay mends (R235, R236); with cause 2 for a get of an empty or faulted record (R170), and with cause 5 otherwise, and where a piece read inside it would have to
be replayed. -/
def State.replayFails (s : State) (n : Nat) (r : ReplayRun) (index : Nat) (hard : Bool) (f : ReplayFault) : State :=
  let poison := hard || (!f.inner && f.access.any fun (e : Nat × Nat × Bool) => e.2.2)
  let s := match f.access with
    | some (source, a, q) => s.noteFault n source a q
    | none => s
  let s := if f.inner then s.modScr n fun q => { q with poisonReplays := satAdd 16 q.poisonReplays 1 } else s
  (s.endReplay n r.requester r.serial).scrollFault r.requester r.serial index (if poison then 4 else if f.empty then 2 else 5) r.record

/-- A replay leaves its helper: the sequencer stands as it did, with what the replay's tiles have counted, and issues an abandoned WAIT
again (R190). -/
def State.leaveHelper (s : State) (h : Nat) (k0 : Core) : State :=
  (s.waitedCycles h).modCore h fun k => { k with
    part := k0.part, issued := k0.issued, tiles := k0.tiles, slotOpen := k0.slotOpen, serial := k0.serial
    wait := none
    pc := match k0.wait with
      | some w => w.index
      | none => k0.pc
    state := if k0.wait.isSome then .issuing else k0.state }

/-- A replay's wait for its helper's units is counted, once (R309). -/
def State.replayWaits (s : State) (n : Nat) (r : ReplayRun) : State :=
  if r.waited then s
  else
    let s := s.modScr n fun q => { q with replays := q.replays.map fun x => if x = r then { x with waited := true } else x }
    s.modPart n fun p => { p with xcoreWaits := satAdd 16 p.xcoreWaits 1 }

/-- REPLAY_ENTRY: a helper enters the first replay that waits for it, between two descriptors, runs the segment with a bank of
its own, and delivers the piece; an abandoned WAIT is issued again (R189 to R193). It enters once its engines and its vector
unit are free, and once its replay area holds no other context's data (R309). -/
def execReplayEntry (c : CoreRead) (s : State) : Host.Outcome State Fault Refusal :=
  let h := c.core
  if s.dieOff (dieOf h) then .next s else
  let found := s.scr.parts.findSome? fun e => (e.2.replays.find? (·.helper == some h)).map fun r => (e.1, r)
  match found with
  | none => .next s
  | some (n, r) =>
    let k0 := s.core h
    let req := s.core r.requester
    match req.issued.find? (fun i => i.serial == r.serial && i.work == .scroll .replay), req.ctx.bind (s.ctx n ·) with
    | some i, some x =>
      if !k0.tiles.isEmpty || k0.updating || !k0.gatherOpen.isEmpty || !k0.gatherWait.isEmpty then .next s
      else if req.ctx.any fun c => s.unitsAway n c h x.replayBase x.replayUnits then .next (s.replayWaits n r)
      else
        let (s, hard) := s.readMet h (clusterOf h) true true true c.err
        if hard then .next ((s.replayFails n r i.index true {}).settle h)
        else
        let s1 := s.modCore h fun k => { k with part := n, issued := [] }
        match s1.replay n h r.requester r.record x with
        | .wait => .next s
        | .go t => .next (((t.leaveHelper h k0).replayFails n r i.index false {}).settle h)
        | .fail t f => .next (((t.leaveHelper h k0).replayFails n r i.index false f).settle h)
        | .deliver t v =>
          let t := (t.leaveHelper h k0).endReplay n r.requester r.serial
          let t := t.modScr n fun q => { q with
            replayCnt := wrapAdd 32 q.replayCnt 1
            selfHelped := if h = r.requester then satAdd 16 q.selfHelped 1 else q.selfHelped }
          if 2 ^ 22 < 64 * Scl.sp i.desc + v.length then
            .next (t.leaveFault r.requester i 3)
          else
            let t := (t.spWrite r.requester (64 * Scl.sp i.desc) v).usePiece n r.record
            .next ((t.complete r.requester r.serial).settle h)
    | _, _ => .next ((s.endReplay n r.requester r.serial).settle h)

/-! ### The Scroll at a step's end, an abandon and a reset (R172, R196, R313) -/

/-- Whether a release of a context's pieces waits for the host (R172, R244). -/
def State.scrAway (s : State) (n c : Nat) : Bool := (s.scrPart n).pieces.any fun e => e.2 == c && s.chainAway e.1

/-- STEP_END releases the pieces that the context put in the step (R172). -/
def State.scrStepEnd (s : State) (n c : Nat) (step : W64) : State :=
  ((s.scrPart n).pieces.filter fun e => e.2 == c).foldl (fun (s : State) e =>
    match s.readPiece n e.1 with
    | .ok r => if r.step = step.toNat % 2 ^ 32 then s.releasePiece n e.1 else s
    | _ => s.releasePiece n e.1) s

/-- The puts of a core that wait for room are cancelled, and their records go to state 5 (R313). -/
def State.scrCancel (s : State) (g : Nat) : State :=
  let k := s.core g
  let is := k.issued.filter fun i => i.work == .scroll .room
  let s := is.foldl (fun (s : State) i => (s.failPiece k.part (Scl.dev i.desc)).uncountPut g i.serial) s
  if is.isEmpty then s
  else (s.modCore g fun k => { k with issued := k.issued.filter fun i => i.work != .scroll .room }).settleBridges

/-- A partition's Scroll is reset: pages return to their pools, and its registers and its codecs to their reset values
(R196, R197). -/
def State.scrReset (s : State) (n : Nat) : State :=
  let q := s.scrPart n
  let s := s.modScr n fun q => { q with pages := q.pages.map fun p => { p with pieces := [], demoted := false } }
  let s := q.pages.foldl (fun (s : State) p => s.closeEmpty n p.page) s
  let gone := (s.frt.entry.filter fun e => eValid e.2 && ePart e.2 == n && eTier e.2 == 6
    && inPages q.winBase q.winPages (e.1 * pageBytes)).map (·.1)
  let s := gone.foldl (fun (s : State) x => s.setEntry x 0) s
  let s := s.modScr n fun _ => {}
  (clustersOfMask (s.part n).gmask).foldl (fun (s : State) k => s.modCluster k fun c => { c with
    refCfg := 16, refSlots := 16, compressed := 0, decompressed := 0, refMisses := 0, redecoded := 0, budgetMiss := 0
    nonfinite := 0, refs := [] }) s

end Sys2Proof.Machine
end

