-- ==== Sys2Proof/Machine/Checkpoint.lean ====
section
/-! DEFINITION. Checkpoints (R364 to R370), their drains and commit records (R220, R411 to R414), their restoring (R370), and
Luthier's evaluations (R361 to R363). -/

namespace Sys2Proof.Machine

/-- The checkpoints and fills changed. -/
def State.modJobs (s : State) (f : Job → Job) : State := { s with jobs := f s.jobs }
/-- An open checkpoint changed. -/
def State.modCkpt (s : State) (n c : Nat) (f : Ckpt → Ckpt) : State :=
  s.modJobs fun j => { j with ckpts := j.ckpts.map fun k => if k.part = n && k.ctx = c then f k else k }

/-! ### Marks (R220, R366, R367) -/

/-- The buffer of a captured page is marked for drain, or its mark ends: a Resonator page that no sequence shares any more is then
free (R367). -/
def State.markDrain (s : State) (g : GenPage) (on : Bool) : State :=
  if !eValid (s.entry g.entry) then s
  else
    let s := s.setEntry g.entry (setField (s.entry g.entry) 36 36 (ofBool on))
    if on || g.kind != 1 then s else s.tryFree (ePart (s.entry g.entry)) g.entry

/-- The marks that a checkpoint still holds end. -/
def State.endMarks (s : State) (k : Ckpt) : State := k.todo.foldl (fun (s : State) g => s.markDrain g false) s

/-- Pages of a byte range. -/
def pagesOf (a n : Nat) : List Nat := rangeFrom (pageOf a) (if n = 0 then 0 else pageOf (a + n - 1) + 1 - pageOf a)

/-- Numbers in ascending order, each once. -/
def ascending (l : List Nat) : List Nat := (l.foldl (fun (t : Tab Unit) x => Tab.insert x () t) []).map (·.1)

/-- The capture of a checkpoint at a STEP_END (R220, R366): the schedule record is written, and the plain pages, the
Resonator pages, the newest versioned buffers and the schedule record are marked, in that order. -/
def State.capture (s : State) (n c : Nat) (k : Ckpt) : State :=
  match s.ctx n c with
  | none => s
  | some x =>
    let seqs := if bit (s.planFlags n) 0 then s.savedSeqs n c else []
    let rec_ := s.scheduleRecord n c x k.id seqs
    let a := s.planSched n
    let mine := fun (x : Nat) => eValid (s.entry x) && ePart (s.entry x) == n
    let plain := (pageRange (s.planPlain n) (s.planPlainPages n)).filter mine
    let res := if bit (s.planFlags n) 0 then (ascending (Tab.get [] (s.resPart n).views c)).filter mine else []
    let owned := (pageRange (s.planOwned n) (s.planOwnedPages n)).filter mine
    let sched := (pagesOf a rec_.length).filter mine
    let buffer := fun (y : Nat) => if s.inWindow n (y * pageBytes) then (s.versions n y).1 else y
    let todo : List GenPage := plain.map (fun y => { page := y, entry := y, kind := 0 })
      ++ res.map (fun y => { page := y, entry := y, kind := 1 })
      ++ owned.map (fun y => { page := y, entry := buffer y, kind := 2, version := eVersion (s.entry (buffer y)) })
      ++ sched.map (fun y => { page := y, entry := y, kind := 3 })
    let s := s.hubWrite n 9 .plain a rec_
    let s := todo.foldl (fun (s : State) g => s.markDrain g true) s
    let s := s.modCkpt n c fun k => { k with
      captured := true, step := x.step, todo := todo, sched := a, node := s.crs.nodeId }
    s.modJobs fun j => { j with captures := j.captures ++ [(n, c)] }

/-! ### The drain (R411, R412) -/

/-- The captured checkpoints that have not failed, in the order of capture. -/
def State.capturedCkpts (s : State) : List Ckpt :=
  s.jobs.captures.filterMap fun e => s.jobs.ckpts.find? fun k => k.part == e.1 && k.ctx == e.2 && k.failed.isNone
/-- A checkpoint's drain has finished. -/
def Ckpt.isDrained (k : Ckpt) : Bool := k.area.isSome && k.todo.isEmpty
/-- The checkpoint that the vault drains: the first captured one whose drain has not finished. -/
def State.drainingCkpt (s : State) : Option Ckpt := s.capturedCkpts.find? fun k => !k.isDrained
/-- The checkpoint whose commit record the vault writes: the first drained one that a CHECKPOINT_COMMIT, or the device itself, commits
(R363, R369). -/
def State.committingCkpt (s : State) : Option Ckpt :=
  s.capturedCkpts.find? fun k => k.isDrained && (k.auto || !k.cmds.isEmpty)

/-- Pages of a generation, in directory order. -/
def Ckpt.pages (k : Ckpt) : List GenPage := k.drained ++ k.todo
/-- Its directory (R411): one entry for each page; a schedule record's entry has the record's address. -/
def Ckpt.directory (k : Ckpt) : List Byte :=
  k.pages.flatMap fun g =>
    let a := if g.kind = 3 && g.page = pageOf k.sched then k.sched else g.page * pageBytes
    toLE 6 a ++ toLE 1 g.kind ++ toLE 1 g.version ++ toLE 4 1 ++ fill 4 0
/-- Directory bytes. -/
def Ckpt.dirBytes (k : Ckpt) : Nat := 16 * k.pages.length
/-- Data bytes. -/
def Ckpt.dataBytes (k : Ckpt) : Nat := pageBytes * k.pages.length

/-- The area that a checkpoint of a partition drains into: none of the partition's two newest generations and none of `used`, which
hold drains not yet committed; an empty one first, else the one of the smallest commit sequence (R412). -/
def Vault.pickArea (v : Vault) (n : Nat) (used : List Nat) : Option Nat :=
  let kept := v.keptAreas n ++ used
  let areas := (List.range v.areas).filter fun a => !kept.contains a
  match areas.find? fun a => (v.generation a).isNone with
  | some a => some a
  | none => (areas.filterMap v.generation).foldl (fun (best : Option GenInfo) g =>
      match best with
      | some b => if g.seq < b.seq then some g else best
      | none => some g) none |>.map (·.area)

/-- An automatic checkpoint ends: Luthier's events and LTH_SECURE (R363). -/
def State.autoEnds (s : State) (k : Ckpt) (ok : Bool) : State :=
  { s with lth := { s.lth with
    evCommitted := s.lth.evCommitted || ok, evFailed := s.lth.evFailed || !ok
    committed := ok, failed := !ok, part := k.part, id := k.id } }

/-- The vault drains a checkpoint no more. -/
def State.drainEnds (s : State) (k : Ckpt) : State :=
  if k.area.isSome && !k.todo.isEmpty then s.modVault fun v => { v with state := 0 } else s

/-- A checkpoint is closed, and every mark that it set ends (R369). -/
def State.closeCkpt (s : State) (k : Ckpt) : State :=
  let s := (s.endMarks k).drainEnds k
  s.modJobs fun j => { j with
    ckpts := j.ckpts.filter fun q => !(q.part == k.part && q.ctx == k.ctx)
    captures := j.captures.filter (· != (k.part, k.ctx)) }

/-- The CHECKPOINT_COMMITs of a checkpoint end with a status. -/
def State.endCommits (s : State) (k : Ckpt) (code : Nat) : State := k.cmds.foldl (fun (s : State) m => s.finish m code 0) s

/-- A checkpoint's drain cannot run or has stopped: marks end, and its COMMIT, or the automatic checkpoint, ends with the
status (R412, R413). -/
def State.failCkpt (s : State) (k : Ckpt) (code : Nat) : State :=
  if k.auto then ((s.closeCkpt k).endCommits k code).autoEnds k false
  else if k.orphan || !k.cmds.isEmpty then (s.closeCkpt k).endCommits k code
  else ((s.endMarks k).drainEnds k).modCkpt k.part k.ctx fun q => { q with failed := some code, todo := [], drained := [], area := none }

/-- The next captured checkpoint takes its area: its commit record is made invalid, and the directory is written. Checkpoints
that find none fail (R412). `j` bounds them. -/
def State.startDrain (s : State) : Nat → State
  | 0 => s
  | j + 1 =>
    match s.drainingCkpt with
    | none => s
    | some k =>
      if !s.vault.enable || k.area.isSome then s
      else match s.vault.pickArea k.part (s.jobs.ckpts.filterMap (·.area)) with
        | none => (s.failCkpt k stVaultFull).startDrain j
        | some a =>
          if s.vault.areaBytes < 0x1000 + k.dirBytes + k.dataBytes then (s.failCkpt k stVaultFull).startDrain j
          else
            let s := s.modVault fun v => { v.invalidate a with state := ofBool !k.todo.isEmpty, doneMib := 0 }
            let s := s.programVault (a * s.vault.areaBytes + 0x1000) k.directory 0
            (s.modCkpt k.part k.ctx fun q => { q with area := some a }).startDrain j

/-- The vault looks for work, and writes that waited for a mark's end take effect. -/
def State.settleDrain (s : State) : State := (s.startDrain (s.jobs.ckpts.length + 1)).flushLate

/-- DRAIN_PAGE_DONE: the next page of the drain has been written to the vault, and its mark ends unless a later page of the
drain lies in the same buffer (R220, R366). A page that R228 refuses stops the drain; one that the host's silence keeps away waits
(R244). Nothing is drained while the vault is not enabled (R416). -/
def execDrainPageDone (done : DrainPage) (s : State) : Host.Outcome State Fault Refusal :=
  if s.off || !s.vault.enable then .next s else
  let s := s.settleDrain
  match s.drainingCkpt with
  | none => .next s
  | some k =>
    match k.area, k.todo with
    | some a, g :: rest =>
      if g.page != done.page then .next s
      else
        match s.answered g.entry (g.page * pageBytes) false (checkEntry (s.entry g.entry) k.part (g.page * pageBytes) false .vault) with
        | .wait _ => .next s
        | .bad b poison =>
          .next ((((s.noteFault k.part 7 b poison).modVault fun v => { v with evMedia := true }).failCkpt k stVaultMedia).settleDrain.hubFetch)
        | .ok e =>
          let bs := s.mems.readLoc (locate (eTier e) (eFrame e) 0) pageBytes
          let off := 0x1000 + k.dirBytes + pageBytes * k.drained.length
          let s := s.programVault (a * s.vault.areaBytes + off) bs done.eraseFails
          let s := s.modVault fun v => { v with doneMib := (k.drained.length + 1) / 2 }
          let s := if rest.any (·.entry == g.entry) then s else (s.markDrain g false).flushLate
          if !rest.isEmpty then .next (s.modCkpt k.part k.ctx fun q => { q with todo := rest, drained := q.drained ++ [g] })
          else
            let s := s.drainEnds k
            let s := if k.orphan && !k.auto then s.closeCkpt { k with todo := [] }
              else s.modCkpt k.part k.ctx fun q => { q with todo := [], drained := q.drained ++ [g] }
            .next s.settleDrain
    | _, _ => .next s

/-- The commit record of a drained checkpoint, without its last CRC (R411). -/
def Vault.commitBody (v : Vault) (k : Ckpt) (area : Nat) : List Byte :=
  let seq := (v.generations.map (·.seq)).foldl max 0 + 1
  let body := v.bytes area 0x1000 (k.dirBytes + k.dataBytes)
  padTo 0xFF8 (toLE 4 0x56410001 ++ fill 4 0 ++ toLE 8 seq ++ toLE 4 k.id ++ fill 4 0 ++ toLE 8 k.step.toNat
    ++ toLE 2 (k.node % 2 ^ 12 + k.part * 2 ^ 12) ++ fill 6 0 ++ toLE 8 k.dirBytes ++ toLE 8 k.dataBytes ++ toLE 8 (crc64 body))

/-- COMMIT_RECORD_DURABLE: the commit record of the drained checkpoint has been programmed and read back; the
CHECKPOINT_COMMIT, or the automatic checkpoint, completes (R363, R369, R414). -/
def execCommitRecordDurable (s : State) : Host.Outcome State Fault Refusal :=
  if s.off then .next s else
  match s.committingCkpt with
  | none => .next s
  | some k =>
    match k.area with
    | none => .next s
    | some a =>
      if !s.vault.enable then .next s
      else
        let b := s.vault.commitBody k a
        let s := s.programVault (a * s.vault.areaBytes) (b ++ toLE 8 (crc64 b)) 0
        let s := s.modVault fun v => { v with lastArea := a, lastPart := k.part, lastId := k.id }
        let s := (s.closeCkpt k).endCommits k stOk
        .next ((if k.auto then s.autoEnds k true else s).settleDrain).hubFetch

/-- VAULT_PROGRAM_FAIL: a program fails in the block that is open. The block is retired, and its segment is written again to the spare
that replaces it; with no spare left, a drain stops (R407, R413). -/
def execVaultProgramFail (s : State) : Host.Outcome State Fault Refusal :=
  if s.off then .next s else
  let v := s.vault
  let seg := v.segOf (v.progAt - 1)
  match (if s.hasVault && v.progAt != 0 then Tab.find v.table.map seg else none) with
  | none => .next s
  | some b =>
    let spare := v.freshest v.table.spares
    let s := s.retireBlock b 0
    match spare, s.drainingCkpt.filter (·.area.isSome) with
    | some x, _ => .next (s.modVault fun v => v.place seg x)
    | none, some k => .next ((s.modVault fun v => { v with evMedia := true }).failCkpt k stVaultMedia).settleDrain.hubFetch
    | none, none => .next (s.writeSegment seg 0)

/-- A write of VLT_CTRL with format 1: a format discards the drains that no commit record covers yet. DESIGN CHOICE: their commits end
with VAULT_MEDIA; the manual does not name them (log 191). -/
def State.writeFormat (s : State) : State :=
  if !s.vault.canFormat then s
  else (s.jobs.ckpts.filter Ckpt.isDrained).foldl (fun (s : State) k => s.failCkpt k stVaultMedia) s.formatVault

/-! ### Commands (R365, R369) -/

/-- A checkpoint is opened. -/
def State.openCheckpoint (s : State) (n c id : Nat) (auto : Bool) : State :=
  s.modJobs fun j => { j with ckpts := j.ckpts ++
    [({ part := n, ctx := c, id := id, auto := auto, openedAt := s.hub.nextNumber } : Ckpt)] }

/-- CHECKPOINT_BEGIN (R365). -/
def execCheckpointBegin (n : Nat) (s : State) : Host.Outcome State Fault Refusal :=
  s.hostCommand n 0x80 fun c s =>
    ((s.notePlan (pkPart c.packet)).openCheckpoint (pkPart c.packet) (pkCtx c.packet) (pk c.packet 16 4) false).finish n stOk 0

/-- CHECKPOINT_COMMIT: waits for the commit record, or ends with what the drain has ended with (R369, R412, R413). -/
def execCheckpointCommit (n : Nat) (s : State) : Host.Outcome State Fault Refusal :=
  s.hostCommand n 0x81 fun c s =>
    match s.openCkpt (pkPart c.packet) (pkCtx c.packet) with
    | none => s
    | some k =>
      match k.failed with
      | some code => (s.closeCkpt k).finish n code 0
      | none => (s.modCkpt k.part k.ctx fun q => { q with cmds := q.cmds ++ [n] }).settleDrain

/-- The checkpoints of a partition, or of one context, lose their contexts. A COMMIT that waits ends with ABORTED, which closes its
checkpoint; one that has captured nothing is closed too. The drain of any other goes on (R302, R369), under a number that no context
has. -/
def State.discardCkpts (s : State) (n : Nat) (c : Option Nat) : State :=
  let ks := s.jobs.ckpts.filter fun k => k.part == n && decide (k.ctx < 64) && (match c with
    | some c => k.ctx == c
    | none => true)
  (ks.foldl (fun (s : State) k =>
      if !k.auto && !k.cmds.isEmpty then (s.closeCkpt k).endCommits k stAborted
      else
      let s := (s.endCommits k stAborted).modCkpt n k.ctx fun q => { q with cmds := [] }
      if !k.captured || k.failed.isSome || (k.todo.isEmpty && !k.auto) then s.closeCkpt k
      else
        let z := k.ctx + 64 * (k.openedAt + 1)
        (s.modCkpt n k.ctx fun q => { q with orphan := true, ctx := z }).modJobs fun j => { j with
          captures := j.captures.map fun e => if e == (n, k.ctx) then (n, z) else e }) s).settleDrain

/-! ### Restoring (R370, R414) -/

/-- One page of a generation as its directory gives it: device address, kind, version and where its bytes start. -/
structure SavedPage where
  addr : Nat
  kind : Nat
  version : Nat
  off : Nat                    -- vault offset
  deriving DecidableEq, Repr

/-- The pages of a generation, in directory order. -/
def Vault.savedPages (v : Vault) (g : GenInfo) : List SavedPage :=
  let dir := v.bytes g.area 0x1000 g.dirBytes
  let base := g.area * v.areaBytes + 0x1000 + g.dirBytes
  ((List.range (g.dirBytes / 16)).foldl (fun (acc : List SavedPage × Nat) i =>
    let e := (dir.drop (16 * i)).take 16
    let k := leAt e 8 4
    (acc.1 ++ ((List.range k).map fun j =>
      ({ addr := leAt e 0 6 + j * pageBytes, kind := leAt e 6 1, version := leAt e 7 1, off := base + acc.2 + j * pageBytes } : SavedPage)),
     acc.2 + k * pageBytes)) ([], 0)).1

/-- The bytes of a saved page. -/
def Vault.pageBytesOf (v : Vault) (p : SavedPage) : List Byte := v.media.read p.off pageBytes

/-- The schedule record of a generation: from its address within the saved pages of kind 3. -/
def Vault.savedSched (v : Vault) (g : GenInfo) : List Byte :=
  let ps := (v.savedPages g).filter (·.kind == 3)
  match ps with
  | [] => []
  | p :: _ => (ps.flatMap v.pageBytesOf).drop (p.addr % pageBytes)

/-- The sequences of a schedule record, with the pages whose headers name them as writer, in position order (R148, R151,
R370). -/
def savedSequences (n c : Nat) (sched : List Byte) (pages : List (Nat × List Byte)) : List ResSeq :=
  (List.range (leAt sched 0x20 4)).map fun i =>
    let e := (sched.drop (schedHead + 64 * i)).take 64
    let params := e.take 48
    let key := leAt params 0 4
    let layer := fun (l : Nat) =>
      let ps := pages.filter fun p => leAt p.2 0 2 == l && leAt p.2 8 4 == key
      let ordered := ps.foldl (fun (t : Tab Nat) p => Tab.insert (leAt p.2 0x40 4) p.1 t) []
      let head := (ps.head?.map (·.2)).getD []
      let heads := leAt params 6 1
      ({ pages := ordered.map (·.2)
         kscale := (List.range heads).map fun h => leAt head (0x640 + h) 1
         vscale := (List.range heads).map fun h => leAt head (0x6C0 + h) 1 } : ResLayer)
    let q : ResSeq := { part := n, ctx := c, key := key, params := params, status := 1, next := leAt e 48 4
                        layers := (List.range (leAt params 4 2)).map layer }
    { q with floor := q.firstKept q.next }

/-- The generation that a CHECKPOINT_RESTORE reads: of those that its id names, the one with the largest commit sequence that
is not damaged (R370, R414). -/
def Vault.chosen (v : Vault) (n id : Nat) : Option GenInfo :=
  newestGen ((v.named n id).filter fun g => !v.isDamaged g)

/-- A page of a partition that a restore can write whole. -/
def State.restorable (s : State) (n x : Nat) : Bool :=
  eValid (s.entry x) && ePart (s.entry x) == n && eState (s.entry x) != 3 && decide (eTier (s.entry x) ≤ 5)

/-- A saved page is written at its device address (R370). -/
def State.restorePage (s : State) (n : Nat) (p : SavedPage) (bs : List Byte) : State :=
  let x := pageOf p.addr
  let s := s.storeUnder (s.entry x) (x * pageBytes) bs
  if p.kind = 2 && s.inWindow n (x * pageBytes) then
    let y := s.shadowOf n x
    let s := s.setEntry x (setField (s.entry x) 47 44 p.version)
    s.setEntry y (setField (s.entry y) 47 44 p.version)
  else if p.kind = 1 then
    let e := s.entry x
    (s.setEntry x (setField (setField (setField e 53 48 1) 38 38 0) 59 58 0)).modRes n fun r => { r with
      free := r.free.filter (· != x), deferred := r.deferred.filter (· != x), swapFree := r.swapFree.filter (· != x) }
  else s

/-- The sequences of a context that have joined give way to the restored ones. -/
def State.dropJoined (s : State) (n c : Nat) : State :=
  let gone := s.res.seqs.filter fun q => q.part == n && q.ctx == c && q.status != 0
  let s := { s with res := { s.res with seqs := s.res.seqs.filter fun q => !(q.part == n && q.ctx == c && q.status != 0) } }
  gone.foldl (fun (s : State) q => q.allPages.foldl (fun (s : State) x => s.dropPage n x) s) s

/-- CHECKPOINT_RESTORE: a committed generation is read and its pages, counters, Capo jobs, sequences and schedule record are
restored (R370, R414). It waits while the vault is not enabled (R416), and for pages that move or drain (R228). -/
def execCheckpointRestore (r : VaultRead) (s : State) : Host.Outcome State Fault Refusal :=
  let n := r.n
  s.hostCommand n 0x82 fun c s =>
    let part := pkPart c.packet
    let cx := pkCtx c.packet
    let moving := fun (x : Nat) => eState (s.entry x) == 1 || eDrain (s.entry x)
    if !s.vault.enable then s.unstart n
    else match s.vault.chosen part (pk c.packet 16 4) with
    | none => (s.modVault fun v => { v with evMedia := true }).finish n stVaultMedia 0
    | some g =>
      let s := s.notePlan part
      let v := s.vault
      let ps := v.savedPages g
      let need := pageRange (s.planOwned part) (s.planOwnedPages part) ++ pageRange (s.planPlain part) (s.planPlainPages part)
        ++ (ps.filter (·.kind != 3)).map fun p => pageOf p.addr
      let need := if s.plan part = 0 then (ps.filter (·.kind != 3)).map (fun p => pageOf p.addr) else need
      let (s', lost) := s.readVault (g.area * v.areaBytes) (0x1000 + g.dirBytes + g.dataBytes) r.met
      if lost || !v.dataValid g then s'.finish n stVaultMedia 0
      else if need.any fun x => !s.restorable part x then s'.finish n stBadParam 0
      else if need.any moving then s.unstart n
      else
        let s := s'
        let sched := v.savedSched g
        let data := (ps.filter (·.kind == 1)).map fun p => (pageOf p.addr, v.pageBytesOf p)
        let seqs := savedSequences part cx sched data
        let s := s.dropJoined part cx
        let s := (ps.filter (·.kind != 3)).foldl (fun (s : State) p => s.restorePage part p (v.pageBytesOf p)) s
        let s := (List.range (if s.plan part = 0 then 0 else min (s.planNcnt part) (leAt sched 0x1C 2))).foldl (fun (s : State) i =>
          s.setCounter (s.planCnt part i) (BitVec.ofNat 64 (leAt sched (0x200 + 8 * i) 8))) s
        let s := (bitsOf 16 (leAt sched 0x24 2)).foldl (fun (s : State) j =>
          let b := s.job j
          if b.enable && b.part = part && b.ctx = cx then
            s.modJob j fun b => { b with
              frames := leAt sched (0xC0 + 16 * j) 8 % 2 ^ 24, nextFrame := leAt sched (0xC0 + 16 * j) 8
              cheap := leAt sched (0xC8 + 16 * j) 1 == 1
              slacks := List.replicate (leAt sched (0xC9 + 16 * j) 1) (b.rec_.recoverSlack : Int) }
          else s) s
        let len := schedHead + 64 * leAt sched 0x20 4
        let s := if s.plan part = 0 then s
          else s.hubWrite part 7 .plain (s.planSched part) (sched.take len)
        let s := s.modJobs fun j => { j with reopen := (j.reopen.filter fun q => !(q.part == part && q.ctx == cx)) ++ seqs }
        let s := s.modVault fun v => { v with doneMib := (g.dirBytes + g.dataBytes) / 2 ^ 20 }
        s.finish n stOk g.step

/-! ### Luthier (R361 to R363) -/

/-- s_t of R361. -/
def tempScore (t lo hi : Nat) : Nat :=
  if hi ≤ lo then (if lo ≤ t then 255 else 0)
  else if t ≤ lo then 0 else if hi ≤ t then 255 else 255 * (t - lo) / (hi - lo)

/-- `ceil (log2 (c + 1))`. -/
def log2Up (c : Nat) : Nat := if c = 0 then 0 else Nat.log2 c + 1

/-- The automatic checkpoint of a partition: opened, or skipped where CHECKPOINT_BEGIN would be refused (R363). -/
def State.autoCkpt (s : State) (n : Nat) : State :=
  if s.plan n = 0 || !bit (s.planFlags n) 1 then s
  else
    let s := s.notePlan n
    let h := s.planField n 0 8
    let skip := fun (s : State) => { s with lth := { s.lth with skipped := satAdd 8 s.lth.skipped 1 } }
    match s.handleCtx h with
    | none => skip s
    | some (m, c, _) =>
      if (s.openCkpt m c).isSome then s
      else if m != n || s.filling n then skip s
      else
        let id := s.planAutoId n
        let s := s.openCheckpoint n c id true
        let s := s.hubWrite n 9 .plain (s.plan n + 0x1C) (toLE 4 (id + 1))
        { s with lth := { s.lth with
          opened := wrapAdd 16 s.lth.opened 1, part := n, id := id, committed := false, failed := false } }

/-- LUTHIER_EVALUATION: the scores and the risk of the period; SECURE_NOW is raised or cleared, and automatic checkpoints
are opened (R361 to R363). -/
def execLuthierEvaluation (s : State) : Host.Outcome State Fault Refusal :=
  if s.off then .next s else
  let l := s.lth
  if !l.enable then .next s
  else
    let t := (l.peaks.map (·.2)).foldl max 0
    let u := ((l.uncorrected.filter fun e => (s.port e.1).state == 1).map (·.2)).foldl max 0
    let sT := tempScore t l.tLo l.tHi
    let sE := min 255 (32 * log2Up l.corrections)
    let sC := min 255 (64 * l.retrains + 16 * u)
    let sD := min 255 (16 * l.droops)
    let raw := min 255 ((l.wT * sT + l.wE * sE + l.wC * sC + l.wD * sD) / 128)
    let risk := max raw (l.risk - l.decay)
    let raise := !l.secureNow && decide (l.threshold ≤ risk)
    let drop := l.secureNow && decide (risk + l.hysteresis < l.threshold)
    let s := { s with lth := { l with
      sT := sT, sE := sE, sC := sC, sD := sD, risk := risk
      secureNow := (l.secureNow || raise) && !drop, evRaised := l.evRaised || raise
      evaluations := wrapAdd 32 l.evaluations 1, raises := wrapAdd 32 l.raises (ofBool raise)
      corrections := 0, retrains := 0, uncorrected := [], droops := 0, temps := l.peaks, peaks := l.now } }
    if raise && l.secureEn && s.hasVault then .next ((List.range 16).foldl (fun (s : State) n => s.autoCkpt n) s)
    else .next s

end Sys2Proof.Machine
end

