-- ==== Sys2Proof/Machine/Schedule.lean ====
section
/-! DEFINITION. Scheduling (R306 to R313), LAUNCH (R335), the open step (R336), and Capo (R314 to R317). -/

namespace Sys2Proof.Machine

/-! ### Running to a boundary (R120, R313) -/

/-- Whether an issued descriptor waits on something outside the core, so that an abandon cancels it (R313). -/
def Issued.waitsOutside (i : Issued) : Bool :=
  match i.work with
  | .coll r => r.waitsOutside
  | .update u => !u.waiting.isEmpty
  | .move false true => true
  | _ => false

/-- Held messages of COLLs that an abandon cancels are discarded, and their credits returned (R313). -/
def State.dropHeldFor (s : State) (g : Nat) (cs : List CollRun) : State :=
  let gone := s.crs.heldColl.filter fun e => e.2.target == g && cs.any fun r => collMatches g r e.2
  let s := { s with crs := { s.crs with heldColl := s.crs.heldColl.filter fun e => !gone.contains e } }
  gone.foldl (fun (s : State) (e : Nat × Msg) => s.freeCredits e.1 e.2) s

/-- Every issued descriptor of a core that waits on something outside it is cancelled (R313). Pages that have advanced stay
advanced; the claims of those that have not are abandoned (R207). -/
def State.cancelWaits (s : State) (g : Nat) : State :=
  let gone := (s.core g).issued.filter Issued.waitsOutside
  let colls := gone.filterMap fun i => match i.work with
    | .coll r => some r
    | _ => none
  let s := s.scrCancel g
  let s := (s.waitedCycles g).modCore g fun k => { k with wait := none, issued := k.issued.filter fun i => !i.waitsOutside }
  gone.foldl (fun (s : State) i => s.dropWriter g i.index) (s.dropHeldFor g colls)

/-- A core that has to stop runs towards its boundary: the gather stage issues its open tile (R120), an UPDATE or an all-gather
stops at its resume point (R208), and what an abandon cancels goes (R313). -/
def State.runDown (s : State) (g : Nat) : State :=
  let k := s.core g
  let s := s.fillGather g true 66
  match k.ctx.bind (s.ctx k.part ·) with
  | some x => if x.abandon.isSome then s.cancelWaits g else (s.updSuspend g).collSuspend g
  | none => s

/-- Whether a core still has to stop for a request about a context. -/
def State.stillRuns (s : State) (n c g : Nat) : Bool :=
  let k := s.core g
  k.part == n && k.ctx == some c && !(s.boundary g && (k.state == .idle || k.state == .preempted || k.state == .faulted))

/-- The cores that run a context stop issuing (R312, R313); with `sw` they switch at their boundaries (R318). -/
def State.stopAll (s : State) (n c : Nat) (x : Ctx) (sw : Bool) : State :=
  (x.coreList.filter fun g => s.stillRuns n c g).foldl (fun (s : State) g =>
    (s.modCore g fun k => { k with switching := k.switching || sw }).requestStop g) s

/-! ### LAUNCH (R335, R93) -/

/-- What LAUNCH loads for the cores of a context: program base, count and register image of each. -/
abbrev Images : Type := List (Nat × Nat × List W64)

/-- The 16 registers of an image (R93). -/
def imageOf (bs : List Byte) : List W64 := (List.range 16).map fun i => BitVec.ofNat 64 (leAt bs (8 * i) 8)

/-- The launch table and register images at two device addresses. -/
def State.readImages (s : State) (n : Nat) (x : Ctx) (table image : Nat) (shared : Bool) : Acc Images ⊕ Acc Images :=
  let k := x.coreList.length
  match s.devRead n .plain .newest table (16 * k) with
  | .bad a p => .inl (.bad a p)
  | .wait a => .inl (.wait a)
  | .ok t =>
    match s.devRead n .plain .newest image (128 * (if shared then 1 else k)) with
    | .bad a p => .inr (.bad a p)
    | .wait a => .inr (.wait a)
    | .ok r => .inr (.ok ((List.range k).map fun i =>
        (leAt t (16 * i) 6, leAt t (16 * i + 8) 4, imageOf (r.drop (if shared then 0 else 128 * i)))))

/-- Programs start at multiples of 64 bytes and have at most `2^24` descriptors (R90). -/
def Images.sound (im : Images) : Bool := im.all fun e => e.1 % 64 == 0 && decide (e.2.1 ≤ 2 ^ 24)

/-- The claims of a context's descriptors are abandoned, as what it has stopped under R208 is dropped. -/
def State.dropKept (s : State) (n c : Nat) : State :=
  let s := s.abandonClaims fun w => w.ctx == c && s.coreIn n w.core && decide (w.index < 2 ^ 32)
  s.modCtx n c fun x => { x with cores := x.cores.map fun e => (e.1, { e.2 with resumes := [] }) }

/-- Every core of a placement is loaded: its program, and the registers from which it will start; its pin is what the loaded SQ_A14
selects (R203). A core with an empty program has finished. A hold at a STEP_MARK stays until the STEP_BEGIN that it awaits
(R113). -/
def State.loadCores (s : State) (n c : Nat) (x : Ctx) (im : Images) : State :=
  let s := (x.coreList.zip im).foldl (fun (s : State) (e : Nat × Nat × Nat × List W64) =>
    let pin := selectorOf (e.2.2.2.getD 14 0)
    let here := (s.core e.1).part == n && (s.core e.1).ctx == some c
    let hold := if here then (s.core e.1).lastStep else none
    let s := s.modCtxCore n c e.1 fun y => { y with
      progBase := e.2.1, progCount := e.2.2.1, image := e.2.2.2
      fresh := true, finished := e.2.2.1 == 0, held := hold <|> y.held, skips := 0, slotOpen := 0, normOwner := false
      handlerSrc := none, handling := false, pin := pin }
    if here then
      s.modCore e.1 fun k => ({ k with
        state := .idle, stopReq := false, lastStep := none, wait := none, switching := false } : Core).withResumes []
    else s) (s.dropKept n c)
  s.modCtx n c fun x => { x with
    stopped := false, abandon := none
    programs := (im.filter (·.2.1 != 0)).foldl (fun ps e =>
      if ps.contains (e.1, e.2.1) then ps else (e.1, e.2.1) :: ps) x.programs }

/-- A LAUNCH whose cores have all finished completes. -/
def State.launchDone (s : State) (n c : Nat) : State :=
  match s.ctx n c with
  | some x =>
    if x.launch.isSome && x.abandon.isNone && x.coreList.all fun g => (x.core g).finished then s.endLaunch n c stOk 0 else s
  | none => s

/-! ### Capo (R314 to R317) -/

/-- Bytes 16 to 28 of the LAUNCH that an image of a Capo job gives: table, images, shared. -/
def State.capoImages (s : State) (j n : Nat) (x : Ctx) (cheap : Bool) : Acc Images ⊕ Acc Images :=
  let r := (s.job j).rec_
  match s.devRead n .plain .newest (if cheap then r.cheapImg else r.fullImg) 48 with
  | .bad a p => .inl (.bad a p)
  | .wait a => .inl (.wait a)
  | .ok p => s.readImages n x (leAt p 0 6) (leAt p 6 6) (bit (leAt p 12 1) 0)

/-- Whether a job in cheap mode returns to full mode at a release: the last recover_frames frames have all had enough
slack (R316). -/
def CapoJob.recovers (b : CapoJob) : Bool :=
  b.cheap && decide (b.rec_.recoverFrames ≤ b.slacks.length)
    && (b.slacks.take b.rec_.recoverFrames).all fun x => decide ((b.rec_.recoverSlack : Int) ≤ x)

/-- A frame is released (R315): Capo may return to full mode, which it logs, and reads the milestone counter. The LAUNCH of
command `cmd` carries it. -/
def State.capoRelease (s : State) (j cmd : Nat) : State :=
  let b := s.job j
  let f := b.nextFrame
  let s := if b.recovers then (s.modJob j fun b => { b with cheap := false }).capoEntry j f 3 0xFF 0 0 else s
  let b := s.job j
  s.modJob j fun b' => { b' with
    frames := wrapAdd 24 b'.frames 1, nextFrame := f + 1
    frame := some { number := f, cmd := cmd, c0 := s.counter b.rec_.mctr, cheap := b.cheap } }

/-! ### Ending a context (R354, R332) -/

/-- The sources that the handlers of a context have claimed are completed, and the descriptor-done counts of those cores
are zeroed (R354). -/
def State.completeHandlers (s : State) (n c : Nat) (x : Ctx) : State :=
  x.coreList.foldl (fun (s : State) g =>
    let k := s.core g
    let here := k.part == n && k.ctx == some c
    let handling := if here then k.inHandler else (x.core g).handling
    let src := if !handling then none else if here then k.handlerSrc else (x.core g).handlerSrc
    let s := match src with
      | some i => if (s.bridge (dieOf g)).isActive i then s.completeSource (dieOf g) i else s
      | none => s
    if handling then s.modCore g fun k => { k with descDone := 0 } else s) s

/-- What the Resonator holds of a context goes with it: its sequences, its view's pins and its fold. -/
def State.resDropCtx (s : State) (n c : Nat) : State :=
  let old := Tab.get [] (s.resPart n).views c
  let s := s.modRes n fun r => { r with
    views := r.views.erase c, folded := r.folded.erase c, foldPre := r.foldPre.erase c
    fold := match r.fold with
      | some f => if f.ctx = c then none else some f
      | none => none }
  let s := (s.res.seqs.filter fun q => q.part == n && q.ctx == c).foldl (fun (s : State) q => s.closePages n q) s
  let s := old.foldl (fun (s : State) x => s.tryFree n x) s
  { s with
    res := { s.res with seqs := s.res.seqs.filter fun q => !(q.part == n && q.ctx == c) }
    jobs := { s.jobs with reopen := s.jobs.reopen.filter fun q => !(q.part == n && q.ctx == c) } }

/-- A context is destroyed (R332, R354): the commands that still wait for it end with ABORTED, in acceptance order (R330), its cores
are free, and its pins are gone. `self` is the command that destroys it. -/
def State.destroyCtx (s : State) (n c self : Nat) : State :=
  match s.ctx n c with
  | none => s
  | some x =>
    let h := handleOf n c x.gen
    let ns := (s.hub.accepted.filter fun q => usesHandle.contains q.opcode && pkHandle q.packet == h && q.number != self)
    let s := s.finishAll (ns.map (·.number)) stAborted 0
    let s := (s.completeHandlers n c x).dropKept n c
    let s := x.coreList.foldl (fun (s : State) g =>
      if (s.core g).part = n && (s.core g).ctx = some c then
        s.modCore g fun k => ({ k with
          ctx := none, state := .idle, stopReq := false, switching := false, inHandler := false, handlerSrc := none
          lastStep := none, seg := none, wait := none, rotate := false, count := 0, pc := 0 } : Core).withResumes []
      else s) s
    let s := (s.discardCkpts n (some c)).resDropCtx n c
    let s := if ns.any fun q => q.opcode == 0x90 && q.started then s.releasePair n else s
    let s := s.modFills fun fs => fs.filter fun f => !ns.any fun q => q.number == f.cmd
    let s := s.modPart n fun p => { p with ctxs := p.ctxs.erase c }
    (s.settleAll x.coreList).settleBridges

/-! ### The end of an abandon (R313, R316) -/

/-- The commands of an opcode that wait for a context, by number. -/
def State.waitingFor (s : State) (op h : Nat) : List Nat :=
  (s.hub.accepted.filter fun q => q.opcode == op && q.started && pkHandle q.packet == h).map (·.number)

/-- The cores of a context hold nothing of the LAUNCH any more, but for a hold at a STEP_MARK (R113). -/
def State.clearCores (s : State) (n c : Nat) (x : Ctx) : State :=
  x.coreList.foldl (fun (s : State) g =>
    let here := (s.core g).part == n && (s.core g).ctx == some c
    let hold := if here then (s.core g).lastStep else none
    let s := s.modCtxCore n c g fun y => { y with
      finished := true, fresh := false, held := hold <|> y.held, slotOpen := 0, normOwner := false }
    if here then
      s.modCore g fun k => ({ k with
        state := .idle, stopReq := false, switching := false, seg := none, lastStep := none, wait := none } : Core).withResumes []
    else s) (s.dropKept n c)

/-- Once every core of an abandoned context is at its boundary, the abandon ends: the LAUNCH completes, in acceptance order
with the commands that asked for it (R330), or Capo launches the cheaper model for the same frame (R316). -/
def State.endAbandon (s : State) (n c : Nat) : State :=
  match s.ctx n c with
  | none => s
  | some x =>
    match x.abandon with
    | none => s
    | some a =>
      if x.coreList.any fun g => s.stillRuns n c g then s
      else
        let h := handleOf n c x.gen
        let s := s.clearCores n c x
        let s := s.modCtx n c fun x => { x with abandon := none }
        match x.launch, a with
        | some _, .capo j =>
          match s.capoImages j n x true with
          | .inr (.ok im) =>
            if !im.sound then s.endLaunch n c stBadParam 28 else
            let s := s.loadCores n c x im
            let s := s.modCtx n c fun x => { x with launch := x.launch.map fun l => { l with detail := 1 } }
            let s := s.modJob j fun b => { b with frame := b.frame.map fun f => { f with cheap := true } }
            (s.launchDone n c).settleAll x.coreList
          | .inl (.bad b p) | .inr (.bad b p) =>
            (s.noteFault n 9 b p).endLaunch n c (if p then stMemPoison else stBadParam) (if p then 0 else 28)
          | _ => s.modCtx n c fun x => { x with abandon := some a }
        | none, .capo _ => s.settleAll x.coreList
        | _, _ =>
          let code := if a = .preempt then stPreempted else stAborted
          let l := match x.launch with
            | some l => l.cmd
            | none => 0
          let ps := s.waitingFor 0x42 h
          let s := s.finishAll (ps.filter (· < l)) stOk 0
          let s := s.endLaunch n c code 0
          let s := s.finishAll (ps.filter (l ≤ ·)) stOk 0
          match s.waitingFor 0x21 h with
          | [] => s.settleAll x.coreList
          | d :: _ => (s.destroyCtx n c d).finish d stOk 0

/-- A context is abandoned: every core stops issuing and cancels what waits outside it (R313). -/
def State.abandon (s : State) (n c : Nat) (a : Abandon) : State :=
  match s.ctx n c with
  | none => s
  | some x =>
    let s := s.modCtx n c fun x => { x with abandon := some a }
    let gs := x.coreList.filter fun g => s.stillRuns n c g
    let s := s.stopAll n c x false
    let s := gs.foldl (fun (s : State) g => s.runDown g) s
    s.endAbandon n c

/-! ### A core at its boundary (R120, R307, R308, R312) -/

/-- Issue goes on where it stopped. -/
def State.goOn (s : State) (g : Nat) : State :=
  s.modCore g fun k => { k with
    stopReq := false, switching := false, rotate := false
    state := if k.lastStep.isSome && !k.inHandler then .held else if k.wait.isSome then .waiting else .issuing }

/-- Core `g` has reached its boundary: PREEMPTs for which it was the last core complete (R312). -/
def State.endPreempts (s : State) (n g : Nat) : State :=
  ((s.part n).ctxs.filter fun e => e.2.preempting.contains g).foldl (fun (s : State) (e : Nat × Ctx) =>
    let left := e.2.preempting.filter (· != g)
    let s := s.modCtx n e.1 fun x => { x with preempting := left }
    if left.isEmpty then s.finishAll (s.waitingFor 0x42 (handleOf n e.1 e.2.gen)) stOk 0 else s) s

/-- What a core does once it stands at its boundary: the context that has to leave it is saved or dropped, and the scheduler
chooses the next one. -/
def State.standAtBoundary (s : State) (g : Nat) : State :=
  let k := s.core g
  let n := k.part
  match k.ctx with
  | none => s.settleWith true g
  | some c =>
    match s.ctx n c with
    | none => s.settleWith true g
    | some x =>
      if x.abandon.isSome then
        let s := if k.state = .preempted then s
          else s.modCore g fun k => { k with state := .idle, stopReq := false, switching := false }
        s.endAbandon n c
      else
        if !k.stopReq then s.settleWith true g
          else if x.stopped || x.launch.isNone || (x.core g).finished then
            ((s.waitedCycles g).modCore g fun k => { k.dropWait with
              state := .idle, stopReq := false, switching := false }).settleWith true g
          else if x.preempted then
            let s := if s.occupied g then s.saveSeq g else s
            (s.modCore g fun k => { k with state := .preempted, stopReq := false, switching := false }).settleWith true g
          -- a peer displaces a context that is still ready only when its quantum has expired (R307)
          else if !k.rotate && !(x.core g).fresh && (s.candidates n g).contains c then s.goOn g
          else match s.choose n g with
            | none => s.goOn g
            | some (c', t) => if c' = c && !(x.core g).fresh then t.goOn g else t.switchTo n c' g

/-- What the switch that led to `t` met as it read the scratchpad of core `g` to save units of it (R235): where it saved none,
nothing. A word that fails all re-reads stops the contexts whose units it saved. -/
def State.savedWith (t s : State) (g : Nat) (err : ReadError) : State :=
  let more := s.parts.flatMap fun (p : Nat × Part) => (p.2.ctxs.filter fun (e : Nat × Ctx) =>
    decide ((e.2.core g).saved.size < (((t.ctx p.1 e.1).map fun x => (x.core g).saved.size).getD 0))).map fun e => (p.1, e.1)
  if more.isEmpty then t
  else
    let (u, bad) := t.readMet g 0 true false false err
    if bad then more.foldl (fun (u : State) (e : Nat × Nat) => u.recordStop e.1 e.2 g true) u else u

/-- CORE_BOUNDARY_REACHED: a core that has to stop issues the gather stage's open tile, stops at its resume points, and once
it is at its boundary saves its state and is given to the next context (R120, R208, R308, R312, R313). -/
def execCoreBoundaryReached (c : CoreRead) (s : State) : Host.Outcome State Fault Refusal :=
  let g := c.core
  if s.dieOff (dieOf g) then .next s else
  if numCores ≤ g then .next s
  else
    let k := s.core g
    let s := if k.stopReq || k.state = .faulted then s.runDown g else s
    let s := s.finishProgram g
    if !s.boundary g then .next s
    else
      let s := (s.readMet g 0 false false true c.err).1
      .next ((((s.standAtBoundary g).savedWith s g c.err).endPreempts k.part g).settleBridges)

/-- QUANTUM_EXPIRY: another ready context of equal rank takes the core at its next boundary; with none the count starts again
(R307). A quantum of 0 never expires. -/
def execQuantumExpiry (g : Nat) (s : State) : Host.Outcome State Fault Refusal :=
  if s.dieOff (dieOf g) then .next s else
  let k := s.core g
  match k.ctx with
  | none => .next s
  | some c =>
    match s.ctx k.part c with
    | none => .next s
    | some x =>
      let peers := (s.part k.part).ctxs.any fun e => e.1 != c && e.2.ready g && e.2.rank == x.rank
      if x.quantum = 0 || !s.runsReady g || k.stopReq || !peers then .next s
      else .next ((s.modCore g fun k => { k with switching := true, rotate := true }).requestStop g)

/-! ### Commands -/

/-- The LAUNCH of a context takes its images, and its cores are loaded (R330, R335). -/
def State.beginLaunch (s : State) (n c cmd : Nat) (x : Ctx) (capo : Bool) (im : Images) : State :=
  let s := s.modCtx n c fun x => { x with launch := some { cmd := cmd, capo := capo } }
  let s := (s.loadCores n c x im).interim cmd
  ((s.launchDone n c).settleAll x.coreList).settleBridges

/-- LAUNCH: the table and the images are read and every core of the placement is loaded; then the scheduler runs it. With the
capo flag Capo releases a frame and chooses the image (R315, R335). -/
def execLaunch (n : Nat) (s : State) : Host.Outcome State Fault Refusal :=
  s.hostCommand n 0x41 fun q s =>
    let p := q.packet
    let m := pkPart p
    let c := pkCtx p
    match s.ctx m c with
    | none => s
    | some x =>
      let failed := fun (off a : Nat) (poison : Bool) =>
        (s.noteFault m 9 a poison).finish n (if poison then stMemPoison else stBadParam) (if poison then 0 else off)
      let capo := bit (pk p 28 1) 1
      match (if capo then s.jobOf m c else none) with
      | some j =>
        let t := s.capoRelease j n
        match t.capoImages j m x (t.job j).cheap with
        | .inr (.ok im) => if im.sound then t.beginLaunch m c n x true im else s.finish n stBadParam 28
        | .inl (.wait _) | .inr (.wait _) => s.unstart n
        | .inl (.bad a q) | .inr (.bad a q) => failed 28 a q
        | .inl (.ok _) => s
      | none =>
        match s.readImages m x (pk p 16 6) (pk p 22 6) (bit (pk p 28 1) 0) with
        | .inr (.ok im) => if im.sound then s.beginLaunch m c n x false im else s.finish n stBadParam 16
        | .inl (.bad a q) => failed 16 a q
        | .inr (.bad a q) => failed 22 a q
        | .inl (.wait _) | .inr (.wait _) => s.unstart n
        | .inl (.ok _) => s

/-- PREEMPT: with abandon 0 the context is no longer ready and its cores switch at their boundaries; with abandon 1 its LAUNCH
is abandoned (R312, R313). -/
def execPreempt (n : Nat) (s : State) : Host.Outcome State Fault Refusal :=
  s.hostCommand n 0x42 fun q s =>
    let m := pkPart q.packet
    let c := pkCtx q.packet
    match s.ctx m c with
    | none => s
    | some x =>
      if bit (pk q.packet 16 1) 0 then
        if x.launch.isNone && x.abandon.isNone then s.finish n stOk 0
        else s.abandon m c (if x.abandon = some .destroy then .destroy else .preempt)
      else
        let gs := x.coreList.filter fun g => s.stillRuns m c g
        let s := s.stopAll m c x true
        let s := s.modCtx m c fun x => { x with preempted := true, preempting := gs }
        if gs.isEmpty then (s.finish n stOk 0).settleAll x.coreList
        else gs.foldl (fun (s : State) g => s.runDown g) s

/-- RESUME: a pre-empted context is ready again (R312). -/
def execResume (n : Nat) (s : State) : Host.Outcome State Fault Refusal :=
  s.hostCommand n 0x43 fun q s =>
    let m := pkPart q.packet
    let c := pkCtx q.packet
    match s.ctx m c with
    | none => s
    | some x => (((s.modCtx m c fun x => { x with preempted := false }).finish n stOk 0).settleAll x.coreList).settleBridges

/-- CONTEXT_CREATE: the context takes the lowest free index and its placement (R304, R305, R332). -/
def execContextCreate (n : Nat) (s : State) : Host.Outcome State Fault Refusal :=
  s.hostCommand n 0x20 fun q s =>
    let p := q.packet
    let m := pkPart p
    match s.placement m p with
    | none => s.finish n stNoResource 0
    | some mask =>
      let gen := ((s.part m).created + 1) % 2 ^ 32
      let i := lowestFree ((s.part m).ctxs.map (·.1)) 64 0
      let x : Ctx := {
        gen := gen, realTime := bit (pk p 16 1) 0, prio := field (pk p 16 1) 3 1, gmask := mask
        quantum := pk p 20 4, spBase := pk p 24 2, spUnits := if pk p 26 2 = 0 then 0x10000 else pk p 26 2
        lsMask := pk p 28 1, replayBase := pk p 30 2, replayUnits := if pk p 32 2 = 0 then 0x10000 else pk p 32 2
        vbase := pk p 34 6, waitBound := pk p 40 4, saveBase := pk p 44 6, fromFn := q.fn }
      let s := s.modPart m fun r => { r with created := gen, ctxs := Tab.insert i x r.ctxs }
      s.finish n stOk (i + mask * 2 ^ 16 + gen * 2 ^ 32)

/-- CONTEXT_DESTROY: a LAUNCH in progress is abandoned and completes with ABORTED first; then the context is destroyed
(R333). -/
def execContextDestroy (n : Nat) (s : State) : Host.Outcome State Fault Refusal :=
  s.hostCommand n 0x21 fun q s =>
    let m := pkPart q.packet
    let c := pkCtx q.packet
    match s.ctx m c with
    | none => s
    | some x =>
      if x.launch.isNone && x.abandon.isNone && !(x.coreList.any fun g => s.stillRuns m c g) then
        (s.destroyCtx m c n).finish n stOk 0
      else s.abandon m c .destroy

/-- STEP_BEGIN: sets the step counter and the seed, opens the step, and releases cores held at the step before (R113, R336). -/
def execStepBegin (n : Nat) (s : State) : Host.Outcome State Fault Refusal :=
  s.hostCommand n 0x50 fun q s =>
    let m := pkPart q.packet
    let c := pkCtx q.packet
    let num := BitVec.ofNat 64 (pk q.packet 16 8)
    match s.ctx m c with
    | none => s
    | some x =>
      let s := s.modCtx m c fun x => { x with
        step := num, seed := BitVec.ofNat 64 (pk q.packet 24 8), stepOpen := true, passed := [] }
      let s := s.modRes m fun r => { r with folded := r.folded.erase c, foldPre := r.foldPre.erase c }
      let s := s.restartRecords m c
      let s := x.coreList.foldl (fun (s : State) g =>
        let s := s.modCtxCore m c g fun y => { y with held := if y.held.any (· + 1 == num) then none else y.held }
        let k := s.core g
        if k.part = m && k.ctx = some c && k.lastStep.any (· + 1 == num) then
          s.modCore g fun k => { k with lastStep := none, state := if k.state = .held then .issuing else k.state }
        else s) s
      ((s.finish n stOk 0).settleAll x.coreList).settleBridges

/-- Whether the schedule record that a STEP_END captures has to wait for a page that moves or drains (R228). -/
def State.captureWaits (s : State) (n c : Nat) (x : Ctx) (k : Ckpt) : Bool :=
  let seqs := if bit (s.planFlags n) 0 then s.savedSeqs n c else []
  match s.devCheckWrite n .plain (s.planSched n) (s.scheduleRecord n c x k.id seqs).length with
  | .wait _ => true
  | _ => false

/-- STEP_END: completes once every core has passed the step and, where the context has sequences, its fold has written the
views; then the step's checkpoint is captured, its pieces are released and its step record is shipped (R18, R156, R336). -/
def execStepEnd (n : Nat) (s : State) : Host.Outcome State Fault Refusal :=
  s.hostCommand n 0x51 fun q s =>
    let m := pkPart q.packet
    let c := pkCtx q.packet
    match s.ctx m c with
    | none => s
    | some x =>
      let folded := (s.resPart m).folded.find c == some x.step
      let due := (s.openCkpt m c).filter fun k => !k.captured && decide (k.openedAt ≤ n)
      if !x.stepPassed || x.step.toNat != pk q.packet 16 8 || (s.hasSeqs m c && !folded) || s.viewsPending m c || s.scrAway m c || due.any (s.captureWaits m c x) then
        s.unstart n
      else
        let s := match due with
          | some k => s.capture m c k
          | none => s
        let s := (s.shipStep m c).restartRecords m c
        let s := s.scrStepEnd m c x.step
        let s := s.modCtx m c fun x => { x with
          stepOpen := false, segPins := x.segPins.filter fun p => p.step != x.step }
        let pre := if folded then Tab.get 0 (s.resPart m).foldPre c else 0
        (s.finish n stOk pre).settleDrain

/-! ### Capo's events -/

/-- A frame is switched: the full image is abandoned, and the cheaper model will run for the same frame (R316, R317). -/
def State.capoSwitch (s : State) (j kind milestone t p : Nat) : State :=
  match (s.job j).frame with
  | none => s
  | some fr =>
    let s := s.modJob j fun b => { b with cheap := true, switches := satAdd 8 b.switches 1 }
    let s := s.capoEntry j fr.number kind milestone t p
    let b := s.job j
    match s.ctx b.part b.ctx with
    | none => s
    | some x => if x.abandon.isNone then s.abandon b.part b.ctx (.capo j) else s

/-- CAPO_MILESTONE: Capo learns that the next milestone is reached, and projects the frame's finish (R315, R316). -/
def execCapoMilestone (j : Nat) (s : State) : Host.Outcome State Fault Refusal :=
  if s.off then .next s else
  let b := s.job j
  match b.frame with
  | none => .next s
  | some fr =>
    match b.rec_.milestones[fr.reached]? with
    | none => .next s
    | some (v, w) =>
      if (s.counter b.rec_.mctr - fr.c0).toInt < (v : Int) then .next s
      else
        let (k, s) := s.draw
        let t := Config.elapsedCycles k
        let p := t * 65536 / max 1 w
        let s := s.modJob j fun b => { b with frame := some { fr with reached := fr.reached + 1 } }
        if b.cheap || fr.cheap || p ≤ b.rec_.budget then .next s
        else .next ((s.capoSwitch j 0 fr.reached (t % 2 ^ 32) (p % 2 ^ 32)).settleBridges)

/-- CAPO_DEADLINE: the deadline passes with the frame unfinished: a full frame is switched; any other will be a miss when it
finishes (R316). -/
def execCapoDeadline (j : Nat) (s : State) : Host.Outcome State Fault Refusal :=
  if s.off then .next s else
  let b := s.job j
  match b.frame with
  | none => .next s
  | some fr =>
    if fr.late then .next s
    else
      let s := s.modJob j fun b => { b with frame := some { fr with late := true } }
      if b.cheap || fr.cheap then .next s
      else .next ((s.capoSwitch j 1 0xFF (b.rec_.budget % 2 ^ 32) 0).settleBridges)

/-- The job record (R314). -/
def capoRecord (bs : List Byte) : CapoRec :=
  { budget := leAt bs 0 4, recoverSlack := leAt bs 4 4, recoverFrames := leAt bs 8 1, mctr := leAt bs 0x0C 4 % 2 ^ 17
    fullImg := leAt bs 0x10 8, cheapImg := leAt bs 0x18 8, logBase := leAt bs 0x20 8, logEntries := leAt bs 0x28 4
    milestones := (List.range (min 15 (leAt bs 9 1))).map fun i => (leAt bs (0x40 + 8 * i) 4, leAt bs (0x44 + 8 * i) 4) }

/-- CAPO_ENABLE: a write of HUB_CAPO_CFGj. Setting enable reads the record and starts at frame 0 in full mode (R314, R318). -/
def execCapoEnable (j value : Nat) (s : State) : Host.Outcome State Fault Refusal :=
  if s.off then .next s else
  if 16 ≤ j then .next s
  else
    let on := bit value 63
    let old := s.job j
    let s := s.modJob j fun b => { b with
      enable := on, part := field value 61 58, ctx := field value 57 52, record := alignDown (field value 40 0) 64 }
    if !on || old.enable then .next s
    else
      let b := s.job j
      match s.devRead b.part .plain .newest b.record 256 with
      | .ok bs => .next (s.modJob j fun b => { b with
          rec_ := capoRecord bs, cheap := false, nextFrame := 0, frame := none, slacks := [] })
      | .bad a p => .next ((s.noteFault b.part 9 a p).modJob j fun b => { b with enable := false })
      | .wait _ => .next (s.modJob j fun b => { b with enable := false })

end Sys2Proof.Machine
end

