-- ==== Sys2Proof/Machine/Security.lean ====
section
/-! DEFINITION. The security engine: firmware staging (R436 to R439), measurements and SPDM (R441 to R443), ATTEST (R444),
debug unlock (R445 to R447), DEBUG_READ_ACC (R88) and the management sideband (R463). -/

namespace Sys2Proof.Machine

/-- The security engine changed. -/
def State.modSec (s : State) (f : Sec → Sec) : State := { s with sec := f s.sec }

/-- The bytes of a number, most significant first. -/
def bytesBE (n v : Nat) : List Byte := (toLE n v).reverse
/-- A digest as SM3 writes it. -/
def digestBytes (d : BitVec 256) : List Byte := bytesBE 32 d.toNat

/-! ### Firmware images (R436, R437) -/

/-- sec_version of an image. -/
def imgSec (img : List Byte) : Nat := leAt img 0x0A 1
/-- fw_version of an image. -/
def imgFw (img : List Byte) : Nat := leAt img 0x08 2
/-- body_bytes of an image. -/
def imgBody (img : List Byte) : Nat := leAt img 0x04 4

/-- The bytes of the first DER element of a list: its tag, its length in the short or the long form, and its contents. PRESUMED: DER is
that of X.690 (log 194). -/
def derLength (bs : List Byte) : Nat :=
  let l := leAt bs 1 1
  if l < 0x80 then 2 + l else 2 + (l - 0x80) + ofLE (((bs.drop 2).take (l - 0x80)).reverse)
/-- The certificates of an image: the product CA's, and the firmware signing certificate (R436). -/
def imgCerts (img : List Byte) : List Byte × List Byte :=
  let cs := (img.drop 0x100).take (min (leAt img 0x0C 4) 3712)
  (cs.take (derLength cs), cs.drop (derLength cs))
/-- The certificates of an image and its signature over bytes 0x000 to 0xF7F verify (R437). -/
def imageSigned (img : List Byte) : Bool :=
  let (ca, signer) := imgCerts img
  Config.certVerifies Config.rootKey ca && Config.certVerifies (Config.certKey ca) signer && Config.certSignsFirmware signer
    && Config.sm2Verifies (Config.certKey signer) (img.take 0xF80) ((img.drop 0xF80).take 64)

/-- An image is valid against a fuse counter (R437). -/
def imageValid (fuses : Nat) (img : List Byte) : Bool :=
  leAt img 0 4 == 0x4E465701 && imageSigned img
    && digestBytes (Config.sm3 ((img.drop 0x1000).take (imgBody img))) == (img.drop 0x20).take 32
    && decide (imgSec img ≤ 64) && decide (fuses ≤ imgSec img)

/-- The slot that FW_STAGE writes (R439). -/
def State.targetSlot (s : State) : Nat := if s.boot.recovery then 1 - s.flash.activeSlot else 1 - s.boot.slot

/-- A boot slot's bytes changed. -/
def State.modSlot (s : State) (i : Nat) (f : Mem → Mem) : State :=
  let slots := (List.range 2).map fun j => let m := s.flash.slots.getD j []; if j = i then f m else m
  { s with flash := { s.flash with slots := slots } }

/-- The image that a slot holds: its header and its body, at most the slot. -/
def State.slotImage (s : State) (i : Nat) : List Byte :=
  let m := s.flash.slots.getD i []
  let body := ofLE (m.read 4 4)
  m.read 0 (0x1000 + min body (s.slotBytes - 0x1000))

/-- FW_STAGE: erases the target slot, programs it from host memory, reads it back and checks it (R439). -/
def execFwStage (n : Nat) (s : State) : Host.Outcome State Fault Refusal :=
  s.hostCommand n 0xC0 fun c s =>
    let slot := s.targetSlot
    let s := s.modSlot slot fun _ => []
    match s.fnRead c.fn (pk c.packet 16 8) (pk c.packet 24 4) with
    | none => (s.modSec fun x => { x with stageValid := false, stageSlot := slot }).hostReadFailed n
    | some img =>
      let s := s.modSlot slot fun _ => Mem.write [] 0 img
      let ok := imageValid s.sec.fuses (s.slotImage slot)
      let s := s.modSec fun x => { x with
        stageSlot := slot, stageSec := imgSec img, stageFw := imgFw img, stageValid := ok
        evStageFail := x.evStageFail || !ok
        stageFails := if ok then x.stageFails else satAdd 16 x.stageFails 1 }
      if ok then s.finish n stOk 0 else (s.modSlot slot fun m => m.clear 0 0x10000).finish n stSecurity 0

/-! ### Measurements (R441) -/

/-- Measurement 2: of zeros before stage 8 and in recovery mode (R442). -/
def State.measurement2 (s : State) : BitVec 256 :=
  Config.sm3 (if s.boot.stage = 5 then padTo 4096 s.boot.image else fill 4096 0)

/-- Measurement 3: of what stage 5 has broadcast. -/
def State.measurement3 (s : State) : BitVec 256 := Config.sm3 s.boot.engine

/-! ### The alias key and its certificate (R434, R435) -/

/-- The order of the SM2 group. PRESUMED: the manual names it; its value is that of GB/T 32918.5 (log 194). -/
def sm2Order : Nat := 0xFFFFFFFEFFFFFFFFFFFFFFFFFFFFFFFF7203DF6B21C6052B53BBF40939D54123
/-- The key derivation function of GB/T 32918 for 256 bits: SM3 of the input and the counter 1. PRESUMED: the standard's (log 194). -/
def kdf256 (z : List Byte) : Nat := (Config.sm3 (z ++ bytesBE 4 1)).toNat
/-- The alias private key of a device key and measurements 2 and 3. -/
def aliasScalar (key m2 m3 : BitVec 256) : BitVec 256 :=
  BitVec.ofNat 256 (1 + kdf256 (digestBytes key ++ digestBytes m2 ++ digestBytes m3) % (sm2Order - 2))

/-- Stage 7: the security engine derives the alias key from the measurements of the booted image and issues the alias certificate, which
the device key signs. Without a device key there is neither. -/
def State.issueAlias (s : State) : State :=
  match s.sec.deviceKey with
  | none => s
  | some key =>
    let (k, s) := s.draw
    let m2 := Config.sm3 (padTo 4096 s.boot.image)
    let d := aliasScalar key m2 s.measurement3
    let tbs := Config.aliasTbs (Config.sm2Public d) (digestBytes m2 ++ digestBytes s.measurement3)
    s.modSec fun x => { x with
      aliasKey := some d, aliasOk := true, aliasCert := Config.certificate tbs (Config.sm2Sign k key tbs) }

/-- The certificate chain of slot 0: from the product CA's certificate to the alias certificate, which exists from stage 8 on (R442). -/
def Sec.chain (x : Sec) : List Byte := x.caCert ++ x.idCert ++ x.aliasCert

/-- The 32 bytes of a measurement; raw values are zero-extended. -/
def State.measurement (s : State) (i : Nat) : List Byte :=
  match i with
  | 1 => digestBytes Config.romDigest
  | 2 => digestBytes s.measurement2
  | 3 => digestBytes s.measurement3
  | 4 => toLE 32 s.sec.fuses
  | 5 => toLE 32 s.sec.debug
  | _ => toLE 32 (s.partCode * 256 + Config.stepping.toNat)

/-- Bytes of a measurement as R441 gives its form. -/
def measureBytes (i : Nat) : Nat := if i ≤ 3 then 32 else if i ≤ 5 then 1 else 2

/-- The report of R444 but for its signature. -/
def State.report (s : State) (f : Nat) (nonce : List Byte) : List Byte :=
  toLE 4 0x4E415401 ++ toLE 4 312 ++ toLE 8 s.sec.devId ++ padTo 32 nonce ++ toLE 1 f
    ++ toLE 1 (if f ≥ 2 then f - 2 else 0xFF) ++ fill 2 0
    ++ (rangeFrom 1 6).flatMap s.measurement ++ fill 4 0

/-- ATTEST: writes the signed report (R444). -/
def execAttest (n : Nat) (s : State) : Host.Outcome State Fault Refusal :=
  s.hostCommand n 0xD0 fun c s =>
    let (k, s) := s.draw
    let r := s.report c.fn ((c.packet.drop 28).take 32)
    let sig := bytesBE 64 (Config.sm2Sign k (s.sec.aliasKey.getD 0) r).toNat
    let s := s.fnWrite c.fn (pk c.packet 16 8) (r ++ sig)
    (s.modSec fun x => { x with attests := satAdd 16 x.attests 1 }).finish n stOk 312

/-! ### Debug (R445 to R447, R88) -/

/-- DEBUG_UNLOCK op 0: a fresh challenge replaces any earlier one. -/
def State.debugChallenge (s : State) (c : Cmd) : State :=
  let (k, s) := s.draw
  let r := toLE 8 s.sec.devId ++ bytesBE 32 (Config.random k).toNat ++ toLE 8 (s.measurement2.toNat % 2 ^ 64)
    ++ toLE 1 s.sec.fuses ++ fill 15 0
  let s := s.modSec fun x => { x with challenge := some r }
  (s.fnWrite c.fn (pk c.packet 24 8) r).finish c.number stOk 64

/-- The certificate of a response verifies under the product CA and carries the usage, and its key has signed the response (R446). -/
def Sec.accepts (x : Sec) (r : List Byte) : Bool :=
  let field := (r.drop 64).take 896
  let cert := field.take (derLength field)
  Config.certVerifies (Config.certKey x.caCert) cert && Config.certAllowsDebug cert
    && Config.sm2Verifies (Config.certKey cert) (r.take 960) ((r.drop 960).take 64)

/-- DEBUG_UNLOCK op 1: a response consumes the challenge; the third failure locks debug out (R446). -/
def State.debugResponse (s : State) (c : Cmd) : State :=
  match s.fnRead c.fn (pk c.packet 24 8) 1024 with
  | none => s.hostReadFailed c.number
  | some r =>
    let ok := s.sec.challenge == some (r.take 64) && s.sec.accepts r
    let s := s.modSec fun x => { x with challenge := none }
    if ok then (s.modSec fun x => { x with debug := 1, evUnlock := true }).finish c.number stOk 0
    else
      let s := s.modSec fun x => { x with
        failures := x.failures + 1, unlockFails := satAdd 16 x.unlockFails 1, evUnlockFail := true
        debug := if 3 ≤ x.failures + 1 then 2 else x.debug }
      s.finish c.number stSecurity 0

/-- DEBUG_UNLOCK: challenge, response or relock; a relock waits for every DEBUG_READ_ACC accepted before it (R445 to R447). A relock of
a package that is locked out shows locked again, and challenges and responses stay refused (R446). -/
def execDebugUnlock (n : Nat) (s : State) : Host.Outcome State Fault Refusal :=
  s.hostCommand n 0xD1 fun c s =>
    match pk c.packet 16 1 with
    | 0 => s.debugChallenge c
    | 1 => s.debugResponse c
    | _ =>
      if s.hub.accepted.any fun x => x.opcode == 0xE0 && decide (x.number < n) then s.unstart n
      else (s.modSec fun x => { x with debug := 0 }).finish n stOk 0

/-- DEBUG_READ_ACC: both accumulator banks of an engine go to host memory (R88). -/
def execDebugReadAcc (n : Nat) (s : State) : Host.Outcome State Fault Refusal :=
  s.hostCommand n 0xE0 fun c s =>
    let e := pk c.packet 16 2 % 2 ^ 10
    (s.fnWrite c.fn (pk c.packet 24 8) (s.mems.acc.read (e * 2 ^ 15) 0x8000)).finish n stOk 0

/-! ### SPDM (R433, R442, R443) -/

/-- An SPDM request is answered with an error. -/
def State.spdmError (s : State) : State := s.modSec fun x => { x with spdmErrors := satAdd 16 x.spdmErrors 1 }

/-- A request that needs a signature. -/
def spdmSigns : Spdm → Bool
  | .challenge | .keyExchange | .measurements true => true
  | _ => false

/-- The algorithms that R442 supports; a negotiation needs each of them. -/
def spdmAlgs : List SpdmAlg := [.sm2Signature, .sm3Hash, .sm2KeyExchange, .sm4Gcm, .sm3Measurement]

/-- An IDE stream. -/
def Sec.ideStream (x : Sec) (stream : Nat) : IdeStream := Tab.get {} x.ide stream
/-- A stream takes an IDE message: a 256-bit key for the next KEY_SET_GO, on CXL.cachemem in containment mode only; KEY_SET_GO brings it
into use in place of any other; `none` where R443 does not support it. -/
def IdeStream.take (i : IdeStream) (stream : Nat) : IdeMessage → Option IdeStream
  | .program containment key => if key.length = 32 && (stream = 0 || containment) then some { i with next := some key } else none
  | .setGo => i.next.map fun k => { next := none, active := some k }
  | .setStop => some { i with active := none }

/-- SPDM_REQUEST: PF0's mailbox answers; sessions and IDE keys change (R442, R443). A request before the connection has been
negotiated, and one that needs a signature while there is no key or no alias certificate, is an error. -/
def execSpdmRequest (r : Spdm) (s : State) : Host.Outcome State Fault Refusal :=
  if s.off then .next s else
  let x := s.sec
  if spdmSigns r && !(x.keyOk && x.aliasOk) then .next s.spdmError
  else match r with
  | .malformed => .next s.spdmError
  | .version => .next (s.modSec fun x => { x with negotiated := false, handshakes := 0 })
  | .capabilities => .next s
  | .algorithms offered =>
    if spdmAlgs.all offered.contains then .next (s.modSec fun x => { x with negotiated := true }) else .next s.spdmError
  | .digests =>
    .next (if x.negotiated then s.modSec fun x => { x with answer := digestBytes (Config.sm3 x.chain) } else s.spdmError)
  | .certificate slot =>
    .next (if x.negotiated && slot = 0 then s.modSec fun x => { x with answer := x.chain } else s.spdmError)
  | .challenge => .next (if x.negotiated then s else s.spdmError)
  | .measurements _ =>
    if x.negotiated then
      .next (s.modSec fun x => { x with answer := (rangeFrom 1 6).flatMap fun i => (s.measurement i).take (measureBytes i) })
    else .next s.spdmError
  | .keyExchange =>
    if x.negotiated && decide (x.sessions + x.handshakes < 2) then
      .next (s.modSec fun x => { x with handshakes := x.handshakes + 1 })
    else .next s.spdmError
  | .finish ok =>
    if x.handshakes = 0 then .next s.spdmError
    else if ok then .next (s.modSec fun x => { x with handshakes := x.handshakes - 1, sessions := x.sessions + 1 })
    else .next (s.spdmError.modSec fun x => { x with handshakes := x.handshakes - 1 })
  | .endSession =>
    if x.sessions = 0 then .next s.spdmError else .next (s.modSec fun x => { x with sessions := x.sessions - 1 })
  | .keyUpdate | .heartbeat => .next (if x.sessions = 0 then s.spdmError else s)
  | .ideKey stream m =>
    if x.sessions = 0 || decide (1 < stream) then .next s.spdmError
    else match (x.ideStream stream).take stream m with
      | none => .next s.spdmError
      | some i => .next (s.modSec fun x => { x with ide := Tab.set {} x.ide stream i })

/-- SIDEBAND_MESSAGE: an I3C controller assigns a dynamic address, which the device then answers at; without one it answers at its static
address over SMBus. It answers only while the hub is powered; the answer's bytes are not the manual's (R431, R463). -/
def execSidebandMessage (m : Sideband) (s : State) : Host.Outcome State Fault Refusal :=
  if s.off then .next s else
  match m with
  | .assign a => .next (s.modSec fun x => { x with sbDynamic := some a })
  | .mctp a _ =>
    if a = s.sec.sbDynamic.getD s.sec.sbAddr then .next (s.modSec fun x => { x with sbAnswers := x.sbAnswers + 1 }) else .next s

end Sys2Proof.Machine
end

