-- ==== Sys2Proof/Machine/Partition.lean ====
section
/-! DEFINITION. Partitions (R300 to R303), function-level resets (R341, R342), programs (R335) and host reads that fail (R320). -/

namespace Sys2Proof.Machine

/-! ### Partition reset (R303) -/

/-- Commands of a partition that are in flight, but for the one that resets it. -/
def State.inFlight (s : State) (n : Nat) (self : Option Nat) : List Nat :=
  (s.hub.accepted.filter fun q => s.cmdPart q.packet == some n && some q.number != self).map (·.number)

/-- Sources that are active for a core of a mask are completed (R354). -/
def State.completeFor (s : State) (gs : List Nat) : State :=
  gs.foldl (fun (s : State) g =>
    ((s.bridge (dieOf g)).active.filter fun e => e.2 == g % 64).foldl (fun (s : State) (e : Nat × Nat) =>
      s.completeSource (dieOf g) e.1) s) s

/-- Frames of Capo jobs of a partition end with their LAUNCHes. -/
def State.dropFrames (s : State) (n : Nat) : State :=
  (List.range 16).foldl (fun (s : State) j => if (s.job j).part = n then s.capoFinish j else s) s

/-- The messages for a partition that the courses hold, those held for its COLLs among them, are answered with PARTITION_GONE, and
their credits returned (R261). -/
def State.dropHeldPart (s : State) (n : Nat) : State :=
  let mine := fun (m : Msg) => m.dst == s.crs.nodeId && m.dstPart == n
  let gone := s.crs.heldColl.filter (fun e => e.2.dstPart == n)
    ++ (List.range 17).flatMap fun c => ((s.port c).arrived.filter mine).map fun m => (c, m)
  let s := { s with crs := { s.crs with
    heldColl := s.crs.heldColl.filter (fun e => e.2.dstPart != n), copies := s.crs.copies.filter (·.part != n) } }
  let s := (List.range 17).foldl (fun (s : State) c => s.modPort c fun p => { p with arrived := p.arrived.filter fun m => !mine m }) s
  gone.foldl (fun (s : State) (e : Nat × Msg) =>
    let s := s.freeCredits e.1 e.2
    if 4 ≤ e.2.vc then s else s.sendRefusal e.2 0) s

/-- Stage 4 of R303: sequencers, units, scratchpads, long-sum buffers and cluster memories of the granules return to their reset
values, and so do the error counters of their clusters. DESIGN CHOICE: the accumulators, which the stage does not list, keep what they
hold. -/
def State.resetCores (s : State) (mask : Nat) : State :=
  let s := s.zeroGranules mask
  let s := (coresOfMask mask).foldl (fun (s : State) g => s.modCore g fun _ => {}) s
  (clustersOfMask mask).foldl (fun (s : State) k => s.modCluster k fun c => { c with cmCorrected := 0, cmUncorrectable := 0 }) s

/-- Stage 6 of R303: the per-partition registers return to their reset values; page mappings are kept. -/
def State.resetPartRegs (s : State) (n : Nat) : State :=
  let s := s.modPart n fun p => { p with
    switches := 0, restores := 0, xcoreWaits := 0, vwinPages := 0, vwinBase := 0, vshdBase := 0, groups := 0, groupBase := 0 }
  let s := s.modPair n fun _ => {}
  s.modJobs fun j => { j with plans := Tab.set 0 j.plans n 0 }

/-- The device ranges that a core's issued descriptor has still to access, as far as a host that does not answer can hold it up. -/
def State.rangesOf (s : State) (g : Nat) (i : Issued) : List (Nat × Nat) :=
  let k := s.core g
  match i.work with
  | .move false _ =>
    let (rd, wr) := s.moveRanges g k.part i.desc { k with sq := i.regs }.sel
    (if M.srcSpace i.desc = 2 then rd else []) ++ (if M.dstSpace i.desc = 2 then wr else [])
  | .update _ => (updRanges i.desc).map fun (a, w) => (a, w * U.count i.desc)
  | .scroll _ => [(Scl.dev i.desc, 64)]
  | .coll _ => [(L.src i.desc, 1), (L.dst i.desc, 1)]
  | _ => []

/-- The first address of a range that lies in host memory. -/
def State.hostAt (s : State) (r : Nat × Nat) : Option Nat :=
  ((pieces r.1 r.2).find? fun (p : Nat × Nat) => eTier (s.entry (pageOf p.1)) == 5).map (·.1)

/-- The address at which an access waits for the host, where it does. -/
def Acc.hostWait {α : Type} (s : State) : Acc α → Option Nat
  | .wait a => s.hostAt (a, 1)
  | _ => none

/-- The address at which a command of the control complex that its row has tried waits for the host (R244). -/
def State.cmdWait (s : State) (q : Cmd) : Option Nat :=
  let p := q.packet
  match q.opcode with
  | 0x32 =>
    let m := pk p 16 1 % 16
    let fl := pk p 40 1
    ((if bit fl 0 then none else (s.devRead m .plain .newest (pk p 20 8) (pk p 36 4)).hostWait s).orElse fun _ =>
      if bit fl 1 then none else (s.devCheckWrite m .plain (pk p 28 8) (pk p 36 4)).hostWait s)
  | 0x40 => (s.devCheckWrite (pkPart p) .plain (pk p 28 6) (64 * pk p 24 4)).hostWait s
  | 0x41 => match s.ctx (pkPart p) (pkCtx p) with
    | some x => match s.readImages (pkPart p) x (pk p 16 6) (pk p 22 6) (bit (pk p 28 1) 0) with
      | .inl (.wait a) | .inr (.wait a) => s.hostAt (a, 1)
      | _ => none
    | none => none
  | _ => none

/-- The requests of a partition that the host has left unanswered, each as the unit that made it and an address: writes that wait,
descriptors and program fetches of its cores, commands that wait, its fold, its swap copies and page moves, its bind copies, and a
drain of its pages (R244, R342). -/
def State.hostWaits (s : State) (n : Nat) : List (Nat × Nat) :=
  let pages := fun (source : Nat) (xs : List Nat) => (xs.filter fun x => eTier (s.entry x) == 5).map fun x => (source, x * pageBytes)
  let late := (s.frt.late.filter (·.part == n)).filterMap fun w => (s.hostAt (w.addr, w.bytes.length)).map fun a => (w.source, a)
  let cores := (coresOfMask (s.part n).gmask).flatMap fun g =>
    let k := s.core g
    ((k.issued.filterMap fun i => (s.rangesOf g i).findSome? s.hostAt)
      ++ (if k.ctx.isSome && k.pc < k.count && k.state == .issuing then ((s.descriptor g k.pc).hostWait s).toList else [])).map
      fun a => (dieOf g, a)
  let cmds := (s.hub.accepted.filter fun q => q.tried && s.cmdPart q.packet == some n).filterMap fun q =>
    (s.cmdWait q).map fun a => (9, a)
  let fold := match (s.resPart n).fold with
    | some f => (s.res.seqs.filter fun q => q.part == n && q.ctx == f.ctx).flatMap fun q =>
        pages 5 (q.allPages ++ [pageOf q.appAddr, pageOf q.viewAddr])
    | none => []
  let swaps := (s.resPart n).swapping.flatMap fun w => pages 5 [w.2.1, w.2.2]
  let moves := (s.frt.moves.filter fun m => ePart (s.entry m.page) == n && (m.tier == 5 || eTier (s.entry m.page) == 5)).map fun m =>
    (4, m.page * pageBytes)
  let copies := (s.crs.copies.filter (·.part == n)).map fun c => (9, c.addr)
  let drains := match s.drainingCkpt with
    | some k => if k.part = n then pages 7 ((k.todo.take 1).map (·.entry)) else []
    | none => []
  let pieces := if s.hub.accepted.any fun q => q.tried && q.opcode == 0x51 && pkPart q.packet == n then
      ((s.scrPart n).pieces.filter fun e => s.chainAway e.1).map fun e => (4, e.1)
    else []
  late ++ cores ++ cmds ++ pieces ++ fold ++ swaps ++ moves ++ copies ++ drains

/-- A reset of a partition abandons the requests that the host has not answered: their requesters see out_of_range, of which the first
is recorded (R229, R342). -/
def State.abandonHost (s : State) (n : Nat) : State :=
  if !s.frt.silent then s
  else match s.hostWaits n with
    | [] => s
    | (source, a) :: _ => s.noteFault n source a false

/-- A partition reset, stage by stage (R303). The commands in flight end first, in acceptance order (R330); `self` is the command that
asks for it. Accesses that wait are discarded. -/
def State.resetPartition (s : State) (n : Nat) (self : Option Nat) : State :=
  let mask := (s.part n).gmask
  let s := (s.abandonHost n).finishAll (s.inFlight n self) stAborted 0
  let s := ((s.completeFor (coresOfMask mask)).dropFrames n).resetCores mask
  let s := s.modFrt fun f => { f with
    claims := f.claims.filter fun e => ePart (s.entry e.1) != n, late := f.late.filter (·.part != n) }
  let s := ((s.resReset n).scrReset n).releasePair n
  let s := s.pegReset n
  let s := s.modPart n fun p => { p with ctxs := [] }
  let s := s.modFills fun fs => fs.filter (·.part != n)
  let s := s.modJobs fun j => { j with reopen := j.reopen.filter (·.part != n) }
  ((s.discardCkpts n none).resetPartRegs n).dropHeldPart n

/-- PARTITION_CREATE: zeroes the granules' memories, sets the partition's registers to their reset values, and enables the
partition (R301). -/
def execPartitionCreate (n : Nat) (s : State) : Host.Outcome State Fault Refusal :=
  s.hostCommand n 0x10 fun q s =>
    let p := q.packet
    let m := pk p 16 1 % 16
    let mask := pk p 18 2
    let s := (s.zeroGranules mask).modPart m fun _ => {
      state := 1, gmask := mask, classF := bit (pk p 17 1) 0, rtQuota := field (pk p 17 1) 3 1 }
    ((((s.modScr m fun _ => {}).modRes m fun _ => {}).resetPartRegs m).finish n stOk 0)

/-- Whether command `n` is a PARTITION_RESET or PARTITION_DESTROY whose reset has begun: its partition. -/
def State.resetting (s : State) (n op : Nat) : Option Nat :=
  if s.off then none
  else match s.cmd n with
  | some q => if q.opcode = op && q.started then some (pk q.packet 16 1 % 16) else none
  | none => none

/-- A reset begins: the partition reads as resetting, and a command that names it ends with ABORTED (R303, R331). -/
def State.beginReset (s : State) (m n : Nat) : State :=
  ((s.resetPartition m (some n)).modPart m fun p => { p with state := 2 }).settleBridges

/-- PARTITION_RESET: the reset begins, and when the row comes again stage 6 ends and it completes with OK (R303). -/
def execPartitionReset (n : Nat) (s : State) : Host.Outcome State Fault Refusal :=
  match s.resetting n 0x12 with
  | some m => .next ((((s.resetPartRegs m).modPart m fun p => { p with state := 1 }).finish n stOk 0).settleBridges.hubFetch)
  | none => s.hostCommand n 0x12 fun q s => s.beginReset (pk q.packet 16 1 % 16) n

/-- PARTITION_DESTROY: a partition reset; then every page that the partition owns is unmapped, once no drain, move or host line
holds it, and the granules are free (R302). -/
def execPartitionDestroy (n : Nat) (s : State) : Host.Outcome State Fault Refusal :=
  match s.resetting n 0x11 with
  | some m =>
    let xs := (s.frt.entry.filter fun e => eValid e.2 && ePart e.2 == m).map (·.1)
    if xs.any fun x => eDrain (s.entry x) || s.frt.pageSnooped x || s.frt.moves.any (·.page == x) then .next s
    else
      let s := xs.foldl (fun (s : State) x => s.unmapPage x) s
      let s := (s.modRes m fun _ => {}).modPart m fun _ => {}
      let s := { s with crs := { s.crs with hands := s.crs.hands.filter (·.dstPart != m) } }
      .next ((s.finish n stOk 0).settleBridges.hubFetch)
  | none => s.hostCommand n 0x11 fun q s => s.beginReset (pk q.packet 16 1 % 16) n

/-! ### Programs (R335) -/

/-- LOAD_PROGRAM: descriptors are copied from host memory to device memory. -/
def execLoadProgram (n : Nat) (s : State) : Host.Outcome State Fault Refusal :=
  s.hostCommand n 0x40 fun q s =>
    let p := q.packet
    let m := pkPart p
    match s.fnRead q.fn (pk p 16 8) (64 * pk p 24 4) with
    | none => s.hostReadFailed n
    | some bs =>
      match s.devWrite m .plain (pk p 28 6) bs with
      | .ok s => s.finish n stOk 0
      | .bad a r => (s.noteFault m 9 a r).finish n (if r then stMemPoison else stBadParam) (if r then 0 else 28)
      | .wait _ => s.unstart n

/-! ### Function-level resets (R341, R342) -/

/-- A function's queues and registers return to their reset values, and its queue-pair sources are completed (R341, R354). -/
def State.resetFn (s : State) (f : Nat) : State :=
  let ss := ((s.bridge 4).active.map (·.1)).filter fun i => decide (32 * f ≤ i ∧ i < 32 * f + 32)
  let s := s.modFn f fun _ => {}
  ss.foldl (fun (s : State) i => s.completeSource 4 i) s

/-- Commands accepted from functions write no more status (R341). -/
def State.silence (s : State) (fs : List Nat) : State :=
  { s with hub := { s.hub with accepted := s.hub.accepted.map fun q => if fs.contains q.fn then { q with silent := true } else q } }

/-- What is left of the commands of functions ends. -/
def State.dropCmds (s : State) (fs : List Nat) : State :=
  { s with hub := { s.hub with accepted := s.hub.accepted.filter fun q => !fs.contains q.fn } }

/-- A reset of functions with the partitions behind them. -/
def State.resetFns (s : State) (fs ns : List Nat) : State :=
  let s := s.silence fs
  let ns := ns.filter fun n => (s.part n).state != 0
  let s := s.finishAll (ns.flatMap fun n => s.inFlight n none) stAborted 0
  let s := ns.foldl (fun (s : State) n =>
    (s.resetPartition n none).modPart n fun p => { p with state := 1 }) s
  fs.foldl (fun (s : State) f => s.resetFn f) (s.dropCmds fs)

/-- Commands of PF0 that a reset of PF0 stops at a 4 KiB boundary (R341). -/
def stopsAtReset : List Nat := [0x83, 0x84, 0xC0, 0xA1, 0xE0]

/-- A FW_STAGE that ends before its image is whole has erased its slot, which then holds no valid image (R439, R440, R448). -/
def State.cutStaging (s : State) (q : Cmd) : State :=
  if q.opcode != 0xC0 then s
  else
    let slot := s.targetSlot
    (s.modSlot slot fun _ => []).modSec fun x => { x with stageSlot := slot, stageValid := false }

/-- FUNCTION_LEVEL_RESET: of a virtual function, with its partition; of PF1, with every virtual function and partition; of PF0,
whose commands run on in silence; and the clearing of VF Enable (R341). Before stage 8 it has no effect (R379). A FW_STAGE that it stops leaves its slot invalid
(R439). -/
def execFunctionLevelReset (t : ResetTarget) (s : State) : Host.Outcome State Fault Refusal :=
  if s.off || s.boot.stage != 5 then .next s else
  let vfs := rangeFrom 2 16
  match t with
  | .vf k => if 1 ≤ k && k ≤ 16 then .next ((s.resetFns [k + 1] [k - 1]).settleBridges) else .next s
  | .vfEnableCleared =>
    let s := s.resetFns vfs (List.range 16)
    .next ({ s with hub := { s.hub with vfEnable := false } }.settleBridges)
  | .pf1 =>
    let s := s.resetFns (1 :: vfs) (List.range 16)
    .next ({ s with hub := { s.hub with vfEnable := false } }.settleBridges)
  | .pf0 =>
    let s := s.silence [0]
    let s := match s.hub.accepted.find? fun q => q.fn == 0 && q.opcode == 0xC0 with
      | some q => s.cutStaging q
      | none => s
    let s := { s with hub := { s.hub with
      accepted := s.hub.accepted.filter fun q => !(q.fn == 0 && stopsAtReset.contains q.opcode) } }
    .next ((s.resetFn 0).settleBridges)

/-- VF_ENABLE: the host sets VF Enable, and virtual functions answer (R341). -/
def execVfEnable (s : State) : Host.Outcome State Fault Refusal :=
  if s.off then .next s else
  .next { s with hub := { s.hub with vfEnable := true } }

/-! ### Host reads that time out (R320) -/

/-- Opcodes whose commands read host memory over CXL.io. -/
def readsHost (p : List Byte) : Bool :=
  let op := pkOpcode p
  [0x40, 0x84, 0xC0].contains op || (op == 0x30 && pk p 17 1 % 8 == 5 && !bit (pk p 18 1) 0)
    || op == 0x60 || (op == 0x32 && bit (pk p 40 1) 0) || (op == 0xD1 && pk p 16 1 == 1)

/-- COMMAND_FETCH_TIMEOUT: a host read passes the Completion Timeout: a fetch puts its queue into error state 2, a bitstream read
makes its sample void with reason 4, and any other read ends its command with ABORTED, detail 1 (R320). DESIGN CHOICE: the failure of
the control firmware on a command, which the table gives no row, comes by this row too: INTERNAL with the firmware's code, and a
life-log entry; what the command has touched stays as it stands (R339, R400, log 188). -/
def execCommandFetchTimeout (r : HostRead) (s : State) : Host.Outcome State Fault Refusal :=
  if s.off then .next s else
  match r with
  | .fetch f q =>
    if f < numFns && q < 32 && s.readable f q then
      .next (s.modQueue f q fun x => { x with error := if x.error = 0 then 2 else x.error })
    else .next s
  | .sample pipe =>
    match s.inPipe pipe with
    | some (q, x) => .next ((s.voidSample q x 4 pipe).settleBridges)
    | none => .next s
  | .command n =>
    match s.cmd n with
    | some q => if readsHost q.packet then .next (((s.cutStaging q).hostReadFailed n).hubFetch) else .next s
    | none => .next s
  | .firmware n code => match s.cmd n with
    | some q => .next (((s.finish n 0xFF code).logRecord 6 (toLE 2 q.opcode ++ toLE 2 0 ++ toLE 8 code)).hubFetch)
    | none => .next s

/-- What the link can train to (R319): ×16, ×8 or ×4, at 64, 32, 16 or 8 GT/s, with 68-byte flits at 32 GT/s and below only. Which of
them a training ends at is a free value. -/
def trainedLink (free : Nat) : CxlLink where
  lanes := [16, 8, 4].getD (field free 1 0) 16
  rate := [64, 32, 16, 8].getD (field free 3 2) 64
  flit68 := bit free 4 && field free 3 2 != 0

/-- CXL_LINK_UP: the link to the host has trained, or has recovered, and is up (R319, R382). The requests that the host had left
unanswered complete (R244). -/
def execCxlLinkUp (s : State) : Host.Outcome State Fault Refusal :=
  if s.off then .next s
  else
    let t := { s with fresh := s.fresh + 1, boot := { s.boot with cxl := some (trainedLink (Config.value s.fresh).toNat) } }
    if !s.frt.silent then .next t
    else .next (((((t.modFrt fun f => { f with silent := false }).flushLate).sendLate).settleAll (List.range numCores)).settleBridges)

end Sys2Proof.Machine
end

