-- ==== Sys2Proof/Machine/BringUp.lean ====
section
/-! DEFINITION. Reset and bring-up (R378 to R394), power loss (R431, R459), clock loss (R461) and FW_ACTIVATE (R440). -/

namespace Sys2Proof.Machine

/-! ### Capability registers (R394) -/

/-- The state with the bring-up registers changed. -/
def State.modBoot (s : State) (f : Boot → Boot) : State := { s with boot := f s.boot }

/-- The capability registers hold their values from stage 7 on, and in recovery mode; they read 0 before, and after a halt
(R394). -/
def State.shown (s : State) (v : Nat) : Nat := if s.boot.stage < 4 || s.boot.stage = 7 then 0 else v
/-- HUB_CAP0. -/
def State.cap0 (s : State) : Nat := s.shown <|
  s.partCode * 2 ^ 56 + Config.stepping.toNat * 2 ^ 48 + s.boot.fwVersion * 2 ^ 32 + s.boot.secVersion * 2 ^ 24
    + Config.romVersion.toNat * 2 ^ 16 + s.boot.slot * 2 + ofBool s.boot.recovery
/-- HUB_CAP1. -/
def State.cap1 (s : State) : Nat := s.shown <|
  s.boot.pipeOk * 2 ^ 48 + s.boot.vaultLive * 2 ^ 40 + s.boot.vaultLost * 2 ^ 32
    + ofBool s.hasPegbox * 8 + ofBool s.hasPegbox * 4 + ofBool s.hasVault * 2 + ofBool s.hasLpddr
/-- HUB_CAP2. -/
def State.cap2 (s : State) : Nat := s.shown <|
  s.boot.lpLive * 2 ^ 48 + s.boot.lpLost * 2 ^ 32 + s.boot.lpGroups * 2 ^ 28 + s.boot.hbmLost * 2 ^ 12 + s.boot.hbmLive
/-- The courses in a state, as a mask. -/
def State.coursesIn (s : State) (st : Nat) : Nat := maskOf ((List.range 16).filter fun c => (s.port c).state == st)
/-- HUB_CAP3. -/
def State.cap3 (s : State) : Nat := s.shown <|
  s.coursesIn 1 * 2 ^ 48 + s.coursesIn 3 * 2 ^ 32 + s.boot.granuleOk * 2 ^ 16 + s.boot.path * 2 ^ 6

/-! ### Hidden repair (R392) -/

/-- The physical units that serve, in order: those that repair has not taken out. Unit `k` of the list serves logical unit `k`. DESIGN
CHOICE: which logical unit a physical one serves is not given; nothing reports it (R393). -/
def serving (physical : Nat) (out : List Nat) : List Nat := (List.range physical).filter fun i => !out.contains i
/-- The physical cluster of a die that serves a logical one. -/
def RepairMap.cluster (m : RepairMap) (d k : Nat) : Nat := (serving 9 [m.unused.getD d 8]).getD k 8
/-- The physical cell column that serves column `j` of an engine. -/
def RepairMap.column (m : RepairMap) (e j : Nat) : Nat := (serving 66 (Tab.get [] m.columns e)).getD j 65
/-- The physical bank that serves a scratchpad's bank. -/
def RepairMap.spBank (m : RepairMap) (g b : Nat) : Nat := (serving 66 (Tab.get [] m.spBanks g)).getD b 65
/-- The physical bank that serves a cluster memory's bank. -/
def RepairMap.cmBank (m : RepairMap) (k b : Nat) : Nat := (serving 34 (Tab.get [] m.cmBanks k)).getD b 33

/-- The outcome of a bring-up enters the life log (R400). -/
def State.logBringUp (s : State) : State :=
  s.logRecord 3 (toLE 8 s.cap3 ++ toLE 8 s.cap2 ++ toLE 1 s.boot.stage ++ toLE 1 s.boot.haltCause ++ toLE 1 s.boot.path)

/-! ### What a reset keeps (R9, R10, R431) -/

/-- The serial flash: what it stores (R10). -/
def Flash.kept (f : Flash) : Flash := { capacity := f.capacity, copies := f.copies, slots := f.slots, log := f.log }

/-- The vault: its media, areas and wear (R10, R410). -/
def Vault.kept (v : Vault) : Vault :=
  { areas := v.areas, areaGib := v.areaGib, tables := v.tables, spareAtFormat := v.spareAtFormat, dieBlocks := v.dieBlocks
    blockBytes := v.blockBytes, media := v.media, damaged := v.damaged }

/-- The state after all volatile state is lost. Host memory is the host's; the queue of commands and the counter of free values
are the model's own. -/
def State.lost (s : State) : State :=
  { mems := { host := s.mems.host }, partCode := s.partCode, board := s.board, flash := s.flash.kept, vault := s.vault.kept
    sec := {
      fuses := s.sec.fuses, fuseId := s.sec.fuseId, fuseMap := s.sec.fuseMap, sealedKey := s.sec.sealedKey
      caCert := s.sec.caCert, idCert := s.sec.idCert }
    fresh := s.fresh, pending := s.pending }

/-- What a warm reset keeps besides: the self-test record, the census and full_test, and the clocks that are missing (R9,
R388, R389, R394). -/
def State.warmLost (s : State) : State :=
  { s.lost with boot := {
      record := s.boot.record, census := s.boot.census, recorded := s.boot.recorded, fullTest := s.boot.fullTest
      dead := s.boot.dead } }

/-- A FW_STAGE that is cut off leaves its slot invalid (R439). -/
def State.cutStage (s : State) : State :=
  if s.hub.accepted.any fun q => q.opcode == 0xC0 then s.modSlot s.targetSlot fun _ => [] else s

/-! ### Training (R384) -/

/-- The key of an interface's attempts. -/
def trainKey : TrainIface → Nat
  | .hbm s => s
  | .lp i => 16 + i
  | .vault c => 32 + c

/-- Attempts that an interface has. -/
def trainTries : TrainIface → Nat
  | .hbm _ => 3
  | .lp _ => 3
  | .vault _ => 2

/-- Whether an interface exists, is populated (R464), and is still in training. -/
def State.training (s : State) (t : TrainIface) : Bool :=
  s.boot.stage == 2 && match t with
    | .hbm i => decide (i < 12) && (s.stackReg i).state == 0
    | .lp i => s.hasLpddr && bit s.board.lps i && decide (i < 16) && (s.lpReg i).state == 0
    | .vault c => s.hasVault && decide (c < min 8 s.board.channels) && !bit (s.boot.vaultLive ||| s.boot.vaultLost) c

/-- An interface is lost at bring-up (R384, R400). A group is logged with the first interface that it loses. -/
def State.loseIface (s : State) (t : TrainIface) : State :=
  match t with
  | .hbm i => ((s.modCtl (.hbm i) fun r => { r with state := 2 }).modBoot fun b => { b with
      hbmLost := b.hbmLost ||| 2 ^ i, hbmLive := b.hbmLive - (b.hbmLive &&& 2 ^ i) }).logRecord 4 (toLE 1 0 ++ toLE 1 i)
  | .lp i =>
    let first := field s.boot.lpLost (4 * (i / 4) + 3) (4 * (i / 4)) == 0
    let s := (s.modCtl (.lp i) fun r => { r with state := 2, usable := 0 }).modBoot fun b => { b with
      lpLost := b.lpLost ||| 2 ^ i, lpLive := b.lpLive - (b.lpLive &&& 2 ^ i) }
    if first then s.logRecord 4 (toLE 1 1 ++ toLE 1 (i / 4)) else s
  | .vault c => (s.modBoot fun b => { b with vaultLost := b.vaultLost ||| 2 ^ c }).logRecord 4 (toLE 1 3 ++ toLE 1 c)

/-- A die whose course clock is missing at bring-up loses its stacks, those that have trained too, and its courses (R461). -/
def State.loseDie (s : State) (d : Nat) : State :=
  let hbms := (rangeFrom (3 * d) 3).map TrainIface.hbm
  let s := (hbms.filter fun t => match t with
    | .hbm i => (s.stackReg i).state != 2
    | _ => false).foldl (fun (s : State) t => s.loseIface t) s
  let cs := (List.range 16).filter fun c => c % 4 == d && (s.port c).state != 3
  cs.foldl (fun (s : State) c => s.courseDown c) s

/-! ### Firmware selection (R381) -/

/-- The slot that the boot ROM selects, and the mask of slots that failed before it. -/
def State.selectSlot (s : State) : Option Nat × Nat :=
  let a := s.flash.activeSlot % 2
  if !([1, 2, 4].contains s.flash.capacity) then (none, 3)
  else if imageValid s.sec.fuses (s.slotImage a) then (some a, 0)
  else if imageValid s.sec.fuses (s.slotImage (1 - a)) then (some (1 - a), 2 ^ a)
  else (none, 3)

/-- A bring-up halts: FAULT_N asserts, and the outcome is logged (R383). -/
def State.halt (s : State) (cause : Nat) : State :=
  let s := s.modBoot fun b => { b with stage := 7, haltCause := cause, media := 2 }
  { s with pins := { s.pins with fault := true } }.logBringUp

/-- A bring-up: the fuses with their repair map, the firmware, and then training (R380, R381, R392). `s` is the state after the reset, with the
path noted: 0 cold, 2 warm. -/
def State.startBringUp (s : State) (path : Nat) (fusesOk keyOk : Bool) : State :=
  let (k, s) := s.draw
  let s := { s with flash := s.flash.scan (Config.hubTime k) }
  let s := s.modSec fun x => { x with
    keyOk := keyOk, devId := x.fuseId, sbAddr := 0x30 + s.board.straps % 4
    deviceKey := if keyOk then some (Config.unsealed x.sealedKey) else none }
  let s := s.modBoot fun b => { b with
    stage := 0, path := path, events := 0, repair := if fusesOk then s.sec.fuseMap else b.repair }
  if !fusesOk then s.halt 1
  else match s.selectSlot with
    | (none, bad) => (s.modBoot fun b => { b with stage := 6, recovery := true, slotBad := bad, media := 2 }).logBringUp
    | (some i, bad) =>
      let s := s.modBoot fun b => { b with stage := 2, slot := i, slotBad := bad, image := (s.slotImage i).take 4096 }
      let s := { s with crs := { s.crs with nodeId := s.flash.cfgNode } }
      s.boot.dead.foldl (fun (s : State) d => s.loseDie d) s

/-- COLD_RESET: PWRGD or the deassertion of COLD_RESET_N starts a cold bring-up. After THERMTRIP_N nothing does until the
supplies have been removed (R378, R427, R458). -/
def execColdReset (fusesOk keyOk : Bool) (s : State) : Host.Outcome State Fault Refusal :=
  if s.pins.thermtrip then .next s else .next ((s.cutStage.lost).startBringUp 0 fusesOk keyOk)

/-- A bring-up is in progress. -/
def State.bringingUp (s : State) : Bool := decide (s.boot.stage < 5)

/-- A warm reset starts a warm bring-up; one that stops a cold bring-up starts it again, cold (R379). A halt, and a clock lost after
bring-up, are left by a cold reset only (R383, R461). -/
def State.warmReset (s : State) (fusesOk keyOk : Bool) : State :=
  if s.boot.stage = 7 || s.boot.clockLost then s
  else if s.bringingUp && s.boot.path = 0 then (s.cutStage.lost).startBringUp 0 fusesOk keyOk
  else (s.cutStage.warmLost).startBringUp 2 fusesOk keyOk

/-- The warm reset that FW_ACTIVATE has asked for is due: its OK has been written (R378). -/
def State.activateDue (s : State) : Bool := match s.boot.activate with
  | some (q, count) => decide (((s.queue 0 q).count + 2 ^ 32 - count) % 2 ^ 32 < 2 ^ 31)
  | none => false

/-- WARM_RESET (R378, R379). One that the firmware starts has been asked for by FW_ACTIVATE, and follows its OK. -/
def execWarmReset (cause : WarmCause) (fusesOk keyOk : Bool) (s : State) : Host.Outcome State Fault Refusal :=
  if s.off then .next s else
  if cause = .firmware && !s.activateDue then .next s else .next (s.warmReset fusesOk keyOk)

/-- POWER_LOSS: PWRGD deasserts, and all volatile state is lost (R378, R431). Outputs are undriven. -/
def execPowerLoss (s : State) : Host.Outcome State Fault Refusal :=
  .next ((s.cutStage.lost).modBoot fun b => { b with powered := false })

/-- FW_ACTIVATE: the configuration block names the staged slot; with bit 0 a warm reset follows (R440). -/
def execFwActivate (n : Nat) (s : State) : Host.Outcome State Fault Refusal :=
  s.hostCommand n 0xC1 fun q s =>
    let s := { s with flash := s.flash.rewriteConfig s.sec.stageSlot s.flash.cfgNode }
    let s := s.finish n stOk 0
    let x := s.queue q.fn q.queue
    if bit (pk q.packet 16 1) 0 && (s.fn q.fn).busMaster then
      s.modBoot fun b => { b with activate := some (q.queue, (x.count + x.waiting.length) % 2 ^ 32) }
    else s

/-! ### Training attempts (R384) -/

/-- An HBM3E stack or LPDDR5X interface in service, which can be retrained (R240, R243). -/
def State.inService (s : State) (t : TrainIface) : Bool :=
  s.boot.stage == 5 && match t with
    | .hbm i => decide (i < 12) && (s.stackReg i).state == 1 && !s.boot.dead.contains (i / 3)
    | .lp i => decide (i < 16) && (s.lpReg i).state == 1
    | .vault _ => false

/-- An attempt of a retraining in service ends: the interface keeps the rate that works; one that fails at every rate fails. The life
log counts the retraining (R240, R243, R400, log 193). -/
def State.retrainAttempt (s : State) (t : TrainIface) (ok : Bool) : State :=
  let k := Tab.get 0 s.boot.attempts (trainKey t)
  let attempts := fun (s : State) (k : Nat) => s.modBoot fun b => { b with attempts := Tab.set 0 b.attempts (trainKey t) k }
  let c := match t with
    | .lp i => MemCtl.lp i
    | .hbm i => MemCtl.hbm i
    | .vault i => MemCtl.hbm i
  if ok then attempts (s.memRetrained.modCtl c fun r => { r with rate := k }) 0
  else if k + 1 < trainTries t then attempts s (k + 1)
  else ((attempts s.memRetrained 0).failCtl c).settleBridges

/-- TRAINING_ATTEMPT_END: an interface trains at the option tried, or tries the next, or is lost (R237, R241, R384, R405); in service, an
attempt of a retraining ends.
`found` is what the devices report: an LPDDR5X interface's usable_gib code, or of a vault channel the dies in use (bits 7:0),
the dies excluded (15:8) and the usable GiB (63:16). -/
def execTrainingAttemptEnd (t : TrainIface) (ok : Bool) (found : Nat) (s : State) : Host.Outcome State Fault Refusal :=
  if s.off then .next s else
  if s.inService t then .next (s.retrainAttempt t ok)
  else if !s.training t then .next s
  else
    let k := Tab.get 0 s.boot.attempts (trainKey t)
    let dead := match t with
      | .hbm i => s.boot.dead.contains (i / 3)
      | _ => false
    if ok && !dead then
      let s := s.modBoot fun b => { b with attempts := b.attempts.erase (trainKey t) }
      match t with
      | .hbm i => .next ((s.modCtl (.hbm i) fun r => { r with state := 1, rate := k }).modBoot fun b => { b with
          hbmLive := b.hbmLive ||| 2 ^ i })
      | .lp i =>
        if [1, 2, 4].contains found then
          .next ((s.modCtl (.lp i) fun r => { r with state := 1, rate := k, usable := found }).modBoot fun b => { b with
            lpLive := b.lpLive ||| 2 ^ i })
        else .next (s.loseIface t)
      | .vault c =>
        let s := s.modBoot fun b => { b with vaultLive := b.vaultLive ||| 2 ^ c }
        .next (s.modVault fun v => { v with
          dies := min 0xFFFF (v.dies + field found 7 0), excluded := min 0xFF (v.excluded + field found 15 8)
          usableGib := v.usableGib + field found 47 16 })
    else
      let s := s.modBoot fun b => { b with attempts := Tab.set 0 b.attempts (trainKey t) (k + 1) }
      .next (if trainTries t ≤ k + 1 || dead then s.loseIface t else s)

/-- Whether every interface has trained or is lost, and every course is up or down. -/
def State.trained (s : State) : Bool :=
  !((List.range 12).any fun i => s.training (.hbm i)) && !((List.range 16).any fun i => s.training (.lp i))
    && !((List.range 8).any fun c => s.training (.vault c))
    && (List.range 16).all fun c => (s.port c).state == 1 || (s.port c).state == 3

/-- The state that HUB_BOOT shows: once every interface has trained or is lost, stages 5 and 6 run until the device is ready, and which
of the two a read finds is free (R380, log 192). -/
def State.bootState (s : State) : Nat :=
  if s.boot.stage = 2 && s.trained then 3 + (Config.value s.fresh).toNat % 2 else s.boot.stage

/-! ### Self-tests and readiness (R385 to R391) -/

/-- The granules of the dies whose clock is missing (R461). -/
def State.deadGranules (s : State) : Nat := maskOf (s.boot.dead.flatMap fun d => rangeFrom (4 * d) 4)

/-- Whether a warm bring-up takes the fast path (R388). -/
def State.fastPath (s : State) : Bool :=
  s.boot.path != 0 && !s.boot.fullTest && match s.boot.record with
    | some r => r.census == s.boot.census && r.hbms &&& s.boot.hbmLive == r.hbms
        && r.interfaces &&& s.boot.lpLive == r.interfaces
    | none => false

/-- Bits of a mask without those of another. -/
def without (a b : Nat) : Nat := a - (a &&& b)

/-- The pools of the Fretboard, from the live stacks and the whole groups (R224, R242, R243). -/
def State.fillPools (s : State) : State :=
  let codes := fun (g : Nat) => (rangeFrom (4 * g) 4).map fun i => if bit s.boot.lpLive i then (s.lpReg i).usable else 0
  let least := fun (g : Nat) => (codes g).foldl min 4
  let groups := (List.range 4).filter fun g => least g != 0
  let s := s.modBoot fun b => { b with lpGroups := maskOf groups }
  let s := (bitsOf 12 s.boot.hbmLive).foldl (fun (s : State) i => s.modPool i fun _ => { live := true, frames := 73728 }) s
  groups.foldl (fun (s : State) g => s.modPool (12 + g) fun _ => { live := true, frames := least g * 131072 }) s

/-- The granules of the sequencers whose second copy failed its CRC check too (R385). -/
def crcGranules (r : SelfTest) : Nat := maskOf ((r.crcFails.filter (·.2)).map fun e => granuleOf e.1)

/-- Stages 6 to 8 once the hub's own tests have passed: the tests' outcome, the record, the pools, the capability registers, the
fuses, and readiness. -/
def State.comeUp (s : State) (r : SelfTest) (fast : Bool) : State :=
  let old := s.boot.record.getD ⟨0, 0, 0, 0, 0, 0, 0⟩
  let badS := if fast then old.badStacks else r.hbms % 2 ^ 12
  let badI := if fast then old.badInterfaces else r.interfaces % 2 ^ 16
  let granules := without (without (without (if fast then old.granules else 0xFFFF) r.granules) (crcGranules r)) s.deadGranules
  let pipes := if !s.hasPegbox then 0 else if fast then old.pipes else without 0xFFFF r.pipes
  let s := ((bitsOf 12 (badS &&& s.boot.hbmLive)).map TrainIface.hbm).foldl (fun (s : State) t => s.loseIface t) s
  let s := ((bitsOf 16 (badI &&& s.boot.lpLive)).map TrainIface.lp).foldl (fun (s : State) t => s.loseIface t) s
  let s := s.modBoot fun b => { b with
    stage := 4, granuleOk := granules, pipeOk := pipes, path := if fast then 1 else b.path
    fwVersion := imgFw b.image, secVersion := imgSec b.image }
  let s := if fast then s else s.modBoot fun b =>
    let c := b.events
    { b with census := c, recorded := c
             record := some { granules := granules, pipes := pipes, hbms := b.hbmLive, interfaces := b.lpLive
                              badStacks := badS, badInterfaces := badI, census := c } }
  let s := (s.fillPools.logSummary).logBringUp.issueAlias
  let (k, s) := s.draw
  let s := s.modBoot fun b => { b with
    stage := 5, fullTest := b.fullTest && b.path == 0, readyStamp := Config.hubTime k % 2 ^ 40
    media := if b.hbmLive = 0 then 2 else 1 }
  s.modSec fun x => { x with fuses := max x.fuses s.boot.secVersion }

/-- BRING_UP_READY: once every interface has trained or is lost, the sequencers are loaded, the self-tests run and the device is
ready, or halts (R380, R385 to R390, R394, R438). -/
def execBringUpReady (r : SelfTest) (s : State) : Host.Outcome State Fault Refusal :=
  if s.off then .next s else
  if s.boot.stage != 2 || !s.trained then .next s
  else
    let fast := s.fastPath
    let s := s.census (r.crcFails.map fun e => 1 + ofBool e.2).sum
    let s := s.modBoot fun b => { b with engine := Config.engineFirmware (s.slotImage b.slot) }
    if !fast && !r.hubOk then .next (s.halt 2) else .next (s.comeUp r fast)

/-! ### Clocks (R461) -/

/-- REFERENCE_CLOCK_LOSS: clock 0 to 3 is the course clock of a die, 4 the hub's. A course clock missing at bring-up costs its
die; a clock lost later stops what it drives and asserts FAULT_N. -/
def execReferenceClockLoss (clock : Nat) (s : State) : Host.Outcome State Fault Refusal :=
  if s.off then .next s else
  let fault := fun (s : State) => { s with pins := { s.pins with fault := true } }
  if clock < 4 then
    let s := s.modBoot fun b => { b with dead := if b.dead.contains clock then b.dead else b.dead ++ [clock] }
    .next (if s.bringingUp then s.loseDie clock else fault (s.modBoot fun b => { b with clockLost := true }))
  else if clock = 4 then .next (fault (s.modBoot fun b => { b with stopped := true, clockLost := true }))
  else .next s

end Sys2Proof.Machine
end

