-- ==== Sys2Proof/Machine/Flags.lean ====
section
/-! DEFINITION. Fields and flags of registers: values in place, event flags cleared by writing 1 (R5), and the fault records
whose valid bit is bit 63. The block has no arithmetic flags. -/

namespace Sys2Proof.Machine

/-- A value in place in a field. -/
def fld (hi lo v : Nat) : Nat := v % 2 ^ (hi + 1 - lo) * 2 ^ lo
/-- One bit in place. -/
def flg (i : Nat) (b : Bool) : Nat := ofBool b * 2 ^ i

/-- A fault record of the hub: valid, and its fields. -/
def recordOf (f : Nat → Nat → Nat → Nat → Nat) : Option (Nat × Nat × Nat × Nat) → Nat
  | some (a, b, c, d) => 2 ^ 63 + f a b c d
  | none => 0

/-- W1C: what a flag is after a write. -/
def w1c (old : Bool) (value i : Nat) : Bool := old && !bit value i

end Sys2Proof.Machine
end

