-- ==== Sys2Proof/Machine/Registers.lean ====
section
/-! DEFINITION. The register file (R4 to R7, R322, R394): the map of BAR0, what each register reads, what a read clears, and
what a write does; then REGISTER_READ_RC, REGISTER_WRITE, FORMAT, IDENTIFY and GET_CAPS. A register is named by the offset of its
first byte and is read and written whole. -/

namespace Sys2Proof.Machine

/-! ### Names -/

/-- Registers of a core's block. -/
inductive CoreReg where
  | seqStatus | seqPc | seqProgBase | seqVbase | seqIrqRet | seqFaultInfo | seqIssueCnt | seqWaitCnt | seqDcacheCnt | seqVecCnt
  | seqMoveStatus | seqCvtCnt | seqSq (n : Nat)
  | engStatus | engBeats | engSkippedBeats | engTileCnt | engErrCnt | engArithCnt | engGatherWait | engGatherCnt | engFaultInfo
  | updCnt | updEvt | updFrz | updNorm | memSpErr | seqCtx | seqSwitchCnt
  deriving DecidableEq, Repr

/-- Registers of a course port's block. -/
inductive PortReg where
  | status | ctrl | cnt | err | fec
  deriving DecidableEq, Repr

/-- Registers of a Bridge. -/
inductive BrgReg where
  | ctrl | delivCnt | strayCnt | complete | maskSet (w : Nat) | maskClr (w : Nat) | pendSet (w : Nat) | pendClr (w : Nat)
  | act (w : Nat) | grp (g : Nat) | srcTgt (s : Nat) | srcCfg (s : Nat)
  deriving DecidableEq, Repr

/-- Registers of a queue block. -/
inductive QueueReg where
  | sqBase (q : Nat) | cqBase (q : Nat) | qcfg (q : Nat) | sqTail (q : Nat) | cqHead (q : Nat) | qstat (q : Nat) | cmdCnt
  deriving DecidableEq, Repr

/-- Every register of the map of R322. -/
inductive Reg where
  | cap (i : Nat) | boot | bootCtrl | census
  | bridge (b : Nat) (r : BrgReg)
  | bowCtrl | bowBudget | bowFloor | bowWeight | bowGrant (c : Nat) | bowDie (d : Nat) | bowDieCnt (d : Nat) | bowTherm | bowDroop
  | lthCtrl | lthStatus | lthWeight | lthThresh | lthTempCfg | lthTemp (d : Nat) | lthSecure | lthEvtCnt
  | pegCtrl | pegStatus | pegQcfg (n : Nat) | pegQstat (n : Nat) | pegQcur (n : Nat) | pegQcnt (n : Nat) | pegVoidCnt | pegFaultInfo
  | uniGrp (g : Nat) | uniCnt (g : Nat) | uniScnt (n : Nat)
  | vltCtrl | vltStatus | vltGeom | vltCfg | vltLast | vltWear | vltErrCnt | vltScrub | vltPlan (n : Nat)
  | sflStatus | sflLogStatus
  | queue (r : QueueReg)
  | frtFree (t : Nat) | frtPoisonCnt | frtHwin | frtFaultInfo | frtVsel | frtVstate | frtVpin (n : Nat) | frtVwaitCnt
  | frtVwin (n : Nat) | frtVshd (n : Nat)
  | resCtrl | resStatus | resPool (n : Nat) | resSwap (n : Nat) | resEvictCnt (n : Nat) | resPreCnt (n : Nat) | resSatCnt (n : Nat)
  | resFaultInfo
  | scrCtrl | scrStatus | scrPt (n : Nat) | scrSeg (n : Nat) | scrWin (n : Nat) | scrQuota (n : Nat) | scrWm (n : Nat) | scrOcc (n : Nat)
  | scrOvrCnt (n : Nat) | scrRecompCnt (n : Nat) | scrFaultInfo
  | lpStatus (i : Nat) | lpEcc (i : Nat) | lpScrubCfg (i : Nat)
  | crsNodeId | crsRoute (i : Nat) | crsGrp (n : Nat) | crsPair (n : Nat) | crsPairStep (n : Nat)
  | hubPart (n : Nat) | hubSchedCnt (n : Nat) | capoCfg (j : Nat) | capoCnt (j : Nat)
  | secStatus | secDevid | secStage | secCnt
  | core (g : Nat) (r : CoreReg)
  | scrRefCfg (k : Nat) | scrCodecCnt (k : Nat) | scrCodecEvt (k : Nat) | cmErr (k : Nat)
  | dtcCnt (d : Nat) | hbmStatus (i : Nat) | hbmEcc (i : Nat) | hbmScrubCfg (i : Nat) | collCnt (d : Nat) | collFault (d : Nat)
  | port (c : Nat) (r : PortReg)
  | msixWord (i : Nat) | msixPba (i : Nat)
  | memStatus | mboxCaps | mboxControl | mboxCommand | mboxStatus | mboxPayload (i : Nat) | cxlConfig
  | msixControl | doeObject (i : Nat) | cdatWord (i : Nat)
  deriving DecidableEq, Repr

/-! ### The map (R322) -/

/-- A row of a map: the offset of member 0, the distance between members, their number, and the register of a member. -/
structure MapRow (α : Type) where
  base : Nat
  stride : Nat := 8
  count : Nat := 1
  reg : Nat → α

/-- The register of a map that starts at an offset. -/
def mapFind {α : Type} : List (MapRow α) → Nat → Option α
  | [], _ => none
  | r :: t, a =>
    if r.base ≤ a ∧ a < r.base + r.stride * r.count ∧ (a - r.base) % r.stride = 0 then some (r.reg ((a - r.base) / r.stride))
    else mapFind t a

/-- A core's block (R89, R122, R221, R247, R318). -/
def coreMap : List (MapRow CoreReg) :=
  [⟨0x000, 8, 1, fun _ => .seqStatus⟩, ⟨0x008, 8, 1, fun _ => .seqPc⟩, ⟨0x010, 8, 1, fun _ => .seqProgBase⟩,
   ⟨0x018, 8, 1, fun _ => .seqVbase⟩, ⟨0x020, 8, 1, fun _ => .seqIrqRet⟩, ⟨0x028, 8, 1, fun _ => .seqFaultInfo⟩,
   ⟨0x030, 8, 1, fun _ => .seqIssueCnt⟩, ⟨0x038, 8, 1, fun _ => .seqWaitCnt⟩, ⟨0x040, 8, 1, fun _ => .seqDcacheCnt⟩,
   ⟨0x048, 8, 1, fun _ => .seqVecCnt⟩, ⟨0x050, 8, 1, fun _ => .seqMoveStatus⟩, ⟨0x058, 8, 1, fun _ => .seqCvtCnt⟩,
   ⟨0x080, 8, 16, .seqSq⟩]
  ++ [⟨0x400, 8, 1, fun _ => .engStatus⟩, ⟨0x408, 8, 1, fun _ => .engBeats⟩, ⟨0x410, 8, 1, fun _ => .engSkippedBeats⟩,
   ⟨0x418, 8, 1, fun _ => .engTileCnt⟩, ⟨0x420, 4, 1, fun _ => .engErrCnt⟩, ⟨0x424, 4, 1, fun _ => .engArithCnt⟩,
   ⟨0x428, 8, 1, fun _ => .engGatherWait⟩, ⟨0x430, 8, 1, fun _ => .engGatherCnt⟩, ⟨0x438, 8, 1, fun _ => .engFaultInfo⟩]
  ++ [⟨0x600, 8, 1, fun _ => .updCnt⟩, ⟨0x608, 8, 1, fun _ => .updEvt⟩, ⟨0x610, 8, 1, fun _ => .updFrz⟩,
   ⟨0x618, 8, 1, fun _ => .updNorm⟩, ⟨0x700, 8, 1, fun _ => .memSpErr⟩, ⟨0x740, 8, 1, fun _ => .seqCtx⟩,
   ⟨0x748, 8, 1, fun _ => .seqSwitchCnt⟩]

/-- A course port's block (R277). -/
def portMap : List (MapRow PortReg) :=
  [⟨0x00, 8, 1, fun _ => .status⟩, ⟨0x08, 8, 1, fun _ => .ctrl⟩, ⟨0x10, 8, 1, fun _ => .cnt⟩, ⟨0x18, 8, 1, fun _ => .err⟩,
   ⟨0x20, 8, 1, fun _ => .fec⟩]

/-- A Bridge's registers, from its base (R358). -/
def bridgeMap : List (MapRow BrgReg) :=
  [⟨0x000, 8, 1, fun _ => .ctrl⟩, ⟨0x008, 8, 1, fun _ => .delivCnt⟩, ⟨0x010, 8, 1, fun _ => .strayCnt⟩,
   ⟨0x018, 8, 1, fun _ => .complete⟩, ⟨0x100, 4, 32, .maskSet⟩, ⟨0x180, 4, 32, .maskClr⟩, ⟨0x200, 4, 32, .pendSet⟩,
   ⟨0x280, 4, 32, .pendClr⟩, ⟨0x300, 4, 32, .act⟩, ⟨0x400, 8, 16, .grp⟩, ⟨0x4000, 16, 1024, .srcTgt⟩,
   ⟨0x4008, 16, 1024, .srcCfg⟩]

/-- A queue block (R344). -/
def queueMap : List (MapRow QueueReg) :=
  [⟨0x00, 0x40, 32, .sqBase⟩, ⟨0x08, 0x40, 32, .cqBase⟩, ⟨0x10, 0x40, 32, .qcfg⟩, ⟨0x18, 0x40, 32, .sqTail⟩,
   ⟨0x1C, 0x40, 32, .cqHead⟩, ⟨0x20, 0x40, 32, .qstat⟩, ⟨0x800, 8, 1, fun _ => .cmdCnt⟩]

/-- The identity block (R394). -/
def idMap : List (MapRow Reg) :=
  [⟨0x00, 8, 4, .cap⟩, ⟨0x20, 8, 1, fun _ => .boot⟩, ⟨0x28, 8, 1, fun _ => .bootCtrl⟩, ⟨0x30, 8, 1, fun _ => .census⟩]

/-- The hub's blocks other than the identity block, the hub Bridge and the queue block (R166, R197, R221, R247, R277, R299, R318,
R377, R416, R432, R448). -/
def hubMap : List (MapRow Reg) :=
  [⟨0x20000, 8, 1, fun _ => .bowCtrl⟩, ⟨0x20008, 8, 1, fun _ => .bowBudget⟩, ⟨0x20010, 8, 1, fun _ => .bowFloor⟩,
   ⟨0x20018, 8, 1, fun _ => .bowWeight⟩, ⟨0x20100, 8, 6, .bowGrant⟩, ⟨0x20200, 8, 4, .bowDie⟩, ⟨0x20240, 8, 4, .bowDieCnt⟩,
   ⟨0x20300, 8, 1, fun _ => .bowTherm⟩, ⟨0x20308, 8, 1, fun _ => .bowDroop⟩]
  ++ [⟨0x30000, 8, 1, fun _ => .lthCtrl⟩, ⟨0x30008, 8, 1, fun _ => .lthStatus⟩, ⟨0x30010, 8, 1, fun _ => .lthWeight⟩,
   ⟨0x30018, 8, 1, fun _ => .lthThresh⟩, ⟨0x30020, 8, 1, fun _ => .lthTempCfg⟩, ⟨0x30100, 8, 4, .lthTemp⟩,
   ⟨0x30200, 8, 1, fun _ => .lthSecure⟩, ⟨0x30208, 8, 1, fun _ => .lthEvtCnt⟩]
  ++ [⟨0x40000, 8, 1, fun _ => .pegCtrl⟩, ⟨0x40008, 8, 1, fun _ => .pegStatus⟩, ⟨0x40100, 0x40, 16, .pegQcfg⟩,
   ⟨0x40108, 0x40, 16, .pegQstat⟩, ⟨0x40110, 0x40, 16, .pegQcur⟩, ⟨0x40118, 0x40, 16, .pegQcnt⟩,
   ⟨0x40800, 8, 1, fun _ => .pegVoidCnt⟩, ⟨0x40810, 8, 1, fun _ => .pegFaultInfo⟩, ⟨0x50100, 0x20, 4, .uniGrp⟩,
   ⟨0x50108, 0x20, 4, .uniCnt⟩, ⟨0x50400, 8, 16, .uniScnt⟩]
  ++ [⟨0x60000, 8, 1, fun _ => .vltCtrl⟩, ⟨0x60008, 8, 1, fun _ => .vltStatus⟩, ⟨0x60010, 8, 1, fun _ => .vltGeom⟩,
   ⟨0x60018, 8, 1, fun _ => .vltCfg⟩, ⟨0x60020, 8, 1, fun _ => .vltLast⟩, ⟨0x60028, 8, 1, fun _ => .vltWear⟩,
   ⟨0x60030, 8, 1, fun _ => .vltErrCnt⟩, ⟨0x60038, 8, 1, fun _ => .vltScrub⟩, ⟨0x60400, 8, 16, .vltPlan⟩,
   ⟨0x70000, 8, 1, fun _ => .sflStatus⟩, ⟨0x70008, 8, 1, fun _ => .sflLogStatus⟩]
  ++ [⟨0x90010, 8, 5, .frtFree⟩, ⟨0x90040, 8, 1, fun _ => .frtPoisonCnt⟩, ⟨0x90048, 8, 1, fun _ => .frtHwin⟩,
   ⟨0x90100, 8, 1, fun _ => .frtFaultInfo⟩, ⟨0x98000, 8, 1, fun _ => .frtVsel⟩, ⟨0x98008, 8, 1, fun _ => .frtVstate⟩,
   ⟨0x98010, 8, 4, .frtVpin⟩, ⟨0x98030, 8, 1, fun _ => .frtVwaitCnt⟩, ⟨0x98100, 0x10, 16, .frtVwin⟩,
   ⟨0x98108, 0x10, 16, .frtVshd⟩]
  ++ [⟨0xA0000, 8, 1, fun _ => .resCtrl⟩, ⟨0xA0008, 8, 1, fun _ => .resStatus⟩, ⟨0xA0100, 0x10, 16, .resPool⟩,
   ⟨0xA0108, 0x10, 16, .resSwap⟩, ⟨0xA0200, 0x20, 16, .resEvictCnt⟩, ⟨0xA0208, 0x20, 16, .resPreCnt⟩,
   ⟨0xA0210, 0x20, 16, .resSatCnt⟩, ⟨0xA0400, 8, 1, fun _ => .resFaultInfo⟩]
  ++ [⟨0xB0000, 8, 1, fun _ => .scrCtrl⟩, ⟨0xB0008, 8, 1, fun _ => .scrStatus⟩, ⟨0xB0100, 0x40, 16, .scrPt⟩,
   ⟨0xB0108, 0x40, 16, .scrSeg⟩, ⟨0xB0110, 0x40, 16, .scrWin⟩, ⟨0xB0118, 0x40, 16, .scrQuota⟩, ⟨0xB0120, 0x40, 16, .scrWm⟩,
   ⟨0xB0128, 0x40, 16, .scrOcc⟩, ⟨0xB0130, 0x40, 16, .scrOvrCnt⟩, ⟨0xB0138, 0x40, 16, .scrRecompCnt⟩,
   ⟨0xB0800, 8, 1, fun _ => .scrFaultInfo⟩]
  ++ [⟨0xC0000, 0x100, 16, .lpStatus⟩, ⟨0xC0008, 0x100, 16, .lpEcc⟩, ⟨0xC0010, 0x100, 16, .lpScrubCfg⟩,
   ⟨0xD0000, 8, 1, fun _ => .crsNodeId⟩, ⟨0xD4000, 4, 4096, .crsRoute⟩, ⟨0xD0100, 8, 16, .crsGrp⟩,
   ⟨0xD0200, 0x10, 16, .crsPair⟩, ⟨0xD0208, 0x10, 16, .crsPairStep⟩]
  ++ [⟨0xE0000, 0x10, 16, .hubPart⟩, ⟨0xE0008, 0x10, 16, .hubSchedCnt⟩, ⟨0xE0200, 0x20, 16, .capoCfg⟩,
   ⟨0xE0208, 0x20, 16, .capoCnt⟩, ⟨0xF0000, 8, 1, fun _ => .secStatus⟩, ⟨0xF0008, 8, 1, fun _ => .secDevid⟩,
   ⟨0xF0010, 8, 1, fun _ => .secStage⟩, ⟨0xF0018, 8, 1, fun _ => .secCnt⟩]

/-- A cluster's registers beside its cores' blocks (R197, R247), from the cluster block's base. -/
def clusterMap (k : Nat) : List (MapRow Reg) :=
  [⟨0xC000, 8, 1, fun _ => .scrRefCfg k⟩, ⟨0xC008, 8, 1, fun _ => .scrCodecCnt k⟩, ⟨0xC010, 8, 1, fun _ => .scrCodecEvt k⟩,
   ⟨0xD000, 8, 1, fun _ => .cmErr k⟩]

/-- A die's registers in the first 64 KiB of its window (R247, R277). -/
def dieMap (d : Nat) : List (MapRow Reg) :=
  [⟨0x100, 8, 1, fun _ => .dtcCnt d⟩, ⟨0x2000, 8, 1, fun _ => .collCnt d⟩, ⟨0x2008, 8, 1, fun _ => .collFault d⟩,
   ⟨0x4000, 0x400, 3, fun s => .hbmStatus (3 * d + s)⟩, ⟨0x4008, 0x400, 3, fun s => .hbmEcc (3 * d + s)⟩,
   ⟨0x4010, 0x400, 3, fun s => .hbmScrubCfg (3 * d + s)⟩]

/-- The register at an offset of a die's window (R89, R247, R277, R358). -/
def dieReg (d o : Nat) : Option Reg :=
  let k := o / 0x10000
  let r := o % 0x10000
  if k = 0 then
    if 0x8000 ≤ r then (mapFind bridgeMap (r - 0x8000)).map (.bridge d)
    else if 0x6000 ≤ r ∧ r < 0x6400 then (mapFind portMap (r % 0x100)).map (.port (d + 4 * ((r - 0x6000) / 0x100)))
    else mapFind (dieMap d) r
  else if k ≤ 8 then
    if r < 0x4000 then (mapFind coreMap (r % 0x800)).map (.core (64 * d + 8 * (k - 1) + r / 0x800))
    else mapFind (clusterMap (8 * d + (k - 1))) r
  else none

/-- BAR4 of a function: its MSI-X table and PBA (R321). -/
def bar4Map : List (MapRow Reg) := [⟨0, 4, 8192, .msixWord⟩, ⟨0x8000, 8, 32, .msixPba⟩]

/-- PF0's BAR2 (R319, R321, R382): the CXL device registers. The component registers of its first 64 KiB read 0. DESIGN CHOICE: the
places of the two register groups; PRESUMED: the offsets within each are the CXL standard's. -/
def bar2Map : List (MapRow Reg) :=
  [⟨0x10000, 8, 1, fun _ => .memStatus⟩, ⟨0x10100, 8, 1, fun _ => .mboxCaps⟩, ⟨0x10104, 8, 1, fun _ => .mboxControl⟩,
   ⟨0x10108, 8, 1, fun _ => .mboxCommand⟩, ⟨0x10110, 8, 1, fun _ => .mboxStatus⟩, ⟨0x10120, 8, 32, .mboxPayload⟩]

/-- PF0's configuration items: R319's and R382's word, the DOE objects, and the CDAT. DESIGN CHOICE: their places; the spec gives none
(log 134). -/
def configMap : List (MapRow Reg) :=
  [⟨0, 8, 1, fun _ => .cxlConfig⟩, ⟨0x100, 8, 3, .doeObject⟩, ⟨0x800, 8, 11, .cdatWord⟩]

/-- The register at an address beyond a function's BAR0: its BAR2, its BAR4, and the configuration items of R319 and R382. -/
def regBeyond (f a : Nat) : Option Reg :=
  if a < bar4Base then (if f = 0 then mapFind bar2Map (a - bar2Base) else none)
  else if a < cfgBase then mapFind bar4Map (a - bar4Base)
  else if a = cfgBase + 8 then some .msixControl
  else if f = 0 then mapFind configMap (a - cfgBase)
  else none

/-- The register at an offset of PF0's BAR0 (R322). -/
def regAt (a : Nat) : Option Reg :=
  if a < 0x1000 then mapFind idMap a
  else if 0x10000 ≤ a ∧ a < 0x20000 then (mapFind bridgeMap (a - 0x10000)).map (.bridge 4)
  else if 0x80000 ≤ a ∧ a < 0x90000 then (mapFind queueMap (a - 0x80000)).map .queue
  else if a < 0x100000 then mapFind hubMap a
  else if a < 0x500000 then dieReg (a / 0x100000 - 1) (a % 0x100000)
  else none

/-- Whether a register's unit is fitted on the part (R4). -/
def State.fitted (s : State) (a : Nat) : Bool :=
  if 0x40000 ≤ a ∧ a < 0x60000 then s.hasPegbox
  else if 0x60000 ≤ a ∧ a < 0x70000 then s.hasVault
  else if 0xC0000 ≤ a ∧ a < 0xD0000 then s.hasLpddr
  else true

/-- The register that a function reaches at an address: of its BAR0, PF0 all, every other function the identity block and its own
queue block (R4, R6, R322); of its other BARs, R321. -/
def State.regOf (s : State) (f a : Nat) : Option Reg :=
  if bar2Base ≤ a then regBeyond f a
  else if f = 0 || decide (a < 0x1000) || decide (0x80000 ≤ a ∧ a < 0x90000) then (if s.fitted a then regAt a else none) else none

/-! ### What registers read -/

/-- SEQ_STATUS state code (R122). -/
def SeqState.code : SeqState → Nat
  | .idle => 0
  | .issuing => 1
  | .waiting => 2
  | .stopping => 3
  | .preempted => 4
  | .faulted => 5
  | .held => 6

/-- The engines of a core for which a test holds, as a mask. -/
def engMask (f : Nat → Bool) : Nat := maskOf ((List.range 4).filter f)

/-- ENG_STATUS. -/
def State.engStatus (s : State) (g : Nat) : Nat :=
  let k := s.core g
  let own := s.ownerOf (granuleOf g)
  let on := fun (e : Nat) (t : TileRun) => t.engine == e && t.phase == .streaming
  let cls := match own with
    | some n => (s.part n).classF
    | none => false
  flg 17 (!k.gatherOpen.isEmpty) + flg 16 cls
    + fld 15 12 (engMask fun e => k.tiles.any (on e))
    + fld 11 8 (engMask fun e => k.tiles.any fun t => on e t && t.attempts != 0)
    + fld 7 4 (engMask fun e => k.tiles.any fun t => on e t && !t.lastSegment && (k.freeUnits e t.desc cls).isNone)
    + fld 3 0 (engMask fun e => decide (4 ≤ k.placesTaken e))

/-- SEQ_CTX: the context that the core runs and its partition; with none every field has its value at reset, 0 (R318; log 15). -/
def State.seqCtx (s : State) (g : Nat) : Nat :=
  let k := s.core g
  let x := k.ctx.bind (s.ctx k.part ·)
  flg 15 k.ctx.isSome + flg 14 (x.any (·.realTime)) + fld 13 8 (k.ctx.getD 0) + fld 7 4 (if k.ctx.isSome then k.part else 0)
    + flg 3 k.switching + fld 2 0 ((x.map (·.prio)).getD 0)

/-- What a register of a core's block reads. -/
def State.readCore (s : State) (g : Nat) : CoreReg → Nat :=
  let k := s.core g
  fun
  | .seqStatus => flg 11 k.seg.isSome + flg 10 k.inHandler + flg 9 k.fenceWait + flg 8 k.queueFull + k.state.code
  | .seqPc => fld 31 0 k.pc
  | .seqProgBase => fld 40 0 k.base
  | .seqVbase => fld 40 0 k.vbase
  | .seqIrqRet => fld 31 0 k.irqRet
  | .seqFaultInfo => match k.seqErr with
    | some r => flg 63 true + fld 55 48 r.cause + fld 47 40 r.kind + fld 31 0 r.index
    | none => 0
  | .seqIssueCnt => fld 63 0 k.issueCnt
  | .seqWaitCnt => fld 63 16 k.waitCycles + fld 15 0 k.expired
  | .seqDcacheCnt => fld 63 32 k.dcHits + fld 31 0 k.dcMisses
  | .seqVecCnt => fld 63 32 (k.vecBusy / 16) + fld 31 0 k.vecItems
  | .seqMoveStatus => fld 31 16 k.moveFull + fld 6 0 (k.issued.filter fun i => dType i.desc == tyMove).length
  | .seqCvtCnt => fld 31 16 k.vecNan + fld 15 0 k.moveNan
  | .seqSq n => (k.sq.getD n 0).toNat
  | .engStatus => s.engStatus g
  | .engBeats => fld 63 0 k.beats
  | .engSkippedBeats => fld 63 32 k.zeroBeats + fld 31 0 k.emptyBlocks
  | .engTileCnt => fld 63 32 k.completed + fld 31 16 k.empty + fld 15 0 k.suppressed
  | .engErrCnt => fld 31 24 k.parityEvents + fld 23 16 k.replayCnt + fld 15 8 k.tileFaults + fld 7 0 k.longsumParity
  | .engArithCnt => fld 31 16 k.accOverflow + fld 15 0 k.nanToInt
  | .engGatherWait => fld 31 0 k.waitBound
  | .engGatherCnt => fld 63 32 k.gatherFull + fld 31 0 k.gatherPartial
  | .engFaultInfo => match k.engErr with
    | some r => flg 63 true + fld 55 48 r.cause + fld 47 46 r.engine + fld 45 32 r.step + fld 31 0 r.index
    | none => 0
  | .updCnt => fld 63 24 k.updElements + fld 23 0 k.updPasses
  | .updEvt => fld 31 16 k.verWaits + fld 15 8 k.drainWaits + fld 7 0 k.normSkips
  | .updFrz => fld 63 0 k.frozen
  | .updNorm => fld 63 0 k.updNorm
  | .memSpErr => fld 31 16 k.spSoft + fld 15 0 k.spHard
  | .seqCtx => s.seqCtx g
  | .seqSwitchCnt => fld 63 32 k.switchesIn + fld 31 0 (k.savedBytes / 1024)

/-- What a register of a course port reads. -/
def Port.read (p : Port) : PortReg → Nat
  | .status => fld 31 30 p.state + flg 29 (p.rate == 1) + fld 26 24 p.width + fld 23 16 p.lanes + fld 11 0 p.peer
  | .ctrl => fld 63 56 p.wBulk + fld 55 48 p.wColl + fld 47 40 p.wMirror + flg 30 p.dateline + fld 23 16 p.fecLimit
      + fld 15 12 p.widths + fld 11 10 p.rates
  | .cnt => fld 63 32 (p.txFlits / 1024) + fld 31 0 (p.rxFlits / 1024)
  | .err => fld 63 48 p.crcErrors + fld 47 32 p.naks + fld 31 16 p.retrains + fld 15 0 p.resent
  | .fec => fld 63 32 p.fecCorrected + fld 31 0 p.fecUncorrected

/-- The sources of a 32-bit word for which a test holds. -/
def wordMask (w : Nat) (f : Nat → Bool) : Nat := maskOf ((List.range 32).filter fun i => f (32 * w + i))

/-- What a register of a Bridge reads. -/
def State.readBridge (s : State) (b : Nat) : BrgReg → Nat :=
  let x := s.bridge b
  fun
  | .ctrl => flg 2 x.gdis + flg 1 x.maskMode + flg 0 x.enable
  | .delivCnt => fld 63 32 x.delivered + fld 31 0 x.spurious
  | .strayCnt => fld 31 0 x.stray
  | .complete => 0
  | .maskSet w => wordMask w (bit x.mask)
  | .maskClr w => wordMask w (bit x.mask)
  | .pendSet w => wordMask w (s.pendingSrc b)
  | .pendClr w => wordMask w (s.pendingSrc b)
  | .act w => wordMask w x.isActive
  | .grp g =>
    let y := x.group g
    flg 63 y.tclk + fld 41 40 y.state + fld 39 8 y.timeThr + fld 7 0 y.countThr
  | .srcTgt i => fld 63 0 (s.srcTargets b i)
  | .srcCfg i => flg 31 (s.routed b i) + fld 27 24 (field (s.srcConfig b i) 27 24) + fld 9 0 (s.srcConfig b i)

/-- What a register of a function's queue block reads. -/
def State.readQueue (s : State) (f : Nat) : QueueReg → Nat
  | .sqBase q => (s.queue f q).sqBase
  | .cqBase q => (s.queue f q).cqBase
  | .qcfg q =>
    let x := s.queue f q
    flg 31 x.enable + flg 30 x.irqEn + fld 29 28 x.cls + fld 23 13 x.vector + fld 12 0 x.size
  | .sqTail _ => 0
  | .cqHead _ => 0
  | .qstat q =>
    let x := s.queue f q
    fld 63 62 (if !x.enable then 0 else if x.error != 0 then 2 else 1) + flg 61 (x.enable && x.cqFull) + fld 60 58 x.error
      + fld 43 32 x.sqHead + fld 27 16 x.cqTail
      + min 0xFFFF (s.hub.accepted.filter fun c => c.fn == f && c.queue == q && !c.silent).length
  | .cmdCnt => fld 63 32 (s.fn f).accepted + fld 31 0 (s.fn f).rejected

/-- HUB_CAP0 to HUB_CAP3. -/
def State.cap (s : State) (i : Nat) : Nat :=
  match i with
  | 0 => s.cap0
  | 1 => s.cap1
  | 2 => s.cap2
  | _ => s.cap3

/-- The pages at which a writer of a context now waits under R207: an UPDATE, a COLL, or the application of its pair's mirror
records (R219, R275). -/
def State.pagesWaiting (s : State) (n c : Nat) : List Nat :=
  (((s.cores.filter fun e => e.2.part == n && e.2.ctx == some c).flatMap fun e => e.2.issued.flatMap fun i =>
    match i.work with
    | .update u => u.waiting.map (·.1)
    | .coll r => r.waiting.map (·.1)
    | _ => []) ++ (if (s.pair n).ctx = c then (s.pair n).applyWait.map (·.1) else [])).eraseDups

/-- Marked buffers and plain pages of a context that have not drained (R220). -/
def State.pagesToDrain (s : State) (n c : Nat) : Nat :=
  ((s.jobs.ckpts.filter fun k => k.part == n && k.ctx == c).map fun k =>
    (k.todo.filter fun g => g.kind == 0 || g.kind == 2).length).sum

/-- Whether host memory is mapped for a partition (R197). -/
def State.hostMapped (s : State) (n : Nat) : Bool := s.frt.entry.any fun e => eValid e.2 && ePart e.2 == n && eTier e.2 == 5

/-- SCR_QUOTAn reads and keeps sec_pages, but for the VNG-4800-S without host memory (R197). -/
def State.secQuotaShown (s : State) (n : Nat) : Bool := s.partCode != 2 || s.hostMapped n

/-- Whether a vector is one of a function's (R321). -/
def hasVector (f v : Nat) : Bool := decide (v < vectorCount f)

/-- A word of a function's MSI-X table: address, upper address, data, vector control (R340). -/
def State.msixWord (s : State) (f i : Nat) : Nat :=
  let e := s.msixEntry f (i / 4)
  if !hasVector f (i / 4) then 0
  else match i % 4 with
    | 0 => e.addrLow
    | 1 => e.addrHigh
    | 2 => e.data
    | _ => ofBool e.masked

/-- The boot ROM has read the serial flash: a bring-up has come past stage 1 (R380, R381, R416). -/
def State.flashSeen (s : State) : Bool := s.boot.stage != 0 && !(s.boot.stage == 7 && s.boot.haltCause == 1)
/-- Mailbox Interfaces Ready: from stage 8, or from the entry to recovery mode (R382). -/
def State.mailboxReady (s : State) : Bool := s.boot.stage == 5 || s.boot.recovery
/-- DVSEC Memory_Active: from stage 8 (R382). -/
def State.memoryActive (s : State) : Bool := s.boot.stage == 5
/-- Configuration requests are answered with Request Retry Status before stage 2 of a bring-up (R382). -/
def State.configRetry (s : State) : Bool := s.boot.stage == 0

/-- The configuration items of R319 and R382 in one word: Request Retry Status, Memory_Active, Memory_Active_Timeout code 010, and
the link's lanes, rate and flit mode. DESIGN CHOICE: the word; the spec places none of them. -/
def State.cxlConfig (s : State) : Nat :=
  flg 0 s.configRetry + flg 1 s.memoryActive + fld 4 2 2 + (match s.boot.cxl with
    | some l => fld 12 8 l.lanes + fld 22 16 l.rate + flg 24 l.flit68
    | none => 0)

/-- MSI-X Message Control (R340): Enable, Function Mask and the table's size. PRESUMED: the PCIe standard's layout (log 186). -/
def State.msixControl (s : State) (f : Nat) : Nat :=
  flg 15 (s.fn f).msixEnable + flg 14 (s.fn f).msixMask + fld 10 0 (vectorCount f - 1)

/-- The DOE objects of PF0 as DOE discovery lists them, each vendor and type: discovery, CMA/SPDM and CDAT (R319). PRESUMED: the numbers
are the PCIe and CXL standards' (log 187). -/
def doeObjects : List (Nat × Nat) := [(0x0001, 0), (0x0001, 1), (0x1E98, 2)]

/-- One entry of DOE discovery: vendor, type, and the index of the next entry. -/
def doeObject (i : Nat) : Nat :=
  match doeObjects[i]? with
  | some (v, t) => fld 15 0 v + fld 23 16 t + fld 31 24 ((i + 1) % doeObjects.length)
  | none => 0

/-- A table of the CDAT with the sum of its bytes made 0 modulo 256 by its checksum, byte 5. -/
def cdatSum (bs : List Byte) : List Byte :=
  bs.set 5 (BitVec.ofNat 8 (256 - (bs.map BitVec.toNat).sum % 256))

/-- CDAT: the host window as one memory range, with the idle read latency of HBM3E on its own die, 210 ns, and the peak bandwidth of a
die's stacks, 3.69 TB/s (R319, "Bandwidth and latency"). PRESUMED: the CDAT standard's header, DSMAS and DSLBIS layouts (log 187). -/
def State.cdat (s : State) : List Byte :=
  let lbis := fun (type base entry : Nat) =>
    toLE 1 1 ++ toLE 1 0 ++ toLE 2 24 ++ toLE 1 0 ++ toLE 1 0 ++ toLE 1 type ++ toLE 1 0 ++ toLE 8 base ++ toLE 2 entry
      ++ toLE 2 entry ++ toLE 2 0 ++ toLE 2 0
  cdatSum (toLE 4 88 ++ toLE 1 1 ++ toLE 1 0 ++ fill 6 0 ++ toLE 4 0
    ++ (toLE 1 0 ++ toLE 1 0 ++ toLE 2 24 ++ toLE 1 0 ++ toLE 1 0 ++ toLE 2 0 ++ toLE 8 0 ++ toLE 8 (s.frt.hwinPages * pageBytes))
    ++ lbis 0 1000 210 ++ lbis 3 1000 3690)

/-- What a register reads, through function `f`. -/
def State.readReg (s : State) (f : Nat) : Reg → Nat
  | .cap i => s.cap i
  | .boot => fld 63 60 s.bootState + fld 59 56 s.boot.haltCause + fld 49 48 s.boot.slotBad + fld 39 0 s.boot.readyStamp
  | .bootCtrl => flg 0 s.boot.fullTest
  | .census => fld 63 32 s.boot.census + fld 31 0 s.boot.recorded
  | .bridge b r => s.readBridge b r
  | .bowCtrl => fld 31 24 s.bow.upPeriods + fld 23 16 s.bow.stepPeriods + fld 15 12 s.bow.stepDownLevel + fld 7 4 s.bow.rampGap
      + flg 0 s.bow.enable
  | .bowBudget => flg 31 s.bow.belowFloor + fld 11 0 s.bow.watts
  | .bowFloor => fld 23 16 s.bow.memFloor + fld 15 8 s.bow.hubFloor + fld 7 0 s.bow.dieFloor
  | .bowWeight => ((List.range 4).map fun i => fld (8 * i + 7) (8 * i) (s.bow.weights.getD i 0)).sum
  | .bowGrant c => fld 47 32 (s.bow.demands.getD c 0) + fld 15 0 (s.bow.grants.getD c 0)
  | .bowDie d =>
    let x := s.bowDie d
    flg 31 x.hot + flg 30 x.gliding + fld 27 24 x.gate + fld 19 16 x.stage + fld 1 0 x.step
  | .bowDieCnt d =>
    let x := s.bowDie d
    fld 63 32 x.droops + fld 31 16 x.steps + fld 15 0 x.hotEntries
  | .bowTherm => flg 31 s.bow.evHot + flg 30 s.bow.evFloor + fld 23 20 s.bow.thermHyst + fld 19 10 460 + fld 9 0 s.bow.tThrottle
  | .bowDroop => fld 31 16 s.bow.droopHold + fld 7 0 s.bow.droopMv
  | .lthCtrl => flg 17 s.lth.secureEn + flg 16 s.lth.enable + fld 15 0 s.lth.period
  | .lthStatus => flg 63 s.lth.secureNow + flg 59 s.lth.evFailed + flg 58 s.lth.evCommitted + flg 57 s.lth.evRaised
      + fld 39 32 s.lth.risk + fld 31 24 s.lth.sT + fld 23 16 s.lth.sE + fld 15 8 s.lth.sC + fld 7 0 s.lth.sD
  | .lthWeight => fld 31 24 s.lth.wT + fld 23 16 s.lth.wE + fld 15 8 s.lth.wC + fld 7 0 s.lth.wD
  | .lthThresh => fld 23 16 s.lth.threshold + fld 15 8 s.lth.hysteresis + fld 7 0 s.lth.decay
  | .lthTempCfg => fld 25 16 s.lth.tHi + fld 9 0 s.lth.tLo
  | .lthTemp d => fld 21 16 (s.lth.temps.getD d (0, 0)).1 + fld 9 0 (s.lth.temps.getD d (0, 0)).2
  | .lthSecure => fld 63 48 s.lth.opened + fld 47 40 s.lth.skipped + flg 37 s.lth.failed + flg 36 s.lth.committed
      + fld 35 32 s.lth.part + fld 31 0 s.lth.id
  | .lthEvtCnt => fld 63 32 s.lth.evaluations + fld 31 0 s.lth.raises
  | .pegCtrl => fld 31 16 s.peg.pipeEn + flg 0 s.peg.enable
  | .pegStatus => fld 31 16 (maskOf ((List.range 16).filter fun p => (s.inPipe p).isSome))
      + fld 15 0 (maskOf ((List.range 16).filter fun n => (s.pegQueue n).occupancy == 256))
  | .pegQcfg n =>
    let x := s.pegQueue n
    flg 63 x.enable + flg 62 x.failBatch + fld 61 58 x.part + fld 55 40 x.timeout + fld 31 0 x.emitCtr
  | .pegQstat n => fld 20 16 (s.pegQueue n).batches.length + fld 8 0 (s.pegQueue n).occupancy
  | .pegQcur n => fld 63 0 (s.pegQueue n).cursor
  | .pegQcnt n =>
    let x := s.pegQueue n
    fld 63 32 x.decoded + fld 31 24 x.batchFails + fld 23 16 x.windowFull + fld 15 0 x.voids
  | .pegVoidCnt => fld 63 48 s.peg.bitstream + fld 47 32 s.peg.unsupported + fld 31 16 s.peg.timeouts + fld 15 0 s.peg.other
  | .pegFaultInfo => recordOf (fun r q p n => fld 62 56 r + fld 55 52 q + fld 51 48 p + fld 47 0 n) s.peg.err
  | .uniGrp g =>
    let u := Tab.get ({} : UniGroup) s.uni.groups g
    if u.active then
      flg 63 true + fld 62 59 (u.streams.getD u.ref (0, false)).1 + fld 47 32 u.ended + fld 31 0 u.tol
    else 0
  | .uniCnt g =>
    let u := Tab.get ({} : UniGroup) s.uni.groups g
    fld 63 32 u.sets + fld 31 16 u.held + fld 15 0 u.missing
  | .uniScnt n =>
    let u := Tab.get ({} : UniCnt) s.uni.counts n
    fld 63 32 u.chosen + fld 31 16 u.unused + fld 15 0 u.orderVoids
  | .vltCtrl => flg 1 s.vault.scrubEn + flg 0 s.vault.enable
  | .vltStatus => fld 63 61 s.vault.state + flg 60 s.vault.evMedia + flg 59 s.vault.evSpares + fld 31 0 s.vault.doneMib
  | .vltGeom => fld 63 48 s.vault.areas + fld 47 32 s.vault.areaGib + fld 31 16 s.vault.dies + fld 15 8 s.vault.excluded
  | .vltCfg => fld 63 32 s.vault.usableGib + fld 15 0 s.vault.genGib
  | .vltLast => fld 63 48 s.vault.lastArea + fld 47 44 s.vault.lastPart + fld 31 0 s.vault.lastId
  | .vltWear =>
    if s.vault.dies = 0 then 0
    else fld 63 48 (min 0xFFFF s.vault.maxErase) + fld 47 32 (min 0xFFFF s.vault.minErase)
      + fld 31 16 (min 0xFFFF s.vault.table.spares.length) + fld 15 0 (min 0xFFFF s.vault.table.bad.length)
  | .vltErrCnt => fld 63 48 s.vault.uncorrectable + fld 47 32 s.vault.programFails + fld 31 16 s.vault.readRetries
      + fld 15 0 s.vault.refreshes
  | .vltScrub => fld 31 16 s.vault.passes + fld 15 8 s.vault.refreshThr + fld 7 0 s.vault.scrubGap
  | .vltPlan n => fld 40 0 (Tab.get 0 s.jobs.plans n)
  | .sflStatus => (if s.flashSeen then fld 31 28 s.flash.capacity + flg 26 (cfgValid (s.flash.copy 0)) + flg 27 (cfgValid (s.flash.copy 1)) else 0)
      + flg 25 s.flash.fail
  | .sflLogStatus => fld 63 32 s.flash.nextSeq + fld 31 24 s.flash.queue.length + fld 23 16 s.flash.torn + fld 15 0 s.flash.dropped
  | .queue r => s.readQueue f r
  | .frtFree t => fld 63 32 (s.tierTotal t) + fld 31 0 (s.tierFree t)
  | .frtPoisonCnt => fld 63 32 s.frt.poisonPages + fld 31 0 s.frt.retiredFrames
  | .frtHwin => fld 63 60 s.frt.hwinPart + fld 59 41 s.frt.hwinPages + fld 40 0 s.frt.hwinBase
  | .frtFaultInfo => if s.frt.faultValid then
      flg 63 true + flg 62 s.frt.faultPoison + fld 61 58 s.frt.faultPart + fld 57 54 s.frt.faultSource + fld 40 0 s.frt.faultAddr
    else 0
  | .frtVsel => fld 11 8 s.frt.vselPart + fld 5 0 s.frt.vselCtx
  | .frtVstate => fld 53 32 (s.pagesToDrain s.frt.vselPart s.frt.vselCtx)
      + fld 21 0 (s.pagesWaiting s.frt.vselPart s.frt.vselCtx).length
  | .frtVpin n => match s.ctx s.frt.vselPart s.frt.vselCtx with
    | some x => ((List.range 4).map fun i => fld (16 * i + 15) (16 * i) (x.pins (4 * n + i))).sum
    | none => 0
  | .frtVwaitCnt => match s.ctx s.frt.vselPart s.frt.vselCtx with
    | some x => fld 31 16 x.pinWaits + fld 15 0 x.drainWaits
    | none => 0
  | .frtVwin n => fld 63 41 (s.part n).vwinPages + fld 40 0 (s.part n).vwinBase
  | .frtVshd n => fld 40 0 (s.part n).vshdBase
  | .resCtrl => fld 2 1 s.res.policy + flg 0 s.res.enable
  | .resStatus => flg 17 (s.res.parts.any fun e => e.2.fold.isSome) + fld 16 0 s.res.seqs.length
  | .resPool n =>
    let p := Tab.get ({} : ResPart) s.res.parts n
    fld 53 32 (s.freePages n).length + fld 21 0 p.deferred.length
  | .resSwap n =>
    fld 53 32 (s.freePlaces n).length + fld 21 0 (((s.res.seqs.filter (·.part == n)).flatMap (·.swapped)).eraseDups).length
  | .resEvictCnt n =>
    let p := Tab.get ({} : ResPart) s.res.parts n
    fld 63 32 p.evicted + fld 31 0 p.cow
  | .resPreCnt n =>
    let p := Tab.get ({} : ResPart) s.res.parts n
    fld 63 48 p.preemptOthers + fld 47 32 p.selfPreempt + fld 31 16 p.resumes + fld 15 0 p.deferredJoins
  | .resSatCnt n =>
    let p := Tab.get ({} : ResPart) s.res.parts n
    fld 63 32 p.saturations + fld 31 0 p.overBudget
  | .resFaultInfo => recordOf (fun c n l k => fld 62 60 c + fld 59 56 n + fld 47 32 l + fld 31 0 k) s.res.err
  | .scrCtrl => flg 2 s.scr.promote + flg 1 s.scr.override + flg 0 s.scr.enable
  | .scrStatus => fld 23 16 ((s.scr.parts.map fun e => e.2.replays.length).sum)
      + fld 15 0 (maskOf ((List.range 16).filter fun n => (s.scrPart n).level == 2))
  | .scrPt n => fld 63 41 (s.scrPart n).ptSize + fld 40 0 (s.scrPart n).ptBase
  | .scrSeg n => fld 63 41 (s.scrPart n).segSize + fld 40 0 (s.scrPart n).segBase
  | .scrWin n => fld 63 41 (s.scrPart n).winPages + fld 40 0 (s.scrPart n).winBase
  | .scrQuota n => fld 53 32 (if s.secQuotaShown n then (s.scrPart n).quotaSec else 0) + fld 21 0 (s.scrPart n).quotaHbm
  | .scrWm n =>
    let q := s.scrPart n
    fld 31 24 q.hbmHigh + fld 23 16 q.hbmLow + fld 15 8 q.secHigh + fld 7 0 q.secLow
  | .scrOcc n => flg 63 (s.putWaits n) + fld 61 60 (s.scrPart n).level + fld 53 32 (s.scrPart n).secPages
      + fld 21 0 (s.scrPart n).hbmPages
  | .scrOvrCnt n => fld 63 40 (s.scrPart n).demoted + fld 39 16 (s.scrPart n).redirected + fld 15 0 (s.scrPart n).migrated
  | .scrRecompCnt n => fld 63 32 (s.scrPart n).replayCnt + fld 31 16 (s.scrPart n).poisonReplays + fld 15 0 (s.scrPart n).selfHelped
  | .scrFaultInfo => recordOf (fun c n g r => fld 62 56 c + fld 55 52 n + fld 51 44 g + fld 31 0 r) s.scr.err
  | .lpStatus i =>
    let r := s.lpReg i
    fld 31 24 r.uncorrectable + fld 11 8 r.usable + fld 7 4 r.rate + fld 1 0 r.state
  | .lpEcc i => fld 63 32 (s.lpReg i).onDie + fld 31 0 (s.lpReg i).corrected
  | .lpScrubCfg i => fld 31 16 (s.lpReg i).passes + fld 15 0 (s.lpReg i).gap
  | .crsNodeId => fld 11 0 s.crs.nodeId
  | .crsRoute i => flg 31 (bit (Tab.get 0 s.crs.routes i) 31) + fld 15 0 (Tab.get 0 s.crs.routes i)
  | .crsGrp n => fld 63 41 (s.part n).groups + fld 40 0 (s.part n).groupBase
  | .crsPair n =>
    let p := s.pair n
    fld 63 61 p.state + fld 60 58 p.cause + fld 57 46 p.node + fld 45 42 p.npart + fld 31 0 p.shipped
  | .crsPairStep n => flg 63 (s.pair n).valid + fld 62 0 (s.pair n).step
  | .hubPart n =>
    let p := s.part n
    fld 63 62 p.state + flg 61 p.classF + fld 60 58 p.rtQuota + fld 46 40 p.ctxs.length + fld 15 0 p.gmask
  | .hubSchedCnt n => fld 63 32 (s.part n).switches + fld 31 16 (s.part n).restores + fld 15 0 (s.part n).xcoreWaits
  | .capoCfg j =>
    let b := s.job j
    flg 63 b.enable + flg 62 b.cheap + fld 61 58 b.part + fld 57 52 b.ctx + fld 40 0 b.record
  | .capoCnt j =>
    let b := s.job j
    fld 63 40 b.frames + fld 39 16 b.logWritten + fld 15 8 b.switches + fld 7 0 b.misses
  | .secStatus => flg 31 s.sec.evStageFail + flg 30 s.sec.evUnlock + flg 29 s.sec.evUnlockFail + fld 17 16 s.sec.debug
      + fld 13 12 s.sec.sessions + flg 11 (s.sec.ideStream 1).active.isSome + flg 10 (s.sec.ideStream 0).active.isSome + flg 9 s.sec.aliasOk + flg 8 s.sec.keyOk
      + fld 6 0 s.sec.fuses
  | .secDevid => fld 63 0 s.sec.devId
  | .secStage => flg 63 (s.hub.accepted.any fun q => q.opcode == 0xC0) + flg 62 s.sec.stageValid + fld 61 61 s.sec.stageSlot
      + fld 39 32 s.sec.stageSec + fld 31 16 s.sec.stageFw
  | .secCnt => fld 63 48 s.sec.attests + fld 47 32 s.sec.spdmErrors + fld 31 16 s.sec.unlockFails + fld 15 0 s.sec.stageFails
  | .core g r => s.readCore g r
  | .scrRefCfg k => fld 5 0 (s.cluster k).refCfg
  | .scrCodecCnt k => fld 63 32 (s.cluster k).compressed + fld 31 0 (s.cluster k).decompressed
  | .scrCodecEvt k =>
    let c := s.cluster k
    fld 63 48 c.refMisses + fld 47 32 c.redecoded + fld 31 16 c.budgetMiss + fld 15 0 c.nonfinite
  | .cmErr k => fld 31 8 (s.cluster k).cmCorrected + fld 7 0 (s.cluster k).cmUncorrectable
  | .dtcCnt d => fld 63 32 (s.die d).dtcHits + fld 31 8 (s.die d).dtcWalks + fld 7 0 ((s.die d).dtcInval / 1024)
  | .hbmStatus i =>
    let r := s.stackReg i
    fld 31 24 r.uncorrectable + fld 9 8 r.rate + fld 1 0 r.state
  | .hbmEcc i => fld 63 32 (s.stackReg i).onDie + fld 31 0 (s.stackReg i).corrected
  | .hbmScrubCfg i => fld 31 16 (s.stackReg i).passes + fld 15 0 (s.stackReg i).gap
  | .collCnt d => fld 63 32 (s.die d).collCompleted + fld 31 16 (s.die d).a2aOverflow + fld 15 0 (s.die d).collFailures
  | .collFault d => match (s.die d).collFault with
    | some (c, g, p, q, n) => flg 63 true + fld 62 60 c + fld 59 52 g + fld 51 40 p + fld 31 16 q + fld 15 0 n
    | none => 0
  | .port c r => (s.port c).read r
  | .msixWord i => s.msixWord f i
  | .msixPba i => (s.fn f).pba / 2 ^ (64 * i) % 2 ^ 64
  | .memStatus => fld 3 2 s.boot.media + flg 4 s.mailboxReady
  | .mboxCaps => fld 4 0 8
  | .mboxControl => 0
  | .mboxCommand => (s.fn f).mailbox.command
  | .mboxStatus => fld 47 32 (s.fn f).mailbox.code
  | .mboxPayload i => Tab.get 0 (s.fn f).mailbox.payload i
  | .cxlConfig => s.cxlConfig
  | .msixControl => s.msixControl f
  | .doeObject i => doeObject i
  | .cdatWord i => leAt s.cdat (8 * i) 8

/-! ### What a read clears (R5, R7) -/

/-- The RC fields of a core's register after a read. -/
def Core.cleared (k : Core) : CoreReg → Core
  | .seqWaitCnt => { k with expired := 0 }
  | .seqMoveStatus => { k with moveFull := 0 }
  | .seqCvtCnt => { k with vecNan := 0, moveNan := 0 }
  | .engErrCnt => { k with parityEvents := 0, replayCnt := 0, tileFaults := 0, longsumParity := 0 }
  | .engArithCnt => { k with accOverflow := 0, nanToInt := 0 }
  | .updEvt => { k with verWaits := 0, drainWaits := 0, normSkips := 0 }
  | .memSpErr => { k with spSoft := 0, spHard := 0 }
  | _ => k

/-- The RC fields of a port's register after a read. -/
def Port.cleared (p : Port) : PortReg → Port
  | .err => { p with crcErrors := 0, naks := 0, retrains := 0, resent := 0 }
  | .fec => { p with fecCorrected := 0, fecUncorrected := 0 }
  | _ => p

/-- The RC fields of a Bridge's register after a read. -/
def Bridge.cleared (x : Bridge) : BrgReg → Bridge
  | .strayCnt => { x with stray := 0 }
  | _ => x

/-- The state after a read: the RC fields of the register are clear, and the sources tied to its reading are released (R5, R7,
R347). -/
def State.afterRead (s : State) : Reg → State
  | .bridge b r => s.modBridge b fun x => x.cleared r
  | .bowDieCnt d => s.modBowDie d fun x => { x with steps := 0, hotEntries := 0 }
  | .lthSecure => { s with lth := { s.lth with skipped := 0 } }
  | .pegQcnt n => s.modPegQueue n fun x => { x with batchFails := 0, windowFull := 0, voids := 0, batchFailed := false }
  | .pegVoidCnt => { s with peg := { s.peg with bitstream := 0, unsupported := 0, timeouts := 0, other := 0 } }
  | .uniCnt g => s.modGroup g fun u => { u with held := 0, missing := 0 }
  | .uniScnt n => { s with uni := { s.uni with
      counts := Tab.update {} s.uni.counts n fun (u : UniCnt) => { u with unused := 0, orderVoids := 0 } } }
  | .vltErrCnt => s.modVault fun v => { v with uncorrectable := 0, programFails := 0, readRetries := 0, refreshes := 0 }
  | .sflLogStatus => { s with flash := { s.flash with dropped := 0 } }
  | .frtVwaitCnt => s.modCtx s.frt.vselPart s.frt.vselCtx fun x => { x with pinWaits := 0, drainWaits := 0 }
  | .resPreCnt n => s.modRes n fun p => { p with preemptOthers := 0, selfPreempt := 0, resumes := 0, deferredJoins := 0 }
  | .resSatCnt n => s.modRes n fun p => { p with saturations := 0, overBudget := 0 }
  | .scrOvrCnt n => s.modScr n fun q => { q with demoted := 0, redirected := 0, migrated := 0 }
  | .scrRecompCnt n => s.modScr n fun q => { q with poisonReplays := 0, selfHelped := 0 }
  | .lpEcc i => s.modCtl (.lp i) fun r => { r with onDie := 0, corrected := 0 }
  | .hubSchedCnt n => s.modPart n fun p => { p with restores := 0, xcoreWaits := 0 }
  | .capoCnt j => s.modJob j fun b => { b with switches := 0, misses := 0, event := false }
  | .secCnt => s.modSec fun x => { x with attests := 0, spdmErrors := 0, unlockFails := 0, stageFails := 0 }
  | .core g r => s.modCore g fun k => k.cleared r
  | .scrCodecEvt k => s.modCluster k fun c => { c with refMisses := 0, redecoded := 0, budgetMiss := 0, nonfinite := 0 }
  | .cmErr k => s.modCluster k fun c => { c with cmCorrected := 0, cmUncorrectable := 0 }
  | .dtcCnt d => s.modDie d fun y => { y with dtcInval := y.dtcInval % 1024 }
  | .hbmEcc i => s.modCtl (.hbm i) fun r => { r with onDie := 0, corrected := 0 }
  | .collCnt d => s.modDie d fun y => { y with a2aOverflow := 0, collFailures := 0 }
  | .port c r => s.modPort c fun p => p.cleared r
  | _ => s

/-- A function answers: a virtual function while VF Enable is 1 (R341). -/
def State.answers (s : State) (f : Nat) : Bool := decide (f < numFns) && (decide (f < 2) || s.hub.vfEnable)

/-- REGISTER_READ_RC: a read of a register returns it and clears its RC fields; a reserved offset, and an absent unit, read 0
(R4 to R7, R322). `rdata` is what the read returns. -/
def execRegisterReadRc (f addr : Nat) (s : State) : Host.Outcome State Fault Refusal :=
  if s.off then .next s else
  if !s.answers f then .next s
  else match s.regOf f addr with
    | none => .next { s with rdata := 0 }
    | some r => .next ({ s.afterRead r with rdata := s.readReg f r }.settleBridges)

/-! ### Writes (R5, R6, R465) -/

/-- A die that Bow no longer governs glides to step 3 at gating level 0 (R432). -/
def BowDie.release (x : BowDie) : BowDie :=
  { x.setGate (if x.hot then x.gate else 0) with
    asking := false, high := 0, low := 0
    gliding := x.gliding || decide (x.step < 3), goal := 3 }

/-- BOW_CTRL. -/
def State.writeBowCtrl (s : State) (v : Nat) : State :=
  let off := s.bow.enable && !bit v 0
  let s := { s with bow := { s.bow with
    upPeriods := field v 31 24, stepPeriods := field v 23 16, stepDownLevel := field v 15 12, rampGap := field v 7 4
    enable := bit v 0 } }
  if off then (List.range 4).foldl (fun (s : State) d =>
      (if (s.bowDie d).asking then s.setAvs d (stepVolts (s.bowDie d).step) else s).modBowDie d (·.release)) s
  else s

/-- PEG_QCFGn. -/
def State.writePegQcfg (s : State) (n v : Nat) : State :=
  s.modPegQueue n fun x => { x with
    enable := bit v 63, failBatch := if x.samples.isEmpty then bit v 62 else x.failBatch
    part := field v 61 58, timeout := field v 55 40, emitCtr := field v 31 0 % 2 ^ 17 }

/-- A page-aligned base (R465). -/
def base19 (v : Nat) : Nat := alignDown (field v 40 0) 0x80000

/-- A register of a Bridge that has no row of its own is written. -/
def State.writeBridge (s : State) (b : Nat) (r : BrgReg) (v : Nat) : State :=
  match r with
  | .grp g => (s.modBridge b fun x => { x with groups := Tab.update {} x.groups g fun (y : BrgGroup) => { y with
      tclk := b == 4 && bit v 63, timeThr := field v 39 8, countThr := field v 7 0 } }).bridgeSettle b
  | .srcTgt i =>
    if b = 4 && i < 576 then s
    else (s.modBridge b fun x => { x with
      targets := Tab.set 0 x.targets i (if b = 4 then field v 4 0 else field v 63 0) }).bridgeSettle b
  | .srcCfg i =>
    if b = 4 && i < 576 then s
    else
      let w := ofBool (b != 4 && bit v 31) * 2 ^ 31 + field v 27 24 * 2 ^ 24 + field v 9 0
      (s.modBridge b fun x => { x with
        configs := if w = srcConfigReset b i then x.configs.erase i else x.configs.insert i w }).settleBridges
  | _ => s

/-- A context of any partition has a LAUNCH in progress. -/
def State.anyLaunched (s : State) : Bool := s.parts.any fun e => e.2.ctxs.any fun x => x.2.launch.isSome

/-- A checkpoint or fill of a partition is in progress (R377). -/
def State.savingPart (s : State) (n : Nat) : Bool :=
  s.jobs.ckpts.any (·.part == n) || s.jobs.fills.any (·.part == n)

/-- VLT_CTRL (R410, R416). -/
def State.writeVltCtrl (s : State) (v : Nat) : State :=
  let s := s.modVault fun x => { x with scrubEn := bit v 1, enable := bit v 0 }
  (if bit v 2 then s.writeFormat else s).settleDrain

/-- Messages that are pending go out where neither their vector nor the function is masked any more (R340). -/
def State.sendPending (s : State) (f : Nat) : State :=
  (bitsOf (vectorCount f) (s.fn f).pba).foldl (fun (s : State) v =>
    if (s.msixEntry f v).masked then s else (s.modFn f fun x => { x with pba := x.pba - 2 ^ v }).sendMsix f v) s

/-- MSI-X Message Control is written: with Function Mask 0, pending messages of unmasked vectors go out (R340). -/
def State.writeMsixControl (s : State) (f v : Nat) : State :=
  let s := s.modFn f fun x => { x with msixEnable := bit v 15, msixMask := bit v 14 }
  if bit v 15 && !bit v 14 then s.sendPending f else s

/-- A word of a function's MSI-X table is written. A message that was pending goes out as its vector is unmasked (R340). -/
def State.writeMsix (s : State) (f i v : Nat) : State :=
  let n := i / 4
  if !hasVector f n then s
  else
    let s := s.modFn f fun x => { x with msix := Tab.update {} x.msix n fun (e : MsixEntry) =>
      match i % 4 with
      | 0 => { e with addrLow := alignDown (v % 2 ^ 32) 4 }
      | 1 => { e with addrHigh := v % 2 ^ 32 }
      | 2 => { e with data := v % 2 ^ 32 }
      | _ => { e with masked := bit v 0 } }
    if bit (s.fn f).pba n && !(s.msixEntry f n).masked && !(s.fn f).msixMask then
      (s.modFn f fun x => { x with pba := x.pba - 2 ^ n }).sendMsix f n
    else s

/-- A mailbox command is asked for by the doorbell of Mailbox Control: it returns Unsupported at once, with no payload (R319).
PRESUMED: the code of Unsupported, 3, is the CXL standard's. -/
def Mailbox.run (m : Mailbox) : Mailbox := { m with code := 3, command := field m.command 15 0 }

/-- The effect of a write on a register that has no row of its own. -/
def State.writeReg (s : State) (f : Nat) (r : Reg) (v : Nat) : State :=
  match r with
  | .bootCtrl => s.modBoot fun b => { b with fullTest := bit v 0 }
  | .bridge b r => s.writeBridge b r v
  | .bowCtrl => s.writeBowCtrl v
  | .bowFloor =>
    ({ s with bow := { s.bow with memFloor := field v 23 16, hubFloor := field v 15 8, dieFloor := field v 7 0 } } : State).checkFloor
  | .bowWeight => { s with bow := { s.bow with weights := (List.range 4).map fun i => field v (8 * i + 7) (8 * i) } }
  | .bowTherm => { s with bow := { s.bow with
      evHot := w1c s.bow.evHot v 31, evFloor := w1c s.bow.evFloor v 30, thermHyst := field v 23 20
      tThrottle := min 440 (field v 9 0) } }
  | .bowDroop => { s with bow := { s.bow with droopHold := field v 31 16, droopMv := field v 7 0 } }
  | .lthCtrl => { s with lth := { s.lth with secureEn := bit v 17, enable := bit v 16, period := field v 15 0 } }
  | .lthStatus => { s with lth := { s.lth with
      evFailed := w1c s.lth.evFailed v 59, evCommitted := w1c s.lth.evCommitted v 58, evRaised := w1c s.lth.evRaised v 57 } }
  | .lthWeight => { s with lth := { s.lth with wT := field v 31 24, wE := field v 23 16, wC := field v 15 8, wD := field v 7 0 } }
  | .lthThresh => { s with lth := { s.lth with threshold := field v 23 16, hysteresis := field v 15 8, decay := field v 7 0 } }
  | .lthTempCfg => { s with lth := { s.lth with tHi := field v 25 16, tLo := field v 9 0 } }
  | .pegCtrl => ({ s with peg := { s.peg with pipeEn := field v 31 16, enable := bit v 0 } } : State).fillWindows
  | .pegQcfg n => s.writePegQcfg n v
  | .pegQcur n => s.modPegQueue n fun x => if x.enable then x else { x with cursor := field v 63 0 }
  | .pegFaultInfo => { s with peg := { s.peg with err := if bit v 63 then none else s.peg.err } }
  | .vltCtrl => s.writeVltCtrl v
  | .vltStatus => s.modVault fun x => { x with evMedia := w1c x.evMedia v 60, evSpares := w1c x.evSpares v 59 }
  | .vltCfg => s.modVault fun x => { x with genGib := field v 15 0 }
  | .vltScrub => s.modVault fun x => { x with refreshThr := field v 15 8, scrubGap := field v 7 0 }
  | .vltPlan n => if s.savingPart n then s
    else { s with jobs := { s.jobs with plans := Tab.set 0 s.jobs.plans n (alignDown (field v 40 0) 64) } }
  | .sflStatus => { s with flash := { s.flash with fail := w1c s.flash.fail v 25 } }
  | .queue (.sqBase q) => s.modQueue f q fun x => if x.enable then x else { x with sqBase := alignDown (field v 63 0) 0x1000 }
  | .queue (.cqBase q) => s.modQueue f q fun x => if x.enable then x else { x with cqBase := alignDown (field v 63 0) 0x1000 }
  | .frtFaultInfo => s.modFrt fun x => if bit v 63 then
      { x with faultValid := false, faultPoison := false, faultPart := 0, faultSource := 0, faultAddr := 0 } else x
  | .frtVsel => s.modFrt fun x => { x with vselPart := field v 11 8, vselCtx := field v 5 0 }
  | .frtVwin n => s.modPart n fun p => { p with vwinPages := field v 63 41, vwinBase := base19 v }
  | .frtVshd n => s.modPart n fun p => { p with vshdBase := base19 v }
  | .resCtrl => { s with res := { s.res with policy := field v 2 1, enable := bit v 0 } }
  | .resFaultInfo => { s with res := { s.res with err := if bit v 63 then none else s.res.err } }
  | .scrCtrl =>
    let s : State := { s with scr := { s.scr with promote := bit v 2, override := bit v 1, enable := bit v 0 } }
    (List.range 16).foldl (fun (s : State) n => s.scrLevel n) s
  | .scrPt n => s.modScr n fun q => { q with ptSize := field v 63 41, ptBase := base19 v }
  | .scrSeg n => s.modScr n fun q => { q with segSize := field v 63 41, segBase := base19 v }
  | .scrWin n => s.modScr n fun q => { q with winPages := field v 63 41, winBase := base19 v }
  | .scrQuota n => (s.modScr n fun q => { q with
      quotaSec := if s.secQuotaShown n then field v 53 32 else q.quotaSec, quotaHbm := field v 21 0 }).scrLevel n
  | .scrWm n => (s.modScr n fun q => { q with
      hbmHigh := field v 31 24, hbmLow := field v 23 16, secHigh := field v 15 8, secLow := field v 7 0 }).scrLevel n
  | .scrFaultInfo => { s with scr := { s.scr with err := if bit v 63 then none else s.scr.err } }
  | .lpScrubCfg i => s.modCtl (.lp i) fun x => { x with gap := field v 15 0 }
  | .crsNodeId => if s.anyLaunched then s else { s with crs := { s.crs with nodeId := field v 11 0 } }
  | .crsRoute i => { s with crs := { s.crs with
      routes := Tab.set 0 s.crs.routes i (ofBool (bit v 31) * 2 ^ 31 + field v 15 0) } }
  | .crsGrp n => s.modPart n fun p => { p with groups := field v 63 41, groupBase := alignDown (field v 40 0) 0x1000 }
  | .secStatus => s.modSec fun x => { x with
      evStageFail := w1c x.evStageFail v 31, evUnlock := w1c x.evUnlock v 30, evUnlockFail := w1c x.evUnlockFail v 29 }
  | .core g .seqFaultInfo => s.modCore g fun k => { k with seqErr := if bit v 63 then none else k.seqErr }
  | .core g .engFaultInfo => s.modCore g fun k => { k with engErr := if bit v 63 then none else k.engErr }
  | .scrRefCfg k => (s.modCluster k fun c => { c with refCfg := min 32 (field v 5 0) }).settleRefs k
  | .hbmScrubCfg i => s.modCtl (.hbm i) fun x => { x with gap := field v 15 0 }
  | .collFault d => s.modDie d fun y => { y with collFault := if bit v 63 then none else y.collFault }
  | .msixWord i => s.writeMsix f i v
  | .msixControl => s.writeMsixControl f v
  | .mboxControl => if s.mailboxReady && bit v 0 then s.modFn f fun x => { x with mailbox := x.mailbox.run } else s
  | .mboxCommand => s.modFn f fun x => { x with mailbox := { x.mailbox with command := field v 36 0 } }
  | .mboxPayload i => s.modFn f fun x => { x with mailbox := { x.mailbox with
      payload := Tab.set 0 x.mailbox.payload i (field v 63 0) } }
  | _ => s

/-- REGISTER_WRITE: a write takes effect under the access types of its fields; reserved offsets, absent units and the identity
block of a function other than PF0 ignore it (R4 to R6, R322, R465). A register whose write has a row of its own has that row's
effect. -/
def execRegisterWrite (f addr value : Nat) (s : State) : Host.Outcome State Fault Refusal :=
  if s.off then .next s else
  if !s.answers f || (f != 0 && decide (addr < 0x1000)) then .next s
  else match s.regOf f addr with
    | none => .next s
    | some (.queue (.sqTail q)) => execSqDoorbell f q value s
    | some (.queue (.cqHead q)) => execCqDoorbell f q value s
    | some (.queue (.qcfg q)) => if bit value 31 then execQueueEnable f q value s else execQueueDisable f q value s
    | some (.bridge b .ctrl) => execBrgCtrl b value s
    | some (.bridge b .complete) => execBrgComplete b value s
    | some (.bridge b (.maskSet w)) => execBrgMaskSet b w value s
    | some (.bridge b (.maskClr w)) => execBrgMaskClr b w value s
    | some (.bridge b (.pendSet w)) => execBrgPendSet b w value s
    | some (.bridge b (.pendClr w)) => execBrgPendClr b w value s
    | some (.capoCfg j) => execCapoEnable j value s
    | some (.port c .ctrl) => execRetrain c value s
    | some r => .next ((s.writeReg f r value).settleBridges)

/-- FORMAT: a write of VLT_CTRL with format 1 (R410, R416); a part without a vault ignores it (R4). -/
def execFormat (value : Nat) (s : State) : Host.Outcome State Fault Refusal :=
  if s.off then .next s else
  if s.hasVault && bit value 2 then .next (s.writeVltCtrl value).settleBridges else .next s

/-! ### IDENTIFY and GET_CAPS (R333, R338) -/

/-- The identity block as it reads, 4 KiB. -/
def State.identityBlock (s : State) : List Byte :=
  toLE 8 (s.cap 0) ++ toLE 8 (s.cap 1) ++ toLE 8 (s.cap 2) ++ toLE 8 (s.cap 3) ++ toLE 8 (s.readReg 0 .boot)
    ++ toLE 8 (s.readReg 0 .bootCtrl) ++ toLE 8 (s.readReg 0 .census) ++ fill 0xFC8 0

/-- IDENTIFY (R333). -/
def execIdentify (n : Nat) (s : State) : Host.Outcome State Fault Refusal :=
  s.hostCommand n 0x01 fun c s => (s.fnWrite c.fn (pk c.packet 16 8) s.identityBlock).finish n stOk 0

/-- The record of R338, 4 KiB. -/
def State.capsRecord (s : State) : List Byte :=
  (List.range 4).flatMap (fun i => toLE 8 (s.cap i)) ++ fill 0x20 0
    ++ (List.range 5).flatMap (fun t => toLE 8 (s.readReg 0 (.frtFree t))) ++ fill 0x18 0
    ++ (List.range 12).flatMap (fun i => toLE 4 (s.readReg 0 (.hbmStatus i))) ++ fill 0x10 0
    ++ (List.range 16).flatMap (fun i => toLE 4 (if s.hasLpddr then s.readReg 0 (.lpStatus i) else 0))
    ++ (List.range 16).flatMap (fun c => toLE 4 ((s.port c).read .status))
    ++ toLE 4 s.crs.nodeId ++ fill 0xEBC 0

/-- GET_CAPS (R338). -/
def execGetCaps (n : Nat) (s : State) : Host.Outcome State Fault Refusal :=
  s.hostCommand n 0x02 fun c s => (s.fnWrite c.fn (pk c.packet 16 8) s.capsRecord).finish n stOk 0

end Sys2Proof.Machine
end

