-- ==== Sys2Proof/Machine/Dispatch.lean ====
section
/-! DEFINITION. The effect of each command on everything but the queue: one arm for each row of the table. -/

namespace Sys2Proof.Machine

/-- The effect of a command. -/
def exec (i : Instr) (s : State) : Host.Outcome State Fault Refusal :=
  match i with
  | .identify n => Sys2Proof.Machine.execIdentify n s
  | .getCaps n => Sys2Proof.Machine.execGetCaps n s
  | .partitionCreate n => Sys2Proof.Machine.execPartitionCreate n s
  | .partitionDestroy n => Sys2Proof.Machine.execPartitionDestroy n s
  | .partitionReset n => Sys2Proof.Machine.execPartitionReset n s
  | .contextCreate n => Sys2Proof.Machine.execContextCreate n s
  | .contextDestroy n => Sys2Proof.Machine.execContextDestroy n s
  | .mapPages n => Sys2Proof.Machine.execMapPages n s
  | .unmapPages n => Sys2Proof.Machine.execUnmapPages n s
  | .copy n => Sys2Proof.Machine.execCopy n s
  | .loadProgram n => Sys2Proof.Machine.execLoadProgram n s
  | .launch n => Sys2Proof.Machine.execLaunch n s
  | .preempt n => Sys2Proof.Machine.execPreempt n s
  | .resume n => Sys2Proof.Machine.execResume n s
  | .stepBegin n => Sys2Proof.Machine.execStepBegin n s
  | .stepEnd n => Sys2Proof.Machine.execStepEnd n s
  | .submitSamples n => Sys2Proof.Machine.execSubmitSamples n s
  | .sensorConfig n => Sys2Proof.Machine.execSensorConfig n s
  | .kvSeqOpen n => Sys2Proof.Machine.execKvSeqOpen n s
  | .kvSeqClose n => Sys2Proof.Machine.execKvSeqClose n s
  | .kvFork n => Sys2Proof.Machine.execKvFork n s
  | .checkpointBegin n => Sys2Proof.Machine.execCheckpointBegin n s
  | .checkpointCommit n => Sys2Proof.Machine.execCheckpointCommit n s
  | .checkpointRestore n => Sys2Proof.Machine.execCheckpointRestore n s
  | .vaultRead n => Sys2Proof.Machine.execVaultRead n s
  | .vaultWrite n => Sys2Proof.Machine.execVaultWrite n s
  | .pairBind n => Sys2Proof.Machine.execPairBind n s
  | .adoptNode n => Sys2Proof.Machine.execAdoptNode n s
  | .spareFill n => Sys2Proof.Machine.execSpareFill n s
  | .pairRelease n => Sys2Proof.Machine.execPairRelease n s
  | .setTime n => Sys2Proof.Machine.execSetTime n s
  | .readLifeLog n => Sys2Proof.Machine.execReadLifeLog n s
  | .powerBudget n => Sys2Proof.Machine.execPowerBudget n s
  | .fwStage n => Sys2Proof.Machine.execFwStage n s
  | .fwActivate n => Sys2Proof.Machine.execFwActivate n s
  | .attest n => Sys2Proof.Machine.execAttest n s
  | .debugUnlock n => Sys2Proof.Machine.execDebugUnlock n s
  | .debugReadAcc n => Sys2Proof.Machine.execDebugReadAcc n s
  | .sqDoorbell f q tail => Sys2Proof.Machine.execSqDoorbell f q tail s
  | .cqDoorbell f q head => Sys2Proof.Machine.execCqDoorbell f q head s
  | .queueEnable f q value => Sys2Proof.Machine.execQueueEnable f q value s
  | .queueDisable f q value => Sys2Proof.Machine.execQueueDisable f q value s
  | .commandFetchTimeout r => Sys2Proof.Machine.execCommandFetchTimeout r s
  | .functionLevelReset t => Sys2Proof.Machine.execFunctionLevelReset t s
  | .busMasterDisable f => Sys2Proof.Machine.execBusMasterDisable f s
  | .hostWindowAccess offset data mayCache => Sys2Proof.Machine.execHostWindowAccess offset data mayCache s
  | .birsp line => Sys2Proof.Machine.execBirsp line s
  | .spdmRequest r => Sys2Proof.Machine.execSpdmRequest r s
  | .sidebandMessage message => Sys2Proof.Machine.execSidebandMessage message s
  | .tile g => Sys2Proof.Machine.execTile g s
  | .tileStart g => Sys2Proof.Machine.execTileStart g s
  | .spillPoint g e h => Sys2Proof.Machine.execSpillPoint g e h s
  | .tileDrain g e => Sys2Proof.Machine.execTileDrain g e s
  | .epilogue g err => Sys2Proof.Machine.execEpilogue g err s
  | .parityError g e h step kind => Sys2Proof.Machine.execParityError g e h step kind s
  | .replayStart g => Sys2Proof.Machine.execReplayStart g s
  | .gather g => Sys2Proof.Machine.execGather g s
  | .gatherWaitBound g => Sys2Proof.Machine.execGatherWaitBound g s
  | .vec g err => Sys2Proof.Machine.execVec g err s
  | .move g err => Sys2Proof.Machine.execMove g err s
  | .moveComplete g j => Sys2Proof.Machine.execMoveComplete g j s
  | .wait g err => Sys2Proof.Machine.execWait g err s
  | .waitComplete g => Sys2Proof.Machine.execWaitComplete g s
  | .waitExpire g => Sys2Proof.Machine.execWaitExpire g s
  | .signal g err => Sys2Proof.Machine.execSignal g err s
  | .jump g => Sys2Proof.Machine.execJump g s
  | .stepMark g => Sys2Proof.Machine.execStepMark g s
  | .segBegin g => Sys2Proof.Machine.execSegBegin g s
  | .segEnd g => Sys2Proof.Machine.execSegEnd g s
  | .descriptorLineArrive g => Sys2Proof.Machine.execDescriptorLineArrive g s
  | .update g err => Sys2Proof.Machine.execUpdate g err s
  | .allReduce g => Sys2Proof.Machine.execAllReduce g s
  | .reduceScatter g => Sys2Proof.Machine.execReduceScatter g s
  | .allGather g => Sys2Proof.Machine.execAllGather g s
  | .allToAll g => Sys2Proof.Machine.execAllToAll g s
  | .normGather g => Sys2Proof.Machine.execNormGather g s
  | .collComplete g j => Sys2Proof.Machine.execCollComplete g j s
  | .scrollPut g err => Sys2Proof.Machine.execScrollPut g err s
  | .scrollGet g err => Sys2Proof.Machine.execScrollGet g err s
  | .scrollPutContinue g j => Sys2Proof.Machine.execScrollPutContinue g j s
  | .scrollMigrate p => Sys2Proof.Machine.execScrollMigrate p s
  | .scrollDemote p => Sys2Proof.Machine.execScrollDemote p s
  | .scrollPromote p => Sys2Proof.Machine.execScrollPromote p s
  | .replayEntry c => Sys2Proof.Machine.execReplayEntry c s
  | .pageMoveComplete page result => Sys2Proof.Machine.execPageMoveComplete page result s
  | .fretboardWalk die cluster page => Sys2Proof.Machine.execFretboardWalk die cluster page s
  | .versionClaim g => Sys2Proof.Machine.execVersionClaim g s
  | .versionAdvance g => Sys2Proof.Machine.execVersionAdvance g s
  | .drainPageDone page => Sys2Proof.Machine.execDrainPageDone page s
  | .stepFold p c => Sys2Proof.Machine.execStepFold p c s
  | .swapCopyComplete p page result => Sys2Proof.Machine.execSwapCopyComplete p page result s
  | .memoryUncorrectableError page offset => Sys2Proof.Machine.execMemoryUncorrectableError page offset s
  | .scrubRead ctl frame offset result => Sys2Proof.Machine.execScrubRead ctl frame offset result s
  | .stackFailed j => Sys2Proof.Machine.execStackFailed j s
  | .lpInterfaceFailed j => Sys2Proof.Machine.execLpInterfaceFailed j s
  | .flitReceive course flit => Sys2Proof.Machine.execFlitReceive course flit s
  | .linkControlFlit course control => Sys2Proof.Machine.execLinkControlFlit course control s
  | .messageReceive course => Sys2Proof.Machine.execMessageReceive course s
  | .courseRetrain course reason => Sys2Proof.Machine.execCourseRetrain course reason s
  | .courseTrainingAttemptEnd course ok peer => Sys2Proof.Machine.execCourseTrainingAttemptEnd course ok peer s
  | .mirrorApply p => Sys2Proof.Machine.execMirrorApply p s
  | .pipeDispatch => Sys2Proof.Machine.execPipeDispatch s
  | .sampleDecodeDone pipe result => Sys2Proof.Machine.execSampleDecodeDone pipe result s
  | .sampleEmit queue => Sys2Proof.Machine.execSampleEmit queue s
  | .decodeTimeout pipe => Sys2Proof.Machine.execDecodeTimeout pipe s
  | .unisonSetComplete group => Sys2Proof.Machine.execUnisonSetComplete group s
  | .quantumExpiry g => Sys2Proof.Machine.execQuantumExpiry g s
  | .coreBoundaryReached c => Sys2Proof.Machine.execCoreBoundaryReached c s
  | .capoMilestone j => Sys2Proof.Machine.execCapoMilestone j s
  | .capoDeadline j => Sys2Proof.Machine.execCapoDeadline j s
  | .capoEnable j value => Sys2Proof.Machine.execCapoEnable j value s
  | .sourceAssert bridge source => Sys2Proof.Machine.execSourceAssert bridge source s
  | .groupTimerRelease bridge group => Sys2Proof.Machine.execGroupTimerRelease bridge group s
  | .claim bridge target => Sys2Proof.Machine.execClaim bridge target s
  | .brgComplete bridge value => Sys2Proof.Machine.execBrgComplete bridge value s
  | .brgPendSet bridge word value => Sys2Proof.Machine.execBrgPendSet bridge word value s
  | .brgPendClr bridge word value => Sys2Proof.Machine.execBrgPendClr bridge word value s
  | .brgMaskSet bridge word value => Sys2Proof.Machine.execBrgMaskSet bridge word value s
  | .brgMaskClr bridge word value => Sys2Proof.Machine.execBrgMaskClr bridge word value s
  | .brgCtrl bridge value => Sys2Proof.Machine.execBrgCtrl bridge value s
  | .registerReadRc f addr => Sys2Proof.Machine.execRegisterReadRc f addr s
  | .retrain course value => Sys2Proof.Machine.execRetrain course value s
  | .format value => Sys2Proof.Machine.execFormat value s
  | .registerWrite f addr value => Sys2Proof.Machine.execRegisterWrite f addr value s
  | .luthierEvaluation => Sys2Proof.Machine.execLuthierEvaluation s
  | .grantPeriod demands draws => Sys2Proof.Machine.execGrantPeriod demands draws s
  | .gatingUpdate die draw => Sys2Proof.Machine.execGatingUpdate die draw s
  | .voltageConfirm die millivolts => Sys2Proof.Machine.execVoltageConfirm die millivolts s
  | .rampUpdate die => Sys2Proof.Machine.execRampUpdate die s
  | .droop die => Sys2Proof.Machine.execDroop die s
  | .droopRecover die => Sys2Proof.Machine.execDroopRecover die s
  | .thermalSample readings => Sys2Proof.Machine.execThermalSample readings s
  | .hotStep die => Sys2Proof.Machine.execHotStep die s
  | .thermtrip => Sys2Proof.Machine.execThermtrip s
  | .coldReset fusesOk keyOk => Sys2Proof.Machine.execColdReset fusesOk keyOk s
  | .warmReset cause fusesOk keyOk => Sys2Proof.Machine.execWarmReset cause fusesOk keyOk s
  | .powerLoss => Sys2Proof.Machine.execPowerLoss s
  | .trainingAttemptEnd iface ok found => Sys2Proof.Machine.execTrainingAttemptEnd iface ok found s
  | .bringUpReady r => Sys2Proof.Machine.execBringUpReady r s
  | .referenceClockLoss clock => Sys2Proof.Machine.execReferenceClockLoss clock s
  | .logRecordWrite ok => Sys2Proof.Machine.execLogRecordWrite ok s
  | .lifeLogSummary => Sys2Proof.Machine.execLifeLogSummary s
  | .vaultProgramFail => Sys2Proof.Machine.execVaultProgramFail s
  | .vaultScrub result => Sys2Proof.Machine.execVaultScrub result s
  | .wearLevelMove => Sys2Proof.Machine.execWearLevelMove s
  | .busMasterEnable f => Sys2Proof.Machine.execBusMasterEnable f s
  | .vfEnable => Sys2Proof.Machine.execVfEnable s
  | .cxlLinkUp => Sys2Proof.Machine.execCxlLinkUp s
  | .glideComplete die => Sys2Proof.Machine.execGlideComplete die s
  | .commitRecordDurable => Sys2Proof.Machine.execCommitRecordDurable s
  | .reservedTypeDescriptor g => Sys2Proof.Machine.execReservedTypeDescriptor g s

end Sys2Proof.Machine
end

