-- ==== Sys2Proof/Safety.lean ====
section
/-! DEFINITION. The terms in which the statements speak: a host command that stands at its row, the rows of host commands, what
a state must satisfy for the block to act, and the invariant of the memories. -/

namespace Sys2Proof.Machine

/-- Command `n` is accepted, has opcode `op`, has not begun, and passes those checks of R331 that look at the block (log 2); the package is on. -/
abbrev State.ready (s : State) (n op : Nat) (c : Cmd) : Prop :=
  s.off = false ∧ s.cmd n = some c ∧ c.opcode = op ∧ c.started = false ∧ s.stateCheck c.fn n c.packet = none

/-- The state in which command `n` has begun. -/
def State.begun (s : State) (n : Nat) : State := s.modCmd n fun c => { c with started := true }

/-- The opcodes of R333 and their rows, with what the rows that read or write the vault meet there. -/
def hostRows (met : List (Nat × NandRead)) (fails : Nat) : List (Nat × (Nat → Instr)) :=
  [(0x01, .identify), (0x02, .getCaps), (0x10, .partitionCreate), (0x11, .partitionDestroy), (0x12, .partitionReset),
   (0x20, .contextCreate), (0x21, .contextDestroy), (0x30, .mapPages), (0x31, .unmapPages), (0x32, .copy),
   (0x40, .loadProgram), (0x41, .launch), (0x42, .preempt), (0x43, .resume), (0x50, .stepBegin), (0x51, .stepEnd),
   (0x60, .submitSamples), (0x61, .sensorConfig), (0x70, .kvSeqOpen), (0x71, .kvSeqClose), (0x72, .kvFork)]
  ++ [(0x80, .checkpointBegin), (0x81, .checkpointCommit), (0x82, fun n => .checkpointRestore ⟨n, met⟩),
   (0x83, fun n => .vaultRead ⟨n, met⟩), (0x84, fun n => .vaultWrite ⟨n, fails⟩),
   (0x90, .pairBind), (0x91, .adoptNode), (0x92, .spareFill), (0x93, .pairRelease), (0xA0, .setTime), (0xA1, .readLifeLog),
   (0xB0, .powerBudget), (0xC0, .fwStage), (0xC1, .fwActivate), (0xD0, .attest), (0xD1, .debugUnlock), (0xE0, .debugReadAcc)]

/-- Command `i` answers a next state: `u` with the final status `code`, `detail` of host command `n` written (R330), after which
the hub accepts what its queues hold (R326). -/
def State.endsWith (s : State) (i : Instr) (n code detail : Nat) (u : State) : Prop :=
  exec i s = .next (u.finish n code detail).hubFetch

/-- The hub is as it was, but for pending MSI-X messages whose sources are asserted no more, and which have gone (R340). -/
abbrev State.hubStays (s u : State) : Prop :=
  u.hub = { s.hub with fns := u.hub.fns }
    ∧ ∀ f, u.fn f = { s.fn f with pba := (u.fn f).pba } ∧ (u.fn f).pba &&& (s.fn f).pba = (u.fn f).pba

/-- Every byte memory of the block, the vault's media and the boot slots have their canonical form. -/
abbrev State.memsWf (s : State) : Prop :=
  s.mems.sp.wf = true ∧ s.mems.cm.wf = true ∧ s.mems.ls.wf = true ∧ s.mems.acc.wf = true ∧ s.mems.hbm.wf = true
    ∧ s.mems.lp.wf = true ∧ s.mems.host.wf = true ∧ s.vault.media.wf = true ∧ ∀ m ∈ s.flash.slots, m.wf = true

/-- One of the three parts of R1. -/
abbrev State.partOk (s : State) : Prop := s.partCode = 1 ∨ s.partCode = 2 ∨ s.partCode = 3

/-- A core issues descriptor `d0`, stored at its pc, of a type that `sel` picks out; its done counter and its segment
allow it, and it is not the last of its program. -/
abbrev State.issues (s : State) (g : Nat) (sel : Nat → Bool) (fenced : Bool) (load depth d0 : Nat) : Prop :=
  s.dieOff (dieOf g) = false ∧ s.gate g sel fenced load depth = .go d0
    ∧ s.headerFault g (applyOffsets d0 (s.core g).sq) = none ∧ (s.core g).pc + 1 < (s.core g).count

end Sys2Proof.Machine
end

