-- ==== Sys2Proof/Certificates/Slice0/Obligations.lean ====
section
/-! DEFINITION. The statements for the provers. `s.endsWith i n code detail u` says that command `i` answers a next state: `u`, with
the final status of host command `n` written, after which the hub accepts what its queues hold. -/

open Sys2Proof Sys2Proof.Machine

/-! ### The step, the queue and the invariants -/

/-- A step takes the command at the front of the queue and is its effect on the state with the queue's rest. With no command
waiting, a step is the hub's fetching and accepting of what its submission queues hold (R326); that an idle step does this is the
model's choice (log 3). -/
def Obligations.StepRunsFront : Prop :=
  (∀ (c : Instr) (rest : List Instr) (s : State), step { s with pending := c :: rest } = exec c { s with pending := rest }) ∧
  (∀ s : State, s.pending = [] → step s = .next s.hubFetch)

/-- No command changes the queue of waiting commands: commands are taken first in, first out. -/
def Obligations.QueueKept : Prop := ∀ (c : Instr) (s t : State), exec c s = .next t → t.pending = s.pending

/-- No step, no reset among them, makes another part of the package than R1 lists: the part stays what it is. -/
def Obligations.PartKept : Prop :=
  ∀ s t : State, s.partOk → step s = .next t → t.partOk ∧ t.partCode = s.partCode

/-- Every step keeps the canonical form of every byte memory: scratchpads, cluster memories, long-sum buffers, accumulators,
HBM3E, LPDDR5X, host memory, vault and boot slots. -/
def Obligations.MemoriesStayCanonical : Prop := ∀ s t : State, s.memsWf → step s = .next t → t.memsWf

/-- The state right after reset meets the invariants, and its queue is empty. The registers whose value at reset is not 0 read it
in the state right after reset, and a register of each block whose value at reset is 0 reads 0. That the package is powered in
that state, with no bring-up begun, is the model's choice (log 6). -/
def Obligations.StateAtReset : Prop :=
  (
    State.reset.memsWf ∧ State.reset.partOk ∧ State.reset.pending = [] ∧ State.reset.off = false) ∧
  (
    (∀ p ∈ ([(.bowCtrl, 0x10042041), (.bowBudget, 1500), (.bowFloor, 80 * 2 ^ 16 + 90 * 2 ^ 8 + 60), (.bowWeight, 0x10101010),
        (.bowDie 0, 0x10003), (.bowTherm, 8 * 2 ^ 20 + 460 * 2 ^ 10 + 400), (.bowDroop, 0x04000032), (.lthCtrl, 0x30400),
        (.lthWeight, 0x60403020), (.lthThresh, 0xA02004), (.lthTempCfg, 400 * 2 ^ 16 + 340), (.pegCtrl, 0xFFFF0000), (.vltCtrl, 2),
        (.vltScrub, 48 * 2 ^ 8 + 43), (.scrWm 0, 0xE8D0F0E0), (.scrRefCfg 0, 16), (.hbmScrubCfg 0, 256),
        (.port 0 .ctrl, 2 * 2 ^ 56 + 4 * 2 ^ 48 + 2 ^ 40 + 16 * 2 ^ 16 + 0xFC00)] : List (Reg × Nat)),
      State.reset.readReg 0 p.1 = p.2) ∧
    (∀ p ∈ ([(.bridge 4 (.maskSet 0), 0xFFFFFFFF), (.bridge 0 (.maskClr 31), 0xFFFFFFFF), (.bridge 0 (.grp 3), 1),
        (.bridge 0 (.srcCfg 64), 2 ^ 31 + 64), (.bridge 4 (.srcCfg 1023), 0x3FF)] : List (Reg × Nat)),
      State.reset.readReg 0 p.1 = p.2) ∧
    (∀ r ∈ ([.queue (.qcfg 0), .resCtrl, .scrCtrl, .frtVwin 0, .crsGrp 0, .hubPart 0, .capoCfg 0, .secStatus, .core 0 .seqStatus,
        .core 0 .engBeats, .core 0 (.seqSq 14), .cmErr 0, .collCnt 0, .vltStatus, .bridge 4 .ctrl] : List Reg),
      State.reset.readReg 0 r = 0))

/-! ### Resets, power, clocks and bring-up -/

/-- After THERMTRIP_N, without power, or without the hub's reference clock, the package does nothing: every command but a cold
reset, the removal of the supplies and, while the package has power, THERMTRIP leaves the state as it is (R427, R461). POWER_LOSS loses all volatile state; THERMTRIP
asserts THERMTRIP_N and stops every PLL; a course clock lost in service stops its die and asserts FAULT_N, and the hub's stops
the package (R378, R427, R461). -/
def Obligations.PowerClocksAndStop : Prop :=
  (
    ∀ (c : Instr) (s : State), s.off = true → (∀ a b, c ≠ .coldReset a b) → c ≠ .powerLoss →
      (c ≠ .thermtrip ∨ s.boot.powered = false) → exec c s = .next s) ∧
  (
    ∀ s : State,
      (∃ t, exec .powerLoss s = .next t ∧ t.boot.powered = false ∧ t.mems = { host := s.mems.host } ∧ t.parts = [] ∧ t.cores = []
        ∧ t.hub = {} ∧ t.boot.record = none ∧ t.off = true) ∧
      (s.boot.powered = true → ∃ t, exec .thermtrip s = .next t ∧ t.pins.thermtrip = true ∧ t.off = true
          ∧ t = { s with pins := t.pins, boot := t.boot }) ∧
      (s.off = false →
        (∀ d, d < 4 → s.boot.stage = 5 → ∃ t, exec (.referenceClockLoss d) s = .next t ∧ t.dieOff d = true ∧ t.pins.fault = true
          ∧ t = { s with pins := t.pins, boot := t.boot }) ∧
        (∃ t, exec (.referenceClockLoss 4) s = .next t ∧ t.off = true ∧ t.pins.fault = true
          ∧ t = { s with pins := t.pins, boot := t.boot })))

/-- COLD_RESET loses all volatile state and starts a bring-up: with a fuse ECC failure it halts with cause 1 and FAULT_N, and
otherwise it trains, or enters recovery mode (R9, R378, R380, R383). After THERMTRIP_N it does nothing: R427 leaves the package off
until its supplies are removed; that the row itself then answers the state as it is, is the model's choice (log 108). -/
def Obligations.ColdResetStartsBringUp : Prop :=
  ∀ (fusesOk keyOk : Bool) (s : State), (s.pins.thermtrip = true → exec (.coldReset fusesOk keyOk) s = .next s) ∧
    (s.pins.thermtrip = false →
    ∃ t, exec (.coldReset fusesOk keyOk) s = .next t ∧ t.mems = { host := s.mems.host } ∧ t.parts = [] ∧ t.cores = []
      ∧ t.clusters = [] ∧ t.frt = {} ∧ t.scr = {} ∧ t.res = {} ∧ t.peg = {} ∧ t.uni = {} ∧ t.bridges = [] ∧ t.hub = {} ∧ t.bow = {}
      ∧ t.boot.record = none ∧ t.boot.census = 0 ∧ t.sec.keyOk = keyOk ∧ t.sec.devId = s.sec.fuseId
      ∧ t.sec.deviceKey = (if keyOk then some (Config.unsealed s.sec.sealedKey) else none)
      ∧ (fusesOk = false → t.boot.stage = 7 ∧ t.boot.haltCause = 1 ∧ t.pins.fault = true)
      ∧ (fusesOk = true → t.boot.stage = 2 ∨ t.boot.stage = 6 ∧ t.boot.recovery = true))

/-- WARM_RESET of a package in service loses what a cold reset loses, but for the self-test record, the census and full_test;
one that the firmware starts happens only when FW_ACTIVATE has asked for it and its OK has been written (R9, R378, R389, R394, R440).
After a reference clock lost in service a warm reset does nothing: only a cold reset recovers the package (R461). -/
def Obligations.WarmResetKeepsRecord : Prop :=
  ∀ (cause : WarmCause) (fusesOk keyOk : Bool) (s : State), s.off = false → s.boot.stage = 5 →
    (s.boot.clockLost = false → cause ≠ .firmware ∨ s.activateDue = true →
      ∃ t, exec (.warmReset cause fusesOk keyOk) s = .next t ∧ t.mems = { host := s.mems.host } ∧ t.parts = [] ∧ t.cores = []
        ∧ t.frt = {} ∧ t.scr = {} ∧ t.res = {} ∧ t.bridges = [] ∧ t.hub = {} ∧ t.bow = {} ∧ t.boot.record = s.boot.record
        ∧ t.boot.census = s.boot.census ∧ t.boot.recorded = s.boot.recorded ∧ t.boot.fullTest = s.boot.fullTest
        ∧ t.boot.activate = none) ∧
    (s.boot.clockLost = true → exec (.warmReset cause fusesOk keyOk) s = .next s) ∧
    (s.activateDue = false → exec (.warmReset .firmware fusesOk keyOk) s = .next s)

/-- No cold or warm reset, and no loss of power, changes the boot slots, the configuration block, the vault's contents or the fuse
counter, unless it cuts off a FW_STAGE (R10, R431, R439). -/
def Obligations.ResetsKeepStoredContents : Prop :=
  ∀ (c : Instr) (s t : State),
    ((∃ a b, c = .coldReset a b) ∨ (∃ w a b, c = .warmReset w a b) ∨ c = .powerLoss) →
    (s.hub.accepted.any fun q => q.opcode == 0xC0) = false → exec c s = .next t →
    t.flash.slots = s.flash.slots ∧ t.flash.copies = s.flash.copies ∧ t.vault.media = s.vault.media
      ∧ t.vault.areaGib = s.vault.areaGib ∧ t.sec.fuses = s.sec.fuses

/-- TRAINING_ATTEMPT_END: an interface that trains is in use at the option tried, and is live; one that fails tries the next, and
after its last attempt it is lost (R237, R241, R384). In service it ends an attempt of a retraining, which the life log counts
(R400): that an attempt there is one of a retraining is the model's reading (log 193).
BRING_UP_READY: with every interface trained or lost and the hub's tests
passed, the package is ready: stage 5, full_test clear unless the bring-up is cold, the running image's versions shown, the fuse
counter raised to its security version, and, where there is a device key, the alias key derived from it and issued (R435; the standards' KDF and order: log 194); a failed hub test halts a bring-up off the fast path with cause 2 (R380, R383, R388, R394, R438). -/
def Obligations.TrainingAndBringUp : Prop :=
  (
    ∀ (s : State), s.off = false → s.boot.dead = [] → s.boot.stage = 2 →
      (∀ i, i < 12 → (s.stackReg i).state = 0 →
        (∀ x, ∃ t, exec (.trainingAttemptEnd (.hbm i) true x) s = .next t ∧ (t.stackReg i).state = 1
          ∧ (t.stackReg i).rate = Tab.get 0 s.boot.attempts i ∧ t.boot.hbmLive = s.boot.hbmLive ||| 2 ^ i
          ∧ t = { s with hbms := t.hbms, boot := t.boot }) ∧
        (∀ x, Tab.get 0 s.boot.attempts i < 2 → ∃ t, exec (.trainingAttemptEnd (.hbm i) false x) s = .next t
          ∧ (t.stackReg i).state = 0 ∧ Tab.get 0 t.boot.attempts i = Tab.get 0 s.boot.attempts i + 1
          ∧ t = { s with boot := t.boot }) ∧
        (∀ x, Tab.get 0 s.boot.attempts i = 2 → ∃ t, exec (.trainingAttemptEnd (.hbm i) false x) s = .next t
          ∧ (t.stackReg i).state = 2 ∧ t.boot.hbmLost = s.boot.hbmLost ||| 2 ^ i)) ∧
      (∀ i x, i < 16 → s.hasLpddr = true → bit s.board.lps i = true → (s.lpReg i).state = 0 → x ∈ [1, 2, 4] →
        ∃ t, exec (.trainingAttemptEnd (.lp i) true x) s = .next t ∧ (t.lpReg i).state = 1 ∧ (t.lpReg i).usable = x
          ∧ t.boot.lpLive = s.boot.lpLive ||| 2 ^ i ∧ t = { s with lps := t.lps, boot := t.boot })) ∧
  (
    ∀ (s : State) (i x : Nat), s.off = false → s.boot.dead = [] → s.boot.stage = 5 → i < 12 → (s.stackReg i).state = 1 →
      ∃ t, exec (.trainingAttemptEnd (.hbm i) true x) s = .next t ∧ (t.stackReg i).rate = Tab.get 0 s.boot.attempts i
        ∧ t.flash.retrains = wrapAdd 32 s.flash.retrains 1 ∧ t = { s with hbms := t.hbms, boot := t.boot, flash := t.flash }) ∧
  (
    ∀ (r : SelfTest) (s : State), s.off = false → s.boot.stage = 2 → s.trained = true →
      (r.hubOk = true ∨ s.fastPath = true →
        ∃ t, exec (.bringUpReady r) s = .next t ∧ t.boot.stage = 5 ∧ t.boot.fullTest = (s.boot.fullTest && s.boot.path == 0)
          ∧ t.boot.fwVersion = imgFw s.boot.image ∧ t.boot.secVersion = imgSec s.boot.image
          ∧ t.sec.fuses = max s.sec.fuses (imgSec s.boot.image) 
          ∧ t.boot.engine = Config.engineFirmware (s.slotImage s.boot.slot)
          ∧ (s.sec.deviceKey = none → t.sec.aliasOk = s.sec.aliasOk)
          ∧ (∀ key, s.sec.deviceKey = some key → t.sec.aliasOk = true
              ∧ t.sec.aliasKey = some (aliasScalar key (Config.sm3 (padTo 4096 s.boot.image)) (Config.sm3 t.boot.engine)))
          ∧ (s.fastPath = true → t.boot.path = 1)) ∧
      (r.hubOk = false → s.fastPath = false →
        ∃ t, exec (.bringUpReady r) s = .next t ∧ t.boot.stage = 7 ∧ t.boot.haltCause = 2 ∧ t.pins.fault = true))
/-! ### The command path (13) -/

/-- A command whose partition, context or operands fail their checks when its row carries it out receives that status and has no other
effect. R326 accepts only what has passed every check of R331; that those which look at the block are made a second time at the row
is the model's choice (log 2). -/
def Obligations.CommandRefused : Prop :=
  ∀ (met : List (Nat × NandRead)) (fails : Nat) (row : Nat × (Nat → Instr)) (s : State) (n : Nat) (c : Cmd) (code detail : Nat),
    row ∈ hostRows met fails → s.off = false →
    s.cmd n = some c → c.opcode = row.1 → c.started = false → s.stateCheck c.fn n c.packet = some (code, detail) →
    exec (row.2 n) s = .next ((s.finish n code detail).hubFetch)

/-- The hub takes one entry: the head of its queue advances; a command that passes its checks joins the accepted commands with the
next acceptance number and is counted, and one that fails is counted and receives its one final status, nothing else
(R324, R326, R330, R331). -/
def Obligations.EntryTaken : Prop :=
  ∀ (s : State) (f q : Nat) (p : List Byte), s.nextEntry f q = p →
    let x := s.queue f q
    ∃ u : State, u = { s with hub := u.hub } ∧ (u.queue f q) = { x with sqHead := (x.sqHead + 1) % max 1 x.size }
      ∧ u.hub.accepted = s.hub.accepted ∧ u.hub.nextNumber = s.hub.nextNumber
      ∧ (u.check f q s.hub.nextNumber p = none → pkOpcode p ∉ hasInterim →
          ∃ t, s.takeOne f q = t ∧ t = { s with hub := t.hub } ∧ t.hub.nextNumber = s.hub.nextNumber + 1
            ∧ t.hub.accepted = s.hub.accepted ++
                [({ number := s.hub.nextNumber, fn := f, queue := q, opcode := pkOpcode p, tag := pkTag p, packet := p } : Cmd)]
            ∧ (t.fn f).accepted = wrapAdd 32 (s.fn f).accepted 1)
      ∧ (∀ code detail, u.check f q s.hub.nextNumber p = some (code, detail) →
          s.takeOne f q = u.refuse f q p code detail)

/-- A status written with room in the completion queue: its 32 bytes stand at the tail, with the phase in force and the new
count; the tail advances, and the phase changes when it passes the queue's end (R324, R329). -/
def Obligations.StatusWritten : Prop :=
  ∀ (s : State) (f q : Nat) (st : List Byte), s.memsWf → st.length = 16 → (s.fn f).busMaster = true →
    (s.queue f q).waiting = [] → (s.queue f q).cqFull = false → (s.queue f q).cqTail < (s.queue f q).size →
    let x := s.queue f q
    ∃ t stamp, s.status f q st = t
      ∧ t.hostRead (x.cqBase + 32 * x.cqTail) 32 = sealStatus st x.phase x.sqHead (wrapAdd 32 x.count 1) stamp
      ∧ (t.queue f q).cqTail = (if x.cqTail + 1 = x.size then 0 else x.cqTail + 1)
      ∧ (t.queue f q).phase = (if x.cqTail + 1 = x.size then !x.phase else x.phase)
      ∧ (t.queue f q).count = wrapAdd 32 x.count 1 ∧ (t.queue f q).waiting = []
      ∧ (∀ a, a < x.cqBase + 32 * x.cqTail ∨ x.cqBase + 32 * x.cqTail + 32 ≤ a → t.mems.host.byte a = s.mems.host.byte a)
      ∧ t = { s with hub := t.hub, mems := { s.mems with host := t.mems.host }, fresh := t.fresh }

/-- The end of a command and the hub's fetching after it change nothing but the hub's own state, host memory, the life log's
queue of records with its counts, and the supply of free values. -/
def Obligations.HubFrame : Prop :=
  ∀ (s : State) (n code detail : Nat), let t := (s.finish n code detail).hubFetch
    t = { s with hub := t.hub, mems := { s.mems with host := t.mems.host }, fresh := t.fresh, flash := { s.flash with
      queue := t.flash.queue, dropped := t.flash.dropped, drops := t.flash.drops } }

/-- IDENTIFY writes the identity block and GET_CAPS its record as it reads now, both 4 KiB, to the host address of the command, and both
complete with OK; the record holds the registers of R338's table at their offsets, and zero elsewhere (R338). -/
def Obligations.IdentityAndCaps : Prop :=
  ∀ (s : State) (n : Nat) (c : Cmd), let u := s.begun n
    (s.ready n 0x01 c → s.endsWith (.identify n) n stOk 0 (u.fnWrite c.fn (pk c.packet 16 8) u.identityBlock)) ∧
    (s.ready n 0x02 c → s.endsWith (.getCaps n) n stOk 0 (u.fnWrite c.fn (pk c.packet 16 8) u.capsRecord)) ∧
    s.identityBlock.length = 4096 ∧ s.capsRecord.length = 4096 ∧
    (∀ i, i < 4 → leAt s.identityBlock (8 * i) 8 = s.cap i % 2 ^ 64 ∧ leAt s.capsRecord (8 * i) 8 = s.cap i % 2 ^ 64) ∧
    leAt s.identityBlock 0x20 8 = s.readReg 0 .boot % 2 ^ 64 ∧ leAt s.identityBlock 0x30 8 = s.readReg 0 .census % 2 ^ 64 ∧
    (∀ t, t < 5 → leAt s.capsRecord (0x40 + 8 * t) 8 = s.readReg 0 (.frtFree t) % 2 ^ 64) ∧
    (∀ i, i < 12 → leAt s.capsRecord (0x80 + 4 * i) 4 = s.readReg 0 (.hbmStatus i) % 2 ^ 32) ∧
    (∀ i, i < 16 → leAt s.capsRecord (0xC0 + 4 * i) 4 = if s.hasLpddr then s.readReg 0 (.lpStatus i) % 2 ^ 32 else 0) ∧
    (∀ i, i < 16 → leAt s.capsRecord (0x100 + 4 * i) 4 = (s.port i).read .status % 2 ^ 32) ∧
    leAt s.capsRecord 0x140 4 = s.crs.nodeId % 2 ^ 32 ∧
    (∀ o, ((0x20 ≤ o ∧ o < 0x40) ∨ (0x68 ≤ o ∧ o < 0x80) ∨ (0xB0 ≤ o ∧ o < 0xC0) ∨ 0x144 ≤ o) → s.capsRecord.getD o 0 = 0)

/-! ### Partitions and contexts (12) -/

/-- PARTITION_CREATE: the partition is active with its granules, class and quota; their scratchpads, long-sum buffers and cluster
memories read zero, its registers have their reset values, and every other partition and granule is as it was (R301). -/
def Obligations.PartitionCreated : Prop :=
  ∀ (s : State) (n : Nat) (c : Cmd), s.ready n 0x10 c → s.memsWf →
    let m := pk c.packet 16 1 % 16
    let mask := pk c.packet 18 2
    ∃ u : State, s.endsWith (.partitionCreate n) n stOk 0 u
      ∧ u.part m = { state := 1, gmask := mask, classF := bit (pk c.packet 17 1) 0, rtQuota := field (pk c.packet 17 1) 3 1 }
      ∧ u.scrPart m = {} ∧ u.pair m = {} ∧ u.plan m = 0 ∧ (∀ k, k ≠ m → u.part k = s.part k)
      ∧ (∀ g o, g < numCores → bit mask (granuleOf g) = true → o < 2 ^ 22 → u.mems.sp.byte (g * 2 ^ 22 + o) = 0)
      ∧ (∀ k o, k < 32 → bit mask (k / 2) = true → o < 2 ^ 24 → u.mems.cm.byte (k * 2 ^ 24 + o) = 0)
      ∧ (∀ g o, g < numCores → bit mask (granuleOf g) = true → o < 2 ^ 18 → u.mems.ls.byte (g * 2 ^ 18 + o) = 0)
      ∧ (∀ g o, g < numCores → bit mask (granuleOf g) = false → o < 2 ^ 22 →
          u.mems.sp.byte (g * 2 ^ 22 + o) = s.mems.sp.byte (g * 2 ^ 22 + o))
      ∧ u = { s.begun n with parts := u.parts, scr := u.scr, res := u.res, crs := u.crs, jobs := u.jobs,
                             mems := { s.mems with sp := u.mems.sp, cm := u.mems.cm, ls := u.mems.ls } }

/-- PARTITION_RESET and PARTITION_DESTROY begin with a reset: the partition reads as resetting and keeps its granules and its
page mappings; its contexts, its sequences and its pieces are gone, its cores, memories and registers are at their reset values.
When the row comes again, PARTITION_RESET completes with OK and the partition is active; PARTITION_DESTROY frees what it
owned, where no page is being drained, moved or held by the host (R302, R303). That the reset takes two steps is the model's
choice (log 95). -/
def Obligations.PartitionResetAndDestroyed : Prop :=
  ∀ (s : State) (n : Nat) (c : Cmd), s.memsWf →
    let m := pk c.packet 16 1 % 16
    (∀ row op, (row = Instr.partitionReset n ∧ op = 0x12) ∨ (row = Instr.partitionDestroy n ∧ op = 0x11) → s.ready n op c →
      ∃ u : State, exec row s = .next u.settleBridges.hubFetch
        ∧ (u.part m).state = 2 ∧ (u.part m).gmask = (s.part m).gmask ∧ (u.part m).ctxs = []
        ∧ (u.part m).vwinPages = 0 ∧ (u.part m).vwinBase = 0 ∧ (u.part m).vshdBase = 0 ∧ (u.part m).groups = 0
        ∧ u.scrPart m = {} ∧ u.pair m = {} ∧ u.plan m = 0 ∧ (∀ q ∈ u.res.seqs, q.part ≠ m)
        ∧ (∀ g ∈ coresOfMask (s.part m).gmask, u.core g = {} ∧ ∀ o, o < 2 ^ 22 → u.mems.sp.byte (g * 2 ^ 22 + o) = 0)
        ∧ (∀ k ∈ clustersOfMask (s.part m).gmask, u.cluster k = {} ∧ ∀ o, o < 2 ^ 24 → u.mems.cm.byte (k * 2 ^ 24 + o) = 0)) ∧
    (s.resetting n 0x12 = some m →
      ∃ u : State, exec (.partitionReset n) s = .next ((u.finish n stOk 0).settleBridges.hubFetch)
        ∧ (u.part m).state = 1 ∧ (u.part m).gmask = (s.part m).gmask ∧ (u.part m).vwinPages = 0 ∧ (u.part m).vshdBase = 0
        ∧ (u.part m).groups = 0) ∧
    (s.resetting n 0x11 = some m → s.frt.snoop = [] → s.frt.moves = [] → (∀ e ∈ s.frt.entry, eDrain e.2 = false) →
      ∃ u : State, exec (.partitionDestroy n) s = .next ((u.finish n stOk 0).settleBridges.hubFetch)
        ∧ u.part m = {} ∧ (∀ x, eValid (u.entry x) = true → ePart (u.entry x) ≠ m))

/-- CONTEXT_CREATE: a context with the command's fields, its placement and the next generation takes a free index, and its detail
names all three; CONTEXT_DESTROY of a context that nothing runs: the context is gone, and no core of its placement runs it
(R304, R305, R332). -/
def Obligations.ContextsCreatedAndDestroyed : Prop :=
  ∀ (s : State) (n : Nat) (c : Cmd), let p := c.packet
    let m := pkPart p
    (s.ready n 0x20 c → ∃ (u : State) (i : Nat) (x : Ctx),
      s.endsWith (.contextCreate n) n stOk (i + x.gmask * 2 ^ 16 + x.gen * 2 ^ 32) u
        ∧ s.ctx m i = none ∧ i < 64 ∧ u.ctx m i = some x ∧ (∀ j, j ≠ i → u.ctx m j = s.ctx m j)
        ∧ some x.gmask = s.placement m p ∧ x.gen = ((s.part m).created + 1) % 2 ^ 32 ∧ (u.part m).created = x.gen
        ∧ x.realTime = bit (pk p 16 1) 0 ∧ x.prio = field (pk p 16 1) 3 1 ∧ x.quantum = pk p 20 4 ∧ x.spBase = pk p 24 2
        ∧ x.spUnits = (if pk p 26 2 = 0 then 0x10000 else pk p 26 2) ∧ x.lsMask = pk p 28 1 ∧ x.vbase = pk p 34 6
        ∧ x.waitBound = pk p 40 4 ∧ x.saveBase = pk p 44 6 ∧ x.launch = none ∧ x.stepOpen = false
        ∧ (∀ k, k ≠ m → u.part k = s.part k) ∧ u = { s.begun n with parts := u.parts }) ∧
    (∀ x, s.ready n 0x21 c → s.ctx m (pkCtx p) = some x → x.launch = none → x.abandon = none →
      (x.coreList.any fun g => s.stillRuns m (pkCtx p) g) = false →
      ∃ u : State, s.endsWith (.contextDestroy n) n stOk 0 u ∧ u.ctx m (pkCtx p) = none
        ∧ ∀ g ∈ x.coreList, ¬((u.core g).part = m ∧ (u.core g).ctx = some (pkCtx p)))

/-- LAUNCH of images that can be read, with bases and counts that R90 allows, loads every core of the placement and is in
progress or complete; with others it completes with BAD_PARAM (the model's reading of R90, log 119); PREEMPT stops every core
of the context and marks it; with abandon 1 and no LAUNCH it completes at once (the model's choice, log 99); RESUME makes it ready (R312, R313, R335). -/
def Obligations.LaunchPreemptResume : Prop :=
  ∀ (s : State) (n : Nat) (c : Cmd) (x : Ctx), let p := c.packet
    let m := pkPart p
    let cx := pkCtx p
    s.ctx m cx = some x →
    (∀ im, s.ready n 0x41 c → bit (pk p 28 1) 1 = false →
      (s.begun n).readImages m x (pk p 16 6) (pk p 22 6) (bit (pk p 28 1) 0) = .inr (.ok im) →
      (im.sound = true → exec (.launch n) s = .next (((s.begun n).beginLaunch m cx n x false im).hubFetch)) ∧
      (im.sound = false → s.endsWith (.launch n) n stBadParam 16 (s.begun n))) ∧
    (∀ j im, s.ready n 0x41 c → bit (pk p 28 1) 1 = true → s.jobOf m cx = some j →
      ((s.begun n).capoRelease j n).capoImages j m x (((s.begun n).capoRelease j n).job j).cheap = .inr (.ok im) →
      im.sound = true → exec (.launch n) s = .next ((((s.begun n).capoRelease j n).beginLaunch m cx n x true im).hubFetch)) ∧
    (s.ready n 0x42 c → bit (pk p 16 1) 0 = true → x.launch = none → x.abandon = none →
      s.endsWith (.preempt n) n stOk 0 (s.begun n)) ∧
    (s.ready n 0x42 c → bit (pk p 16 1) 0 = false → (x.coreList.any fun g => s.stillRuns m cx g) = false →
      ∃ u : State, exec (.preempt n) s = .next (((u.finish n stOk 0).settleAll x.coreList).hubFetch)
        ∧ (u.ctx m cx).map Ctx.preempted = some true) ∧
    (s.ready n 0x43 c →
      exec (.resume n) s = .next ((((((s.begun n).modCtx m cx fun x => { x with preempted := false }).finish n stOk 0).settleAll
        x.coreList).settleBridges).hubFetch))

/-- STEP_BEGIN sets the step counter and the seed and opens the step; STEP_END completes once every core has passed the step of
its number and the fold, where the context has sequences, has written the views, unless a view record, a release of the step's pieces or the schedule record that it captures waits for a page
or for the host, and then no step is open (R18, R156, R172, R228, R244, R336). -/
def Obligations.StepsBeginAndEnd : Prop :=
  ∀ (s : State) (n : Nat) (c : Cmd) (x : Ctx), let p := c.packet
    let m := pkPart p
    let cx := pkCtx p
    s.ctx m cx = some x →
    (s.ready n 0x50 c → ∃ u : State, exec (.stepBegin n) s
        = .next ((((u.finish n stOk 0).settleAll x.coreList).settleBridges).hubFetch)
      ∧ ∃ y, u.ctx m cx = some y ∧ y.step = BitVec.ofNat 64 (pk p 16 8) ∧ y.seed = BitVec.ofNat 64 (pk p 24 8)
        ∧ y.stepOpen = true ∧ y.passed = [] ∧ y.launch = x.launch ∧ y.gmask = x.gmask) ∧
    (s.ready n 0x51 c → x.stepPassed = true → x.step.toNat = pk p 16 8 → s.hasSeqs m cx = false →
      (s.begun n).viewsPending m cx = false → (s.begun n).scrAway m cx = false →
      (((s.begun n).openCkpt m cx).filter fun k => !k.captured && decide (k.openedAt ≤ n)).any ((s.begun n).captureWaits m cx x) = false →
      ∃ (u : State) (pre : Nat), exec (.stepEnd n) s = .next (((u.finish n stOk pre).settleDrain).hubFetch)
        ∧ ∃ y, u.ctx m cx = some y ∧ y.stepOpen = false ∧ y.step = x.step ∧ ∀ q ∈ y.segPins, q.step ≠ x.step) ∧
    (s.ready n 0x51 c → x.stepPassed = false → exec (.stepEnd n) s = .next (((s.begun n).unstart n).hubFetch))

/-! ### Device memory for the host (09, 13) -/

/-- MAP_PAGES to a tier of the package's own memory: every page of the range is valid, of the partition, of the tier, in state 00,
with share 1, and reads zeros; other entries stay, but for the shadows of a version window. With hwin 1 the range is the host
window, and the snoop filter is empty: that the lines of the old window leave the filter, and the errors that waited for them poison
their pages, is the model's choice (log 166). To tier 5 the frames are those of the list (R225, R245). UNMAP_PAGES of pages that no drain, no move and no line of
the host holds: their entries, and the shadows' of a version window, are cleared, and no other (R226, R246). -/
def Obligations.PagesMappedAndUnmapped : Prop :=
  (
    ∀ (s : State) (n : Nat) (c : Cmd), s.ready n 0x30 c → s.memsWf →
      let p := c.packet
      let m := pk p 16 1 % 16
      let tier := pk p 17 1 % 8
      let xs := pageRange (pk p 20 6) (pk p 26 4)
      (bit (pk p 18 1) 0 = false → tier ≤ 4 →
        ∃ u : State, s.endsWith (.mapPages n) n stOk 0 u
          ∧ (∀ x ∈ xs, eValid (u.entry x) = true ∧ ePart (u.entry x) = m ∧ eTier (u.entry x) = tier ∧ eState (u.entry x) = 0
              ∧ eShare (u.entry x) = 1 ∧ ePinned (u.entry x) = bit (pk p 17 1) 3
              ∧ ∀ o, o < pageBytes → u.mems.readLoc (locate tier (eFrame (u.entry x)) o) 1 = [0])
          ∧ (∀ y, y ∉ xs → (∀ x ∈ xs, s.inWindow m (x * pageBytes) = true → y ≠ s.shadowOf m x) → u.entry y = s.entry y)
          ∧ u = { s.begun n with frt := u.frt, mems := { s.mems with hbm := u.mems.hbm, lp := u.mems.lp }, dies := u.dies, res := u.res }) ∧
      (bit (pk p 18 1) 0 = false → tier = 5 → (s.fn c.fn).busMaster = true →
        (∀ x ∈ xs, s.inWindow m (x * pageBytes) = false) →
        ∃ u : State, s.endsWith (.mapPages n) n stOk 0 u
          ∧ (∀ i, i < pk p 26 4 → let e := u.entry (pageOf (pk p 20 6) + i)
              eValid e = true ∧ ePart e = m ∧ eTier e = 5
                ∧ eFrame e = leAt (s.hostRead (pk p 32 8 + 8 * i) 8) 0 8 / pageBytes % 2 ^ 36)
          ∧ (∀ y, y ∉ xs → u.entry y = s.entry y)
          ∧ u = { s.begun n with frt := u.frt, dies := u.dies, res := u.res }) ∧
      (bit (pk p 18 1) 0 = true →
        ∃ u : State, s.endsWith (.mapPages n) n stOk 0 u
          ∧ u.frt.hwinPart = m ∧ u.frt.hwinPages = pk p 26 4 ∧ u.frt.hwinBase = pk p 20 6 ∧ u.frt.snoop = []
          ∧ (s.frt.poisoning = [] → u.frt.entry = s.frt.entry))) ∧
  (
    ∀ (s : State) (n : Nat) (c : Cmd), s.ready n 0x31 c →
      let p := c.packet
      let m := pk p 16 1 % 16
      let xs := pageRange (pk p 20 6) (pk p 26 4)
      s.frt.moves = [] → s.frt.snoop = [] → (∀ e ∈ s.frt.entry, eDrain e.2 = false) →
      ∃ u : State, s.endsWith (.unmapPages n) n stOk 0 u
        ∧ (∀ x ∈ xs, u.entry x = 0 ∧ (s.inWindow m (x * pageBytes) = true → u.entry (s.shadowOf m x) = 0))
        ∧ (∀ y, y ∉ xs → (∀ x ∈ xs, s.inWindow m (x * pageBytes) = true → y ≠ s.shadowOf m x) → u.entry y = s.entry y)
        ∧ u = { s.begun n with frt := u.frt, dies := u.dies, res := u.res })

/-- A write of device memory that is allowed, within a page and outside the snoop filter, is read back by the same partition, unless an
error found in the page waits for the host's lines to poison it; every byte elsewhere, in each memory, is as it was (R228). -/
def Obligations.DeviceWriteReadsBack : Prop :=
  ∀ (s t : State) (m a : Nat) (w : Who) (bs : List Byte), s.memsWf → s.frt.snoop = [] → s.frt.poisoning.contains (pageOf a) = false →
    a % pageBytes + bs.length ≤ pageBytes →
    s.devWrite m w a bs = .ok t →
    t.devRead m w .newest a bs.length = .ok bs
      ∧ t = { s with mems := t.mems }
      ∧ (let e := s.entry (pageOf a)
        match locate (eTier e) (eFrame e) (a % pageBytes) with
        | .hbm b => t.mems = { s.mems with hbm := t.mems.hbm }
            ∧ ∀ x, x < b ∨ b + bs.length ≤ x → t.mems.hbm.byte x = s.mems.hbm.byte x
        | .lp b => t.mems = { s.mems with lp := t.mems.lp }
            ∧ ∀ x, x < b ∨ b + bs.length ≤ x → t.mems.lp.byte x = s.mems.lp.byte x
        | .host b => t.mems = { s.mems with host := t.mems.host }
            ∧ ∀ x, x < b ∨ b + bs.length ≤ x → t.mems.host.byte x = s.mems.host.byte x
        | .none => bs = [])

/-- COPY moves the bytes from device or host memory to device or host memory and then adds to its counter; while a byte that it has
written waits for the host to give up a line, the counter waits, and when the row comes again with none, COPY ends; a refused access
ends it with BAD_PARAM or MEM_POISON and their details, which are the model's choice (log 69); LOAD_PROGRAM writes its descriptors to device memory (R246, R335, R337). -/
def Obligations.CopyAndLoadProgram : Prop :=
  ∀ (s : State) (n : Nat) (c : Cmd), let p := c.packet
    let m := pk p 16 1 % 16
    let u := s.begun n
    let add := fun (t : State) => if bit (pk p 40 1) 2 then t.addCounter (pk p 44 4 % 2 ^ 17) (BitVec.ofNat 64 (pk p 48 8)) else t
    (s.ready n 0x32 c → c.offset = 0 →
      (∀ bs t, bit (pk p 40 1) 0 = false → bit (pk p 40 1) 1 = false → s.devRead m .plain .newest (pk p 20 8) (pk p 36 4) = .ok bs →
        u.devWrite m .plain (pk p 28 8) bs = .ok t →
          (t.heldIn (pk p 28 8) (pk p 36 4) = false → s.endsWith (.copy n) n stOk 0 (add t)) ∧
          (t.heldIn (pk p 28 8) (pk p 36 4) = true →
            exec (.copy n) s = .next ((t.modCmd n fun c => { c with offset := pk p 36 4 }).unstart n).hubFetch)) ∧
      (∀ t, bit (pk p 40 1) 0 = true → bit (pk p 40 1) 1 = false → (s.fn c.fn).busMaster = true →
        u.devWrite m .plain (pk p 28 8) (s.hostRead (pk p 20 8) (pk p 36 4)) = .ok t →
        t.heldIn (pk p 28 8) (pk p 36 4) = false → s.endsWith (.copy n) n stOk 0 (add t)) ∧
      (∀ bs, bit (pk p 40 1) 0 = false → bit (pk p 40 1) 1 = true → (s.fn c.fn).busMaster = true →
        s.devRead m .plain .newest (pk p 20 8) (pk p 36 4) = .ok bs →
        s.endsWith (.copy n) n stOk 0 (add (u.hostWrite (pk p 28 8) bs))) ∧
      (∀ a q, bit (pk p 40 1) 0 = false → s.devRead m .plain .newest (pk p 20 8) (pk p 36 4) = .bad a q →
        s.endsWith (.copy n) n (if q then stMemPoison else stBadParam) (if q then 0 else 20) (u.noteFault m 9 a q))) ∧
    (s.ready n 0x32 c → c.offset = pk p 36 4 → s.heldIn (pk p 28 8) (pk p 36 4) = false → s.endsWith (.copy n) n stOk 0 (add u)) ∧
    (s.ready n 0x40 c → (s.fn c.fn).busMaster = true → ∀ t,
      u.devWrite (pkPart p) .plain (pk p 28 6) (s.hostRead (pk p 16 8) (64 * pk p 24 4)) = .ok t →
      s.endsWith (.loadProgram n) n stOk 0 t)

/-- A host access to its window reads or writes the 64-byte line of the device memory behind it, and a read that may leave the line
at the host enters it in the filter; where the filter is full, the read waits and the oldest line not yet on its way out is taken back
(that the oldest stands for the least recently entered is R246's, the waiting read's place the model's); the answer to a back-invalidation takes the line out of the filter, and what was held for
it is written (R245, R246). -/
def Obligations.HostWindow : Prop :=
  ∀ (s : State) (offset e : Nat), s.off = false → s.memsWf → offset < s.frt.hwinPages * pageBytes →
    let a := s.frt.hwinBase + 64 * (offset / 64)
    let loc := locate (eTier e) (eFrame e) (a % pageBytes)
    (s.translateRead s.frt.hwinPart a .plain .newest = .ok e → eTier e ≠ 5 →
      exec (.hostWindowAccess offset none false) s = .next { s with rdata := ofLE (s.mems.readLoc loc 64) } ∧
      (s.frt.snoop.length < 262144 → offset / 64 ∉ s.frt.snoop →
        exec (.hostWindowAccess offset none true) s = .next { s with rdata := ofLE (s.mems.readLoc loc 64), frt := { s.frt with snoop := s.frt.snoop ++ [offset / 64] } }) ∧
      (s.frt.snoop.length = 262144 → offset / 64 ∉ s.frt.snoop →
        exec (.hostWindowAccess offset none true) s = .next { s with frt := { s.frt with
          hostReads := s.frt.hostReads ++ [offset / 64]
          evicting := s.frt.evicting ++ (s.frt.snoop.find? fun l => !s.frt.evicting.contains l).toList } })) ∧
    (∀ bs, s.translateWrite s.frt.hwinPart a .plain = .ok e → eTier e ≠ 5 →
      exec (.hostWindowAccess offset (some bs) false) s = .next { s with mems := s.mems.writeLoc loc (padTo 64 bs) }) ∧
    (∀ line, (∀ h ∈ s.frt.held, h.line ≠ line) → s.frt.hostReads = [] → s.frt.poisoning = [] →
      exec (.birsp line) s = .next { s with frt := { s.frt with
        snoop := s.frt.snoop.filter (fun l => l != line), evicting := s.frt.evicting.filter (fun l => l != line) } }) ∧
    (∀ h : HeldWrite, s.frt.held = [h] → s.frt.hostReads = [] →
      ∃ t, exec (.birsp h.line) s = .next t ∧ t.frt.held = [] ∧ h.line ∉ t.frt.snoop
        ∧ t.mems = s.mems.writeLoc (locate (eTier h.entry) (eFrame h.entry) (h.addr % pageBytes)) h.bytes)

/-! ### Queues and functions (13) -/

/-- SQ_DOORBELL and CQ_DOORBELL set the tail or the head of a running pair, and a value at or beyond the queue's size puts it into
error state 1, which stops its submission queue; QUEUE_ENABLE starts a pair of 2 to 4,096 entries afresh, or the rings of one that
runs, and QUEUE_DISABLE stops it (R323 to R325, R344). -/
def Obligations.DoorbellsAndEnables : Prop :=
  ∀ (s : State) (f q value : Nat), s.off = false → s.queueExists f q = true →
    let x := s.queue f q
    let t := field value 11 0
    (x.enable = true → t < x.size →
      exec (.sqDoorbell f q value) s = .next ((s.modQueue f q fun x => { x with sqTail := t }).hubFetch)) ∧
    (x.enable = true → x.size ≤ t → x.error = 0 →
      (∃ u, exec (.sqDoorbell f q value) s = .next u ∧ u = { s with hub := u.hub } ∧ u.queue f q = { x with error := 1 }
        ∧ u.readable f q = false) ∧
      (∃ u, exec (.cqDoorbell f q value) s = .next u ∧ u = { s with hub := u.hub } ∧ u.queue f q = { x with error := 1 })) ∧
    (x.enable = true → t < x.size → x.waiting = [] → (s.bridge 4).isActive (32 * f + q) = false →
      exec (.cqDoorbell f q value) s = .next (((s.modQueue f q fun x => { x with cqHead := t }).hubFetch).bridgeSettle 4)) ∧
    (x.enable = true → exec (.queueEnable f q value) s = .next (s.restartQueue f q)) ∧
    (x.enable = false → x.waiting = [] → s.mayEnable f = true → 2 ≤ field value 12 0 → field value 12 0 ≤ 4096 →
      ∃ u, exec (.queueEnable f q value) s = .next u ∧ u = { s with hub := u.hub, bridges := u.bridges }
        ∧ u.queue f q = { sqBase := x.sqBase, cqBase := x.cqBase, enable := true, irqEn := bit value 30, cls := field value 29 28
                          vector := field value 23 13, size := field value 12 0 }) ∧
    (x.enable = true →
      ∃ u, exec (.queueDisable f q value) s = .next u ∧ u = { s with hub := u.hub, bridges := u.bridges } ∧ u.queue f q = { x with enable := false }
        ∧ u.readable f q = false)

/-- Events of the host's side of a function: Bus Master Enable, VF Enable, the link, a host read that times out, and the function
resets, which leave a function's queues at their reset values and a virtual function's partition active and without contexts; before
stage 8 of a bring-up a function reset has no effect (R320, R341 to R343, R379, R382). A FW_STAGE whose read times out leaves its slot
erased (R439). That a failure of the control firmware comes by the row of the timeout is the model's choice (log 188). -/
def Obligations.FunctionEvents : Prop :=
  ∀ (s : State), s.off = false →
    (∀ f, f < numFns →
      (∃ u, exec (.busMasterDisable f) s = .next u ∧ u = { s with hub := u.hub } ∧ (u.fn f).busMaster = false
        ∧ (∀ g, g ≠ f → u.fn g = s.fn g) ∧ ∀ q, (u.queue f q).waiting = []) ∧
      exec (.busMasterEnable f) s = .next ((s.modFn f fun x => { x with busMaster := true }).hubFetch)) ∧
    exec .vfEnable s = .next { s with hub := { s.hub with vfEnable := true } } ∧
    (s.frt.silent = false → ∃ u, exec .cxlLinkUp s = .next u ∧ u.boot.cxl.isSome = true ∧ u.mailboxReady = s.mailboxReady
      ∧ u = { s with boot := { s.boot with cxl := u.boot.cxl }, fresh := u.fresh }) ∧
    (s.frt.silent = true → ∃ u, exec .cxlLinkUp s = .next u ∧ u.boot.cxl.isSome = true ∧ u.frt.silent = false) ∧
    (∀ f q, f < numFns → q < 32 → s.readable f q = true →
      ∃ u, exec (.commandFetchTimeout (.fetch f q)) s = .next u ∧ u = { s with hub := u.hub }
        ∧ u.queue f q = { s.queue f q with error := 2 }) ∧
    (∀ pipe q x, s.inPipe pipe = some (q, x) →
      exec (.commandFetchTimeout (.sample pipe)) s = .next ((s.voidSample q x 4 pipe).settleBridges)) ∧
    (∀ n c, s.cmd n = some c → readsHost c.packet = true →
      (c.opcode ≠ 0xC0 → exec (.commandFetchTimeout (.command n)) s = .next ((s.finish n stAborted 1).hubFetch)) ∧
      (c.opcode = 0xC0 → ∃ u : State, exec (.commandFetchTimeout (.command n)) s = .next ((u.finish n stAborted 1).hubFetch)
        ∧ u.sec.stageValid = false ∧ u.sec.stageSlot = s.targetSlot ∧ u = { s with sec := u.sec, flash := u.flash }
        ∧ (s.targetSlot < 2 → u.flash.slots.getD s.targetSlot [] = []))) ∧
    (∀ n c code, s.cmd n = some c → exec (.commandFetchTimeout (.firmware n code)) s
      = .next (((s.finish n 0xFF code).logRecord 6 (toLE 2 c.opcode ++ toLE 2 0 ++ toLE 8 code)).hubFetch)) ∧
    (∀ t, s.boot.stage ≠ 5 → exec (.functionLevelReset t) s = .next s) ∧
    (∀ k, s.boot.stage = 5 → 1 ≤ k → k ≤ 16 → (s.part (k - 1)).state ≠ 0 →
      ∃ u, exec (.functionLevelReset (.vf k)) s = .next u ∧ u.fn (k + 1) = {} ∧ (u.part (k - 1)).ctxs = []
        ∧ (u.part (k - 1)).state = 1 ∧ ∀ c ∈ u.hub.accepted, c.fn ≠ k + 1) ∧
    (s.boot.stage = 5 → ∃ u, exec (.functionLevelReset .pf1) s = .next u ∧ u.hub.vfEnable = false
      ∧ (∀ f, 1 ≤ f → f < numFns → u.fn f = {}) ∧ ∀ n, n < 16 → (s.part n).state ≠ 0 → (u.part n).ctxs = []) ∧
    (s.boot.stage = 5 → ∃ u, exec (.functionLevelReset .vfEnableCleared) s = .next u ∧ u.hub.vfEnable = false
      ∧ ∀ f, 2 ≤ f → f < numFns → u.fn f = {}) ∧
    (s.boot.stage = 5 → ∃ u, exec (.functionLevelReset .pf0) s = .next u ∧ u.fn 0 = {} ∧ u.parts = s.parts
      ∧ ∀ c ∈ u.hub.accepted, c.fn = 0 → c.silent = true)

/-! ### Checkpoints and the vault (15, 17) -/

/-- CHECKPOINT_BEGIN opens a checkpoint of the context; CHECKPOINT_COMMIT waits for the commit record, or ends with the status of a
drain that has failed; CHECKPOINT_RESTORE of generations that are all damaged ends with VAULT_MEDIA, as does one whose read meets an
uncorrectable codeword or a wrong CRC, which changes no memory; where a generation is chosen and its pages can all be written it
completes with the step of its record (R365, R369, R370, R412 to R414). -/
def Obligations.CheckpointCommands : Prop :=
  ∀ (s : State) (n : Nat) (c : Cmd), let p := c.packet
    let m := pkPart p
    let cx := pkCtx p
    (s.ready n 0x80 c →
      s.endsWith (.checkpointBegin n) n stOk 0 { (s.begun n).notePlan m with jobs := { s.jobs with ckpts := s.jobs.ckpts ++
        [({ part := m, ctx := cx, id := pk p 16 4, openedAt := s.hub.nextNumber } : Ckpt)] } }) ∧
    (∀ k code, s.ready n 0x81 c → s.openCkpt m cx = some k → k.failed = some code →
      s.endsWith (.checkpointCommit n) n code 0 ((s.begun n).closeCkpt k) ∧
      ∃ u, (s.begun n).closeCkpt k = u ∧ u.openCkpt m cx = none) ∧
    (∀ k, s.ready n 0x81 c → s.openCkpt m cx = some k → k.failed = none → s.vault.enable = false → s.frt.late = [] →
      ∃ (u : State) (k' : Ckpt), exec (.checkpointCommit n) s = .next u.hubFetch ∧ u.openCkpt m cx = some k' ∧ k'.cmds = k.cmds ++ [n]
        ∧ k'.todo = k.todo ∧ u = { s.begun n with jobs := u.jobs }) ∧
    (∀ met, s.ready n 0x82 c → s.vault.enable = true → s.vault.chosen m (pk p 16 4) = none →
      s.endsWith (.checkpointRestore ⟨n, met⟩) n stVaultMedia 0 { s.begun n with vault := { s.vault with evMedia := true } }) ∧
    (∀ (met : List (Nat × NandRead)) (g : GenInfo), s.ready n 0x82 c → s.vault.enable = true →
      s.vault.chosen m (pk p 16 4) = some g → s.plan m = 0 →
      ((∀ e ∈ met, e.2 ≠ .uncorrectable) → s.vault.dataValid g = true →
        (∀ q ∈ s.vault.savedPages g, q.kind ≠ 3 → s.restorable m (pageOf q.addr) = true
          ∧ eState (s.entry (pageOf q.addr)) ≠ 1 ∧ eDrain (s.entry (pageOf q.addr)) = false) →
        ∃ u, s.endsWith (.checkpointRestore ⟨n, met⟩) n stOk g.step u ∧ u.vault.doneMib = (g.dirBytes + g.dataBytes) / 2 ^ 20
          ∧ u.vault.media = s.vault.media ∧ (∀ q ∈ u.res.seqs, q.part = m → q.ctx = cx → q.status = 0)) ∧
      ((∃ w, (w, NandRead.uncorrectable) ∈ met ∧ g.area * s.vault.areaBytes / 0x1000 ≤ w
          ∧ w < (g.area * s.vault.areaBytes + 0x1000 + g.dirBytes + g.dataBytes) / 0x1000) ∨ s.vault.dataValid g = false →
        ∃ u, s.endsWith (.checkpointRestore ⟨n, met⟩) n stVaultMedia 0 u ∧ u.mems = s.mems ∧ u.frt.entry = s.frt.entry))

/-- Events of a drain: a page that R228 lets the vault read is written behind those before it, and its mark ends; one that is refused
stops the drain, and one that the host's silence keeps away waits (R244, R366); once every page is drained and the commit asked for,
the commit record stands in the area, and the checkpoint is closed; a failed program is counted and retires the open block, whose
segment goes to a spare (R407, R411 to R414). That the spare is the freshest of its pool is the model's choice (log 160). No write waits
for a page where a drain's page is written. -/
def Obligations.DrainEvents : Prop :=
  (∀ (s : State) (k : Ckpt) (a : Nat), s.off = false → s.vault.enable = true → s.drainingCkpt = some k → k.area = some a → s.frt.late = [] →
    ∀ (g : GenPage) (rest : List GenPage) (fails : Nat), k.todo = g :: rest →
      let r := s.answered g.entry (g.page * pageBytes) false (checkEntry (s.entry g.entry) k.part (g.page * pageBytes) false .vault)
      (∀ e, r = .ok e → (∀ h ∈ rest, h.entry ≠ g.entry) → k.orphan = false ∨ k.auto = true ∨ rest ≠ [] →
        rest ≠ [] ∨ s.jobs.captures = [(k.part, k.ctx)] → s.vault.media.wf = true →
        ∃ u, exec (.drainPageDone ⟨g.page, fails⟩) s = .next u ∧ eDrain (u.entry g.entry) = false
          ∧ u.vault.media.read (a * s.vault.areaBytes + 0x1000 + k.dirBytes + pageBytes * k.drained.length) pageBytes
              = s.mems.readLoc (locate (eTier e) (eFrame e) 0) pageBytes
          ∧ (∀ q ∈ u.jobs.ckpts, q.part = k.part → q.ctx = k.ctx → q.todo = rest)
          ∧ u.vault.doneMib = (k.drained.length + 1) / 2 ∧ (rest = [] → u.vault.state = 0) ∧ u.mems = s.mems
          ∧ u = { s with frt := u.frt, dies := u.dies, vault := u.vault, jobs := u.jobs, res := u.res, flash := u.flash
                         fresh := u.fresh }) ∧
      (∀ b q, r = .bad b q → ∃ u : State, exec (.drainPageDone ⟨g.page, fails⟩) s = .next u.hubFetch ∧ u.vault.evMedia = true) ∧
      (∀ b, r = .wait b → exec (.drainPageDone ⟨g.page, fails⟩) s = .next s)) ∧
  (∀ (s : State) (k : Ckpt) (a m : Nat), s.off = false → s.vault.enable = true → s.committingCkpt = some k → k.area = some a →
    k.auto = false → k.cmds = [m] → s.vault.media.wf = true →
      ∃ u : State, exec .commitRecordDurable s = .next (((u.finish m stOk 0).settleDrain).hubFetch)
        ∧ u.vault.lastArea = a ∧ u.vault.lastPart = k.part ∧ u.vault.lastId = k.id ∧ u.openCkpt k.part k.ctx = none
        ∧ leAt (u.vault.media.read (a * s.vault.areaBytes) 4) 0 4 = 0x56410001
        ∧ leAt (u.vault.media.read (a * s.vault.areaBytes) 0x14) 0x10 4 = k.id % 2 ^ 32
        ∧ u.mems = s.mems) ∧
  (∀ (s : State) (b x : Nat), s.off = false → s.hasVault = true → s.vault.progAt ≠ 0 →
    Tab.find s.vault.table.map (s.vault.segOf (s.vault.progAt - 1)) = some b → s.vault.freshest s.vault.table.spares = some x →
      ∃ u, exec .vaultProgramFail s = .next u ∧ u.vault.programFails = satAdd 16 s.vault.programFails 1
        ∧ b ∈ u.vault.table.bad ∧ x ∉ u.vault.table.spares
        ∧ Tab.find u.vault.table.map (s.vault.segOf (s.vault.progAt - 1)) = some x
        ∧ u.vault.media = s.vault.media ∧ u = { s with vault := u.vault, flash := u.flash, fresh := u.fresh })

/-- VAULT_READ writes vault bytes to host memory, or ends with VAULT_MEDIA where it meets a codeword that cannot be corrected; VAULT_WRITE
writes host bytes to the vault, and takes its committed generation from an area; FORMAT divides an idle vault into areas and erases
every block; the patrol reads a codeword and has its segment rewritten where R409 says so; and a wear-levelling move takes the
coldest segment to a fresh block and changes no byte (R406 to R410, R415, R416). That an erase is counted when the block is next
written is the model's choice (log 160). -/
def Obligations.VaultAccess : Prop :=
  ∀ (s : State) (n : Nat) (c : Cmd), let p := c.packet
    let off := pk p 24 8
    let len := pk p 32 4
    (∀ met, s.ready n 0x83 c → s.vault.enable = true → s.vault.unreadable off len = true →
      s.endsWith (.vaultRead ⟨n, met⟩) n stVaultMedia 0 { s.begun n with vault := { s.vault with evMedia := true } }) ∧
    (∀ met, s.ready n 0x83 c → s.vault.enable = true → s.vault.unreadable off len = false → (s.fn c.fn).busMaster = true →
      (∀ e ∈ met, e.2 ≠ .uncorrectable) →
      ∃ u, s.endsWith (.vaultRead ⟨n, met⟩) n stOk 0 u ∧ (met = [] → u.vault.readRetries = s.vault.readRetries)
        ∧ u = { s.begun n with mems := { s.mems with host := s.mems.host.write (pk p 16 8) (s.vault.media.read off len) },
                               vault := { s.vault with doneMib := len / 2 ^ 20, readRetries := u.vault.readRetries } }) ∧
    (∀ (met : List (Nat × NandRead)) (w : Nat), s.ready n 0x83 c → s.vault.enable = true → s.vault.unreadable off len = false →
      (w, NandRead.uncorrectable) ∈ met → off / 0x1000 ≤ w → w < (off + len) / 0x1000 →
      ∃ u, s.endsWith (.vaultRead ⟨n, met⟩) n stVaultMedia 0 u ∧ u.mems = s.mems ∧ u.vault.evMedia = true ∧ w ∈ u.vault.damaged) ∧
    (∀ fails, s.ready n 0x84 c → s.vault.enable = true → (s.fn c.fn).busMaster = true → s.vault.media.wf = true →
      ∃ u, s.endsWith (.vaultWrite ⟨n, fails⟩) n stOk 0 u ∧ u.vault.media.read off len = s.hostRead (pk p 16 8) len
        ∧ (∀ x, (x < off ∨ off + len ≤ x) → (x < off / s.vault.areaBytes * s.vault.areaBytes
            ∨ off / s.vault.areaBytes * s.vault.areaBytes + 0x1000 ≤ x) → u.vault.media.byte x = s.vault.media.byte x)
        ∧ u = { s.begun n with vault := u.vault, flash := u.flash, fresh := u.fresh }) ∧
    (∀ value, s.off = false → s.hasVault = true → bit value 2 = true → s.vault.state = 0 → s.vault.genGib ≠ 0 →
      3 ≤ s.vault.usableGib / s.vault.genGib → s.jobs.captures = [] →
      ∃ u, exec (.format value) s = .next u ∧ u.vault.areas = min (s.vault.usableGib / s.vault.genGib) 0xFFFF
        ∧ u.vault.areaGib = s.vault.genGib ∧ u.vault.media = []
        ∧ u.vault.table.base = s.vault.table.base + 1 ∧ u.vault.table.map = [] ∧ u.vault.scrubEn = bit value 1 ∧ u.vault.enable = bit value 0) ∧
    (∀ (w : Nat) (r : NandScrub), s.off = false → s.hasVault = true → s.vault.scrubEn = true → s.vault.scrubGap ≠ 0 →
      patrolAt s.vault s.vault.scrubAt = some w →
      (r.read ≠ .uncorrectable →
        let again := r.read = .retried ∨ ∃ bits, r.read = .decoded bits ∧ s.vault.refreshThr < bits
        ∃ u, exec (.vaultScrub r) s = .next u
          ∧ (again → u.vault.refreshes = satAdd 16 s.vault.refreshes 1) ∧ (¬again → u.vault.refreshes = s.vault.refreshes)
          ∧ u.vault.readRetries = (if r.read = .retried then satAdd 16 s.vault.readRetries 1 else s.vault.readRetries)
          ∧ u.vault.media = s.vault.media ∧ u = { s with vault := u.vault, flash := u.flash, fresh := u.fresh }) ∧
      (r.read = .uncorrectable →
        ∃ u, exec (.vaultScrub r) s = .next u ∧ u.vault.uncorrectable = satAdd 16 s.vault.uncorrectable 1 ∧ w ∈ u.vault.damaged
          ∧ u.vault.evMedia = true ∧ u.vault.media = s.vault.media
          ∧ u = { s with vault := u.vault, flash := u.flash, fresh := u.fresh })) ∧
    (∀ seg b, s.off = false → s.hasVault = true → s.vault.state = 0 → 200 < s.vault.maxErase - s.vault.minErase →
      s.vault.coldest = some seg → s.vault.freshest s.vault.freeBlocks = some b →
      ∃ u, exec .wearLevelMove s = .next u ∧ Tab.find u.vault.table.map seg = some b
        ∧ u.vault.table.count b = s.vault.table.count b + 1 ∧ u = { s with vault := { s.vault with tables := u.vault.tables } })

/-- The life log: SET_TIME sets the wall time; READ_LIFE_LOG writes the records from a number on and its detail is their number; the
oldest waiting record is written with the next sequence number, or its slot is torn and it waits; a summary joins the queue
(R399 to R404). That a torn slot holds 64 zero bytes and that the record then waits for the next slot is the model's choice (log 110). -/
def Obligations.LifeLog : Prop :=
  ∀ (s : State) (n : Nat) (c : Cmd), let p := c.packet
    (s.ready n 0xA0 c → ∃ u, s.endsWith (.setTime n) n stOk 0 u ∧ u.flash.wall = pk p 16 8
      ∧ u = { s.begun n with flash := u.flash, fresh := u.fresh }
      ∧ (s.flash.queue.length < 64 → ∃ r, u.flash.queue = s.flash.queue ++ [r] ∧ leAt r 0 1 = 2 ∧ leAt r 4 8 = pk p 16 8
          ∧ leAt r 20 8 = pk p 16 8 ∧ leAt r 28 4 = pk p 24 4)) ∧
    (s.ready n 0xA1 c → (s.fn c.fn).busMaster = true →
      ∃ rs : List (List Byte), s.endsWith (.readLifeLog n) n stOk rs.length ((s.begun n).hostWrite (pk p 16 8) rs.flatten)
        ∧ rs.length ≤ pk p 24 4 / 64
        ∧ (∀ r ∈ rs, pk p 28 4 ≤ leAt r 0 4 ∧ ((∃ i, (i, r) ∈ s.flash.log ∧ recordValid r = true)
            ∨ ∃ b ∈ s.flash.queue, ∃ q, r = sealRecord q b))
        ∧ (0 < s.flash.at_ % 1024 → s.flash.at_ % 1024 + s.flash.queue.length ≤ 1023 → s.flash.at_ < s.flash.logSlots →
            ∀ r ∈ rs, (∃ i, (i, r) ∈ s.flash.log)
              ∨ ∃ i b, s.flash.queue[i]? = some b ∧ r = sealRecord ((s.flash.nextSeq + i) % 2 ^ 32) b)
        ∧ (rs.length < pk p 24 4 / 64 → ∀ i r, (i, r) ∈ s.flash.log → recordValid r = true → pk p 28 4 ≤ leAt r 0 4 → r ∈ rs)) ∧
    (∀ r rest, s.off = false → s.flash.queue = r :: rest →
      ∃ u slot seq, exec (.logRecordWrite true) s = .next u ∧ Tab.find u.flash.log slot = some (sealRecord seq r)
        ∧ u.flash.queue = rest ∧ u = { s with flash := u.flash, fresh := u.fresh }) ∧
    (s.off = false → ∀ r rest, s.flash.queue = r :: rest → 0 < s.flash.at_ % 1024 → s.flash.at_ % 1024 < 1023 →
      (∃ u, exec (.logRecordWrite true) s = .next u
        ∧ Tab.find u.flash.log s.flash.at_ = some (sealRecord s.flash.nextSeq r) ∧ u.flash.queue = rest
        ∧ u.flash.nextSeq = wrapAdd 32 s.flash.nextSeq 1 ∧ u = { s with flash := u.flash, fresh := u.fresh }) ∧
      (∃ u, exec (.logRecordWrite false) s = .next u
        ∧ Tab.find u.flash.log s.flash.at_ = some (fill 64 0) ∧ u.flash.queue = s.flash.queue ∧ u.flash.fail = true
        ∧ u.flash.nextSeq = s.flash.nextSeq ∧ u = { s with flash := u.flash, fresh := u.fresh })) ∧
    (s.off = false → s.flash.queue.length < 64 → (∀ r ∈ s.flash.queue, leAt r 0 1 ≠ 1) →
      ∃ u r, exec .lifeLogSummary s = .next u ∧ u.flash.queue = s.flash.queue ++ [r] ∧ leAt r 0 1 = 1
        ∧ u = { s with flash := { s.flash with queue := u.flash.queue }, fresh := u.fresh })

/-! ### Firmware, attestation and debug (19) -/

/-- FW_STAGE programs the slot that is not running with the image and records whether what it reads back is valid; an image that is not
ends with SECURITY. FW_ACTIVATE makes the configuration block name the staged slot, and with bit 0 a warm reset follows once its OK has
been written (R378, R437 to R440). -/
def Obligations.FirmwareStagedAndActivated : Prop :=
  ∀ (s : State) (n : Nat) (c : Cmd), let p := c.packet
    let img := s.hostRead (pk p 16 8) (pk p 24 4)
    (s.ready n 0xC0 c → (s.fn c.fn).busMaster = true →
      let w := (s.begun n).modSlot s.targetSlot fun _ => Mem.write [] 0 img
      let ok := imageValid s.sec.fuses (w.slotImage s.targetSlot)
      ∃ u, s.endsWith (.fwStage n) n (if ok then stOk else stSecurity) 0 u
        ∧ u.sec.stageValid = ok ∧ u.sec.stageSlot = s.targetSlot
        ∧ u.sec.stageSec = imgSec img ∧ u.sec.stageFw = imgFw img
        ∧ (ok = true → s.targetSlot < 2 → u.flash.slots.getD s.targetSlot [] = Mem.write [] 0 img)
        ∧ (ok = false → u.sec.evStageFail = true ∧ u.sec.stageFails = satAdd 16 s.sec.stageFails 1)
        ∧ (∀ i, i < 2 → i ≠ s.targetSlot → u.flash.slots.getD i [] = s.flash.slots.getD i [])
        ∧ u = { s.begun n with flash := { s.flash with slots := u.flash.slots }, sec := u.sec }) ∧
    (s.ready n 0xC1 c →
      ∃ u : State, u = { s.begun n with flash := s.flash.rewriteConfig s.sec.stageSlot s.flash.cfgNode } ∧
        let v := u.finish n stOk 0
        let x := v.queue c.fn c.queue
        exec (.fwActivate n) s = .next (State.hubFetch
          (if bit (pk p 16 1) 0 && (v.fn c.fn).busMaster then
            { v with boot := { v.boot with activate := some (c.queue, (x.count + x.waiting.length) % 2 ^ 32) } }
          else v)))

/-- ATTEST writes the report of R444 with its signature; DEBUG_UNLOCK gives a challenge, unlocks on a good response, counts a bad one
and locks debug out at the third, or relocks, from locked out too (log 112); DEBUG_READ_ACC writes an engine's accumulators (R88, R444 to R447). -/
def Obligations.AttestationAndDebug : Prop :=
  ∀ (s : State) (n : Nat) (c : Cmd), let p := c.packet
    (s.ready n 0xD0 c → (s.fn c.fn).busMaster = true →
      ∃ (u : State) (r sig : List Byte), s.endsWith (.attest n) n stOk 312 u ∧ r.length = 248 ∧ sig.length = 64
        ∧ leAt r 0 4 = 0x4E415401 ∧ leAt r 8 8 = s.sec.devId % 2 ^ 64 ∧ (r.drop 16).take 32 = padTo 32 ((p.drop 28).take 32)
        ∧ u.mems.host = s.mems.host.write (pk p 16 8) (r ++ sig) ∧ u.sec.attests = satAdd 16 s.sec.attests 1
        ∧ u = { s.begun n with mems := { s.mems with host := u.mems.host }, sec := { s.sec with attests := u.sec.attests },
                               fresh := u.fresh }) ∧
    (s.ready n 0xD1 c → pk p 16 1 = 0 → (s.fn c.fn).busMaster = true →
      ∃ u r, s.endsWith (.debugUnlock n) c.number stOk 64 u ∧ u.sec.challenge = some r ∧ r.length = 64
        ∧ u.mems.host = s.mems.host.write (pk p 24 8) r ∧ u.sec.debug = s.sec.debug) ∧
    (s.ready n 0xD1 c → pk p 16 1 = 1 → (s.fn c.fn).busMaster = true →
      let r := s.hostRead (pk p 24 8) 1024
      let ok := s.sec.challenge == some (r.take 64) && s.sec.accepts r
      ∃ u, s.endsWith (.debugUnlock n) c.number (if ok then stOk else stSecurity) 0 u ∧ u.sec.challenge = none
        ∧ u.sec.debug = (if ok then 1 else if 3 ≤ s.sec.failures + 1 then 2 else s.sec.debug)
        ∧ u.sec.failures = (if ok then s.sec.failures else s.sec.failures + 1) ∧ u = { s.begun n with sec := u.sec }) ∧
    (s.ready n 0xD1 c → pk p 16 1 = 2 → (∀ q ∈ s.hub.accepted, q.opcode ≠ 0xE0) →
      s.endsWith (.debugUnlock n) n stOk 0 { s.begun n with sec := { s.sec with debug := 0 } }) ∧
    (s.ready n 0xE0 c → (s.fn c.fn).busMaster = true →
      s.endsWith (.debugReadAcc n) n stOk 0
        ((s.begun n).hostWrite (pk p 24 8) (s.mems.acc.read (pk p 16 2 % 2 ^ 10 * 2 ^ 15) 0x8000)))

/-- The mailbox: a request that R442 does not list, a negotiation that lacks an algorithm of R442, and a request that needs a key that is
not there is an error, which is counted; measurements are answered as R441 lists them, and slot 0's certificates are those of R434;
a key exchange and its finish open a session, and at most two are open; a key update and a heartbeat need one; an IDE key of 256 bits
that is programmed in a session comes into use with KEY_SET_GO, on CXL.cachemem in containment mode only (R442, R443). On the sideband
the device answers at its dynamic address, or, where none is assigned, at its static one (R463). That a request before the negotiation is
an error, that a negotiation needs all of R442's algorithms, and that handshakes count toward the two sessions, is the model's choice
(log 22); what the mailbox answers to the other
requests is not in the state (log 21). -/
def Obligations.Mailbox : Prop :=
  ∀ (s : State), s.off = false →
    let err := { s with sec := { s.sec with spdmErrors := satAdd 16 s.sec.spdmErrors 1 } }
    exec (.spdmRequest .malformed) s = .next err ∧
    (s.sec.negotiated = false → exec (.spdmRequest .digests) s = .next err ∧ ∀ b, exec (.spdmRequest (.measurements b)) s = .next err) ∧
    (∀ b, s.sec.negotiated = true → (b = false ∨ s.sec.keyOk = true ∧ s.sec.aliasOk = true) →
      ∃ t, exec (.spdmRequest (.measurements b)) s = .next t ∧ t.sec.answer.length = 100
        ∧ (t.sec.answer.drop 96).take 2 = [BitVec.ofNat 8 s.sec.fuses, BitVec.ofNat 8 s.sec.debug]
        ∧ t = { s with sec := { s.sec with answer := t.sec.answer } }) ∧
    (s.sec.negotiated = true → exec (.spdmRequest (.certificate 0)) s
      = .next { s with sec := { s.sec with answer := s.sec.caCert ++ s.sec.idCert ++ s.sec.aliasCert } }) ∧
    (s.sec.keyOk = false → exec (.spdmRequest .challenge) s = .next err ∧ exec (.spdmRequest .keyExchange) s = .next err
      ∧ exec (.spdmRequest (.measurements true)) s = .next err) ∧
    (∀ algs, exec (.spdmRequest (.algorithms algs)) s = .next (if ∀ a ∈ spdmAlgs, a ∈ algs
      then { s with sec := { s.sec with negotiated := true } } else err)) ∧
    (s.sec.keyOk = true → s.sec.aliasOk = true → s.sec.negotiated = true →
      (s.sec.sessions + s.sec.handshakes < 2 → exec (.spdmRequest .keyExchange) s
          = .next { s with sec := { s.sec with handshakes := s.sec.handshakes + 1 } }) ∧
      (2 ≤ s.sec.sessions + s.sec.handshakes → exec (.spdmRequest .keyExchange) s = .next err)) ∧
    (0 < s.sec.handshakes → exec (.spdmRequest (.finish true)) s = .next { s with sec := { s.sec with
      handshakes := s.sec.handshakes - 1, sessions := s.sec.sessions + 1 } }) ∧
    (∀ r ∈ [Spdm.keyUpdate, .heartbeat], exec (.spdmRequest r) s = .next (if s.sec.sessions = 0 then err else s)) ∧
    (0 < s.sec.sessions → exec (.spdmRequest .endSession) s = .next { s with sec := { s.sec with sessions := s.sec.sessions - 1 } }) ∧
    (∀ stream key, 0 < s.sec.sessions → stream < 2 → key.length = 32 →
      (∃ t, exec (.spdmRequest (.ideKey stream (.program true key))) s = .next t
        ∧ t.sec.ideStream stream = { s.sec.ideStream stream with next := some key }
        ∧ t = { s with sec := { s.sec with ide := t.sec.ide } }) ∧
      ((s.sec.ideStream stream).next = some key → ∃ t, exec (.spdmRequest (.ideKey stream .setGo)) s = .next t
        ∧ t.sec.ideStream stream = { next := none, active := some key } ∧ t = { s with sec := { s.sec with ide := t.sec.ide } }) ∧
      exec (.spdmRequest (.ideKey 1 (.program false key))) s = .next err) ∧
    (∀ a, exec (.sidebandMessage (.assign a)) s = .next { s with sec := { s.sec with sbDynamic := some a } }) ∧
    (∀ a m, exec (.sidebandMessage (.mctp a m)) s = .next (if a = s.sec.sbDynamic.getD s.sec.sbAddr
      then { s with sec := { s.sec with sbAnswers := s.sec.sbAnswers + 1 } } else s))

/-! ### Power and heat (18) -/

/-- POWER_BUDGET waits; the grant period that follows takes the last budget that waits, ends every POWER_BUDGET with OK, and issues
grants that are the floors where the budget lies below them; below_floor and ALERT_N follow the budget whether or not Bow is enabled
(R417, R418, R426, R432). -/
def Obligations.BudgetAndGrants : Prop :=
  (∀ (s : State) (n : Nat) (c : Cmd), s.ready n 0xB0 c → exec (.powerBudget n) s = .next (s.begun n).hubFetch) ∧
  (∀ (s : State) (demands draws : List Nat), s.off = false →
    ∃ (u t : State), u = (s.finishAll ((s.hub.accepted.filter fun c => c.opcode == 0xB0).map Cmd.number) stOk 0)
      ∧ exec (.grantPeriod demands draws) s = .next t.hubFetch
      ∧ (∀ c ∈ t.hub.accepted, c.opcode ≠ 0xB0)
      ∧ t = { u with bow := t.bow, pins := t.pins }
      ∧ (∀ c, (s.hub.accepted.filter fun c => c.opcode == 0xB0).getLast? = some c → t.bow.watts = pk c.packet 16 2)
      ∧ ((s.hub.accepted.filter fun c => c.opcode == 0xB0) = [] → t.bow.watts = s.bow.watts)
      ∧ (t.bow.watts < 4 * s.bow.dieFloor + s.bow.hubFloor + s.bow.memFloor → t.bow.belowFloor = true ∧ t.pins.alert = true)
      ∧ (4 * s.bow.dieFloor + s.bow.hubFloor + s.bow.memFloor ≤ t.bow.watts → t.bow.belowFloor = false)
      ∧ (s.bow.enable = true → t.bow.demands = (List.range 6).map (fun i => demands.getD i 0)
          ∧ (t.bow.watts < 4 * s.bow.dieFloor + s.bow.hubFloor + s.bow.memFloor →
              t.bow.grants = [s.bow.dieFloor, s.bow.dieFloor, s.bow.dieFloor, s.bow.dieFloor, s.bow.hubFloor, s.bow.memFloor])))

/-- The allocation of R418 grants no more than the budget and no less than the floors, where the budget holds them. -/
def Obligations.GrantsWithinBudget : Prop :=
  ∀ (b : Bow) (budget : Nat) (d : List Nat), 4 * b.dieFloor + b.hubFloor + b.memFloor ≤ budget →
    let g := (b.allocate budget d).1
    g.length = 6 ∧ g.sum ≤ budget ∧ (∀ i, i < 4 → b.dieFloor ≤ g.getD i 0) ∧ b.hubFloor ≤ g.getD 4 0 ∧ b.memFloor ≤ g.getD 5 0

/-- Gating, frequency steps, the current ramp, droops and heat of a die, each of which changes that die's power control and the
pins alone, and of a droop Luthier's count (R421 to R426, R455). A die is hot from the sample in which one of its sensors
reads the throttle temperature until one in which all read more than the hysteresis below it; ALERT_N is asserted while a die
is hot or the budget lies below the floors (R425, R426). -/
def Obligations.DiePowerAndHeat : Prop :=
  (
    ∀ (s : State) (d : Nat), d < 4 → s.dieOff d = false →
      let x := s.bowDie d
      let only := fun (u : State) => u = { s with bow := { s.bow with dies := u.bow.dies }, pins := u.pins }
        ∧ ∀ e, e ≠ d → u.bowDie e = s.bowDie e
      (∀ draw, ∃ u, exec (.gatingUpdate d draw) s = .next u ∧ only u
        ∧ (s.bow.enable = true → (u.bowDie d).gate = if x.hot then max x.gate (gateFor draw (s.bow.grants.getD d 0))
            else gateFor draw (s.bow.grants.getD d 0))
        ∧ (s.bow.enable = false → x.hot = false → (u.bowDie d).gate = 0)) ∧
      (∀ mv, x.asking = true → stepVolts x.goal ≤ mv + 10 → mv ≤ stepVolts x.goal + 10 →
        ∃ u, exec (.voltageConfirm d mv) s = .next u ∧ only u ∧ u.bowDie d = { x with asking := false, gliding := true }) ∧
      (∀ mv, mv + 10 < stepVolts x.goal ∨ stepVolts x.goal + 10 < mv → exec (.voltageConfirm d mv) s = .next s) ∧
      (x.gliding = true → d < s.pins.avs.length → ∃ u, exec (.glideComplete d) s = .next u ∧ only u
        ∧ u.bowDie d = { x with step := x.goal, gliding := false, steps := satAdd 16 x.steps 1 }
        ∧ u.pins.avs.getD d 0 = stepVolts x.goal) ∧
      (∃ u, exec (.rampUpdate d) s = .next u ∧ only u ∧ (u.bowDie d).streaming = s.streamingEngines d
        ∧ (1 ≤ x.stage → x.stage ≤ 8 → 1 ≤ (u.bowDie d).stage ∧ (u.bowDie d).stage ≤ 8 ∧ (u.bowDie d).stage ≤ x.stage + 1)) ∧
      (x.halved = false → ∃ u, exec (.droop d) s = .next u ∧ u.bowDie d = { x with halved := true, droops := wrapAdd 32 x.droops 1 }
        ∧ u.lth.droops = s.lth.droops + 1 ∧ u = { s with bow := { s.bow with dies := u.bow.dies }, lth := u.lth }) ∧
      (∃ u, exec (.droopRecover d) s = .next u ∧ only u ∧ u.bowDie d = { x with halved := false }) ∧
      (x.hot = true → x.gliding = false → ∃ u, exec (.hotStep d) s = .next u ∧ only u
        ∧ (x.step < 3 → (u.bowDie d).gliding = true ∧ (u.bowDie d).goal = x.step + 1 ∧ (u.bowDie d).gate = x.gate)
        ∧ (3 ≤ x.step → u.bowDie d = x.setGate (min 15 (x.gate + 1))))) ∧
  (
    ∀ (s : State) (readings : List Nat), s.off = false →
      ∃ t, exec (.thermalSample readings) s = .next t
        ∧ (∀ d, d < 4 → let rs := (readings.drop (64 * d)).take 64
            (t.bowDie d).hot = if (s.bowDie d).hot then !(rs.all fun r => decide (r + s.bow.thermHyst < s.bow.tThrottle))
              else rs.any fun r => decide (s.bow.tThrottle ≤ r))
        ∧ t.pins.alert = (t.bow.belowFloor || (List.range 4).any fun d => (t.bowDie d).hot)
        ∧ t.bow.grants = s.bow.grants ∧ t.bow.watts = s.bow.watts
        ∧ t = { s with bow := t.bow, pins := t.pins, lth := t.lth, flash := t.flash })

/-! ### The Resonator (06) -/

/-- KV_SEQ_OPEN puts a joining sequence into the table and waits; KV_SEQ_CLOSE and KV_FORK wait for a fold. A fold whose context has
no active sequence ends in its own step, and the context's views are those of the next step; the copy of a swapped page lets the
fold go on, and waits while the host holds a line of the page or of its place, and while a silent host holds either in its memory
(R145, R146, R154 to R156, R162, R244, R246). A fold of a partition with pages in host memory waits while the host leaves requests
unanswered (R244, log 150). -/
def Obligations.SequencesAndFolds : Prop :=
  ∀ (s : State) (n m cx : Nat) (c : Cmd), let p := c.packet
    (s.ready n 0x70 c → ∃ u q, exec (.kvSeqOpen n) s = .next (State.hubFetch u) ∧ u.res.seqs = s.res.seqs ++ [q] ∧ q.part = pkPart p
      ∧ q.ctx = pkCtx p ∧ q.key = pk p 16 4 ∧ q.status = 0 ∧ q.next = 0 ∧ q.cmd = some c.number ∧ u.cmd n = (s.begun n).cmd n
      ∧ u = { s.begun n with res := { s.res with seqs := u.res.seqs } }) ∧
    (s.ready n 0x71 c → exec (.kvSeqClose n) s = .next (s.begun n).hubFetch) ∧
    (s.ready n 0x72 c → exec (.kvFork n) s = .next (s.begun n).hubFetch) ∧
    (∀ x, s.off = false → s.ctx m cx = some x →
      s.frt.silent = false ∨ (∀ e ∈ s.frt.entry, eValid e.2 = true → ePart e.2 = m → eTier e.2 ≠ 5) →
      (s.resPart m).fold = none → s.hasSeqs m cx = true → x.stepPassed = true →
      s.stepEnding m cx x = true → (s.resPart m).folded.find cx ≠ some x.step →
      exec (.stepFold m cx) s = .next (((s.foldBegin m cx x.step).foldGo m).settleBridges) ∧
      ((∀ q ∈ s.res.seqs, q.part = m → q.ctx = cx → q.status = 0) →
        ∃ t, exec (.stepFold m cx) s = .next t ∧ (t.resPart m).fold = none ∧ (t.resPart m).folded.find cx = some x.step)) ∧
    (∀ x, s.off = false → s.ctx m cx = some x → x.stepPassed = false → (s.resPart m).fold = none →
      exec (.stepFold m cx) s = .next s) ∧
    (∀ e, s.off = false → s.frt.silent = true → e ∈ s.frt.entry → eValid e.2 = true → ePart e.2 = m → eTier e.2 = 5 →
      exec (.stepFold m cx) s = .next s) ∧
    (∀ page r w, s.off = false → (s.resPart m).swapping.find? (fun w => w.2.1 == page) = some w →
      exec (.swapCopyComplete m page r) s
        = .next (if s.frt.pageSnooped page || s.frt.pageSnooped w.2.2
              || (s.frt.silent && (eTier (s.entry page) == 5 || eTier (s.entry w.2.2) == 5)) then s
            else (((s.swapEnd m w r).flushLate).foldGo m).settleBridges))

/-! ### Pegbox and Unison (11) -/

/-- SUBMIT_SAMPLES appends a batch and its samples to a queue, with the final status ACCEPTED; SENSOR_CONFIG forms a group, marks
streams ended, or dissolves a group (R281, R282, R293). -/
def Obligations.SamplesAndSensors : Prop :=
  ∀ (s : State) (n : Nat) (c : Cmd), let p := c.packet
    let q := pk p 16 1 % 16
    let list := s.hostRead (pk p 20 8) (64 * pk p 18 2)
    let ds := (List.range (pk p 18 2)).map fun i => (list.drop (64 * i)).take 64
    let params := s.hostRead (pk p 28 8) 192
    let g := pk p 16 1 % 4
    (s.ready n 0x60 c → (s.fn c.fn).busMaster = true → ds.all sampleOk = true → paramsOk params = true →
      ∃ u, s.endsWith (.submitSamples n) n stAccepted 0 u
        ∧ (u.pegQueue q).samples.length = (s.pegQueue q).samples.length + pk p 18 2
        ∧ (∃ b, (u.pegQueue q).batches = (s.pegQueue q).batches ++ [b] ∧ b.count = pk p 18 2 ∧ b.record = pk p 44 6
            ∧ b.params = params ∧ b.first = (s.pegQueue q).cursor + (s.pegQueue q).samples.length)
        ∧ (u.pegQueue q).cursor = (s.pegQueue q).cursor) ∧
    (s.ready n 0x60 c → (s.fn c.fn).busMaster = true → ds.all sampleOk = false →
      s.endsWith (.submitSamples n) n stBadParam 20 (s.begun n)) ∧
    (s.ready n 0x61 c → pk p 17 1 = 0 →
      ∃ u, s.endsWith (.sensorConfig n) n stOk 0 u ∧ Tab.get ({} : UniGroup) u.uni.groups g
          = formGroup p (Tab.get {} s.uni.groups g)
        ∧ (∀ h, h ≠ g → Tab.get ({} : UniGroup) u.uni.groups h = Tab.get {} s.uni.groups h)
        ∧ u = { s.begun n with uni := u.uni, peg := { s.peg with queues := u.peg.queues } }) ∧
    (s.ready n 0x61 c → pk p 17 1 = 1 →
      ∃ u, s.endsWith (.sensorConfig n) n stOk 0 u ∧ (Tab.get ({} : UniGroup) u.uni.groups g).ended
          = (Tab.get ({} : UniGroup) s.uni.groups g).ended ||| pk p 24 2
        ∧ u = { s.begun n with uni := { s.uni with groups := u.uni.groups } }) ∧
    (s.ready n 0x61 c → pk p 17 1 = 2 →
      ∃ u, s.endsWith (.sensorConfig n) n stOk 0 u ∧ (Tab.get ({} : UniGroup) u.uni.groups g).active = false
        ∧ u = { s.begun n with uni := u.uni })

/-- The first free pipe that is enabled and has passed its test takes the next waiting sample (that it is the lowest one is the model's
choice, log 94); a decoded sample is written to its address, or is void; a sample whose timeout
passes is void with reason 3; a decoded sample waits for its output page's move or drain; the lowest sample of a queue is emitted when it is ready, and the cursor advances; and a reference's set
completes once every part of it is decided and emitted (R287, R288, R290, R292, R294, R296, R387). -/
def Obligations.PipesAndSets : Prop :=
  ∀ (s : State), s.off = false →
    (∀ p q x b, ((List.range 16).find? fun p => bit s.peg.pipeEn p && bit s.boot.pipeOk p && (s.inPipe p).isNone) = some p →
      (((rangeFrom (Tab.get 15 s.peg.lastQueue p + 1) 16).map (· % 16)).find? fun q => (s.pegQueue q).samples.any (·.state == .window)) = some q →
      (s.pegQueue q).samples.find? (·.state == .window) = some x → (s.pegQueue q).batchOf x.serial = some b →
      (s.fn b.fn).busMaster = true →
      ∃ t, exec .pipeDispatch s = .next t ∧ Tab.get 15 t.peg.lastQueue p = q
        ∧ (∀ y ∈ (t.pegQueue q).samples, y.serial = x.serial → y.state = .pipe p)
        ∧ t = { s with peg := { s.peg with lastQueue := Tab.set 15 s.peg.lastQueue p q, queues := t.peg.queues } }) ∧
    (∀ p q x b r, s.inPipe p = some (q, x) → (s.pegQueue q).batchOf x.serial = some b → (s.fn b.fn).busMaster = true →
      let u := s.modPegQueue q fun y => { y with decoded := wrapAdd 32 y.decoded 1 }
      ((u.sampleOut b x r).1 ≠ 0 → exec (.sampleDecodeDone p r) s = .next (u.voidSample q x (u.sampleOut b x r).1 p)) ∧
      (∀ t, (u.sampleOut b x r).1 = 0 → u.devWrite (s.pegQueue q).part .plain x.outAddr (u.sampleOut b x r).2 = .ok t →
        exec (.sampleDecodeDone p r) s = .next (t.validSample q x.serial)) ∧
      (∀ a, (u.sampleOut b x r).1 = 0 → u.devWrite (s.pegQueue q).part .plain x.outAddr (u.sampleOut b x r).2 = .wait a →
        exec (.sampleDecodeDone p r) s = .next s)) ∧
    (∀ p q x, s.inPipe p = some (q, x) → (s.pegQueue q).timeout ≠ 0 →
      ∃ t, exec (.decodeTimeout p) s = .next t ∧ (∀ y ∈ (t.pegQueue q).samples, y.serial = x.serial → y.state = .ready ∧ y.reason = 3)
        ∧ t.peg.timeouts = satAdd 16 s.peg.timeouts 1) ∧
    (∀ q x rest b, (s.pegQueue q).samples = x :: rest → (s.pegQueue q).batchOf x.serial = some b → s.emittable q x = true →
      (s.pegQueue q).failBatch = false →
      ∃ t, exec (.sampleEmit q) s = .next t ∧ (t.pegQueue q).cursor = (s.pegQueue q).cursor + 1
        ∧ (∀ y ∈ (t.pegQueue q).samples, y.serial ≠ x.serial)) ∧
    (∀ g x, let u := Tab.get ({} : UniGroup) s.uni.groups g
      let rq := (u.streams.getD u.ref (0, false)).1
      u.active = true → (s.pegQueue rq).samples.find? (fun x => !x.set) = some x → x.state = .ready →
      (∀ k, k < u.streams.length → k ≠ u.ref →
        let r := matchStream (u.samples.getD k []) (bit u.ended k) (u.streams.getD k (0, false)).2 x.ts u.tol
        r ≠ .wait ∧ ∀ y h, r = .chosen y h → y.emitted = true) →
      ∃ t, exec (.unisonSetComplete g) s = .next t ∧ (Tab.get ({} : UniGroup) t.uni.groups g).sets = wrapAdd 32 u.sets 1
        ∧ (∀ y ∈ (t.pegQueue rq).samples, y.serial = x.serial → y.set = true))

/-! ### Pairs, fills and courses (10, 15) -/

/-- PAIR_BIND puts the partition into state 1 with the ranges of the command; PAIR_RELEASE unbinds it and keeps its last confirmed
step; SPARE_FILL registers a fill that waits for its other side; ADOPT_NODE takes the node id, and completes at once where no
course is up or retraining (R260, R272, R276, R373, R398). MIRROR_APPLY: with every record of the oldest step applied, a step
whose checksum agrees is confirmed and leaves the landing area, and one whose checksum does not makes the pair diverged;
before that it applies one record (R274, R275). -/
def Obligations.PairsAndMirrors : Prop :=
  (
    ∀ (s : State) (n : Nat) (c : Cmd), let p := c.packet
      let m := pkPart p
      (s.ready n 0x90 c → s.crs.hands = [] →
        ∃ u, exec (.pairBind n) s = .next (State.hubFetch u) ∧ (u.pair m).state = 1 ∧ (u.pair m).cause = 0
          ∧ (u.pair m).node = pk p 16 2 % 2 ^ 12 ∧ (u.pair m).npart = pk p 16 2 / 2 ^ 12 ∧ (u.pair m).valid = false
          ∧ (u.pair m).mirrorBase = pk p 20 6 ∧ (u.pair m).mirrorPages = pk p 26 4 ∧ (u.pair m).plainBase = pk p 30 6
          ∧ (u.pair m).plainPages = pk p 36 4 ∧ (u.pair m).landBase = pk p 46 6 ∧ (∀ k, k ≠ m → u.pair k = s.pair k)
          ∧ u = { s.begun n with crs := { s.crs with ports := u.crs.ports, pairs := u.crs.pairs } }) ∧
      (s.ready n 0x93 c →
        ∃ u, s.endsWith (.pairRelease n) n stOk 0 u ∧ (u.pair m).state = 0 ∧ (u.pair m).valid = (s.pair m).valid
          ∧ (u.pair m).step = (s.pair m).step ∧ (∀ k, k ≠ m → u.pair k = s.pair k)) ∧
      (s.ready n 0x92 c → s.crs.hands = [] →
        ∃ u f, exec (.spareFill n) s = .next (State.hubFetch u) ∧ u.jobs.fills = s.jobs.fills ++ [f] ∧ f.cmd = n ∧ f.part = m
          ∧ f.ctx = pkCtx p ∧ f.node = pk p 16 2 % 2 ^ 12 ∧ f.receiver = (pk p 18 1 == 1) ∧ f.matched = false
          ∧ u = { (s.begun n).notePlan m with jobs := { s.jobs with fills := u.jobs.fills }, crs := { s.crs with ports := u.crs.ports } }) ∧
      (s.ready n 0x91 c → (∀ k, k < 16 → (s.port k).state ≠ 1 ∧ (s.port k).state ≠ 2) →
        ∃ u, exec (.adoptNode n) s = .next (State.hubFetch u) ∧ u.crs = { s.crs with nodeId := pk p 16 2 % 2 ^ 12 } ∧ u.cmd n = none
          ∧ u.flash = s.flash.rewriteConfig s.flash.activeSlot (pk p 16 2 % 2 ^ 12)) ∧
      (s.ready n 0x91 c → ∃ u, exec (.adoptNode n) s = .next (State.hubFetch u) ∧ u.crs.nodeId = pk p 16 2 % 2 ^ 12)) ∧
  (
    ∀ (s : State) (n step count crc : Nat) (rest : List (Nat × Nat × Nat)), n < 16 → s.off = false →
      let p := s.pair n
      (p.state = 2 ∨ p.state = 4) → p.landedSteps = (step, count, crc) :: rest →
      (count ≤ p.applied → p.applyCrc = crc →
        ∃ t, exec (.mirrorApply n) s = .next t ∧ (t.pair n).valid = true ∧ (t.pair n).step = step % 2 ^ 63
          ∧ (t.pair n).landedSteps = rest ∧ (t.pair n).applied = 0 ∧ (t.pair n).state = p.state) ∧
      (count ≤ p.applied → p.applyCrc ≠ crc → exec (.mirrorApply n) s = .next (s.diverge n)) ∧
      ((p.recordsOf step).length < count - p.applied → exec (.mirrorApply n) s = .next s) ∧
      (∀ r, p.applied < count → count - p.applied ≤ (p.recordsOf step).length → leastRecord (p.recordsOf step) = some r →
        let u := s.applyRecord n r
        exec (.mirrorApply n) s = .next (if (u.pair n).state != 3 && (u.pair n).applied == count then u.confirmStep n step crc else u)))

/-- A flit whose CRC is wrong is counted and answered with a negative acknowledgement; one out of sequence is answered with one; one in
sequence is accepted and advances the expected number, and the last one of a message makes it whole. Only the receiver's state of that
course changes, and Luthier's count of codewords; the codewords that brought the flit are counted (R251, R253, R254, R277, R361). -/
def Obligations.FlitsReceived : Prop :=
  ∀ (s : State) (c : Nat) (flit : List Byte) (fec : FecCount), c < 16 → s.dieOff (c % 4) = false → (s.port c).state = 1 →
    let p := s.port c
    let w := leAt flit 0 4
    let v := s.countFec c fec
    let good := flit.length = 256 ∧ leAt flit 252 4 = crc32 (flit.take 252)
    (∃ t, exec (.flitReceive c ⟨flit, fec⟩) s = .next t ∧ (t.port c).retry = p.retry ∧ (t.port c).txSeq = p.txSeq ∧ (t.port c).queue = p.queue
      ∧ (t.port c).fecCorrected = satAdd 32 p.fecCorrected fec.corrected
      ∧ (t.port c).fecUncorrected = satAdd 32 p.fecUncorrected fec.uncorrected
      ∧ t = { s with crs := { s.crs with ports := t.crs.ports }, lth := { s.lth with uncorrected := t.lth.uncorrected } }) ∧
    (¬good → ∃ t, exec (.flitReceive c ⟨flit, fec⟩) s = .next t ∧ t = v.modPort c (fun p => { p with
        crcErrors := satAdd 16 p.crcErrors 1, naks := satAdd 16 p.naks 1, rxDrop := true })
        ∧ (t.port c).rxSeq = p.rxSeq ∧ (t.port c).arrived = p.arrived) ∧
    (good → field w 3 2 < 2 → field w 14 4 ≠ p.rxSeq → p.rxDrop = false →
      ∃ t, exec (.flitReceive c ⟨flit, fec⟩) s = .next t ∧ t.port c = { v.port c with naks := satAdd 16 p.naks 1, rxDrop := true }
        ∧ ∀ b, b ≠ c → t.port b = s.port b) ∧
    (good → field w 3 2 < 2 → field w 14 4 = p.rxSeq →
      ∃ t, exec (.flitReceive c ⟨flit, fec⟩) s = .next t ∧ (t.port c).rxSeq = (p.rxSeq + 1) % 2048 ∧ (t.port c).rxDrop = false
        ∧ (bit w 16 = false → (t.port c).arrived = p.arrived)
        ∧ (bit w 16 = true → ∃ m, (t.port c).arrived = p.arrived ++ [m])
        ∧ ∀ b, b ≠ c → t.port b = s.port b)

/-- A message survives its flits: what a message's flits carry is the message, for every message that a header can name
(R251, R252). -/
def Obligations.MessageFlits : Prop :=
  ∀ (m : Msg) (seq : Nat), m.vc < 4 → m.cls < 2 → m.dst < 2 ^ 12 → m.src < 2 ^ 12 → m.srcPart < 16 → m.mkind < 2 ^ 8 → m.op < 16 →
    m.fmt < 16 → m.core < 2 ^ 16 → m.group < 2 ^ 16 → m.cseq < 2 ^ 32 → m.count < 2 ^ 32 → m.offset < 2 ^ 32 → m.hop < 2 ^ 16 →
    m.dstPart < 16 → m.reason < 2 ^ 8 → m.data.length < 2 ^ 32 →
    Msg.ofFlits ((m.flits seq).map (·.2)) = m ∧ (m.flits seq).length = m.flitCount ∧ ∀ f ∈ m.flits seq, f.2.length = 256

/-- Acknowledgements, credits, messages that are forwarded or consumed, and the training of a course (R253 to R257, R259, R277, R380).
A part of a bind copy or of a fill waits at its course while its page moves or drains (R228, log 189). That the sequence numbers start
again at 0 at a retraining, and which window of codewords fec_limit is held to, is the model's choice (logs 50 and 185). -/
def Obligations.CourseEvents : Prop :=
  ∀ (s : State) (c : Nat), c < 16 → s.dieOff (c % 4) = false →
    let p := s.port c
    (p.state = 1 → ∀ seq vc cls total,
      exec (.linkControlFlit c (.ack seq)) s = .next ((s.modPort c fun p => p.ack seq).pump c) ∧
      (p.queue = [] → ∃ t, exec (.linkControlFlit c (.credit vc cls total)) s = .next t
        ∧ (t.port c).freed = Tab.update 0 p.freed (2 * (vc % 4) + cls % 2) (max total) ∧ (t.port c).used = p.used)) ∧
    (∀ m rest, p.arrived = m :: rest →
      let u := s.modPort c fun p => { p with arrived := rest }
      (m.dst = s.crs.nodeId → (s.landDue m.dstPart m && s.landWaits m.dstPart m) = false →
        exec (.messageReceive c) s = .next ((u.consume c m).settleBridges)) ∧
      (m.dst = s.crs.nodeId → s.landDue m.dstPart m = true → s.landWaits m.dstPart m = true → exec (.messageReceive c) s = .next s) ∧
      (∀ t, m.dst ≠ s.crs.nodeId → u.send m (some (c, m.cls)) [] = some t → exec (.messageReceive c) s = .next t) ∧
      (m.dst ≠ s.crs.nodeId → u.send m (some (c, m.cls)) [] = none →
        exec (.messageReceive c) s = .next ((u.freeCredits c m).sendRefusal m 1))) ∧
    (p.state = 1 → p.held = [] → p.queue = [] →
      ∃ t, exec (.courseRetrain c .fecLock) s = .next t ∧ (t.port c).state = 2 ∧ (t.port c).attempt = 0
        ∧ (t.port c).retrains = satAdd 16 p.retrains 1 ∧ (t.port c).rxSeq = 0 ∧ (t.port c).txSeq = 0
        ∧ (∀ b, b ≠ c → t.port b = s.port b) ∧ t.lth.retrains = s.lth.retrains + 1) ∧
    (p.state = 1 → p.nakRuns < 8 → exec (.courseRetrain c .naks) s = .next s) ∧
    (p.state = 1 → p.mayRetrain .fecErrors = false → exec (.courseRetrain c .fecErrors) s = .next s) ∧
    (∀ rate lanes width peer, (p.state = 0 ∧ s.trainingStarted = true) ∨ p.state = 2 → p.queue = [] →
      p.options[p.attempt]? = some (rate, lanes, width) →
      (∃ t, exec (.courseTrainingAttemptEnd c true peer) s = .next t ∧ (t.port c).state = 1 ∧ (t.port c).rate = rate
        ∧ (t.port c).lanes = lanes ∧ (t.port c).width = width ∧ (t.port c).peer = peer % 2 ^ 12
        ∧ ∀ b, b ≠ c → t.port b = s.port b) ∧
      (p.attempt + 1 < p.options.length → ∃ t, exec (.courseTrainingAttemptEnd c false peer) s = .next t
        ∧ t.port c = { p with attempt := p.attempt + 1 } ∧ ∀ b, b ≠ c → t.port b = s.port b) ∧
      (p.options.length ≤ p.attempt + 1 → ∃ t, exec (.courseTrainingAttemptEnd c false peer) s = .next t ∧ (t.port c).state = 3)) ∧
    (∀ value, bit value 31 = false →
      ∃ t, exec (.retrain c value) s = .next t ∧ t.port c = p.configure value ∧ t = { s with crs := t.crs, bridges := t.bridges, hub := t.hub } ∧ s.hubStays t) ∧
    (∀ value, bit value 31 = true → p.held = [] → p.queue = [] →
      ∃ t, exec (.retrain c value) s = .next t ∧ (t.port c).state = 2 ∧ (t.port c).rates = field value 11 10
        ∧ (t.port c).widths = field value 15 12)

/-! ### Device memory events (09) -/

/-- A walk fills both translation caches; an uncorrectable error poisons its page and is counted; a scrub read of the next line in address order
counts what it finds, and the corrections of demand reads with it (that the pseudo-channels of a stack take their turns by number is the
model's choice, log 190);
a stack or an interface that fails is in state 3, lost, and its frames are gone. A page of which the host may hold a line is poisoned
once the host has given it up (R227, R230, R232, R239, R240, R242, R243, R246). -/
def Obligations.MemoryEvents : Prop :=
  ∀ (s : State), s.off = false → s.boot.dead = [] →
    (∀ d k x, (d, k, x) ∈ s.frt.walks →
      ∃ t, exec (.fretboardWalk d k x) s = .next t ∧ x ∈ Tab.get [] t.frt.clCache k ∧ x ∈ Tab.get [] t.frt.dieCache (d * 512 + x % 512)
        ∧ t.frt.entry = s.frt.entry ∧ t = { s with frt := { s.frt with walks := t.frt.walks, clCache := t.frt.clCache, dieCache := t.frt.dieCache } }) ∧
    (∀ x o, eValid (s.entry x) = true → eTier (s.entry x) ≤ 5 → eState (s.entry x) ≠ 3 → s.frt.pageSnooped x = false →
      (s.ctl (ctlOf (eTier (s.entry x)) (eFrame (s.entry x)) o)).uncorrectable < 15 ∨ eTier (s.entry x) = 5 →
      ∃ t, exec (.memoryUncorrectableError x o) s = .next t ∧ eState (t.entry x) = 3 ∧ eValid (t.entry x) = true
        ∧ t.frt.poisonPages = wrapAdd 32 s.frt.poisonPages 1 ∧ (∀ y, y ≠ x → t.entry y = s.entry y)
        ∧ (eTier (s.entry x) ≤ 4 → s.carries (ctlOf (eTier (s.entry x)) (eFrame (s.entry x)) o) = true →
            t.boot.census = satAdd 32 s.boot.census 1)) ∧
    (∀ x o, eValid (s.entry x) = true → eTier (s.entry x) = 5 → eState (s.entry x) ≠ 3 → s.frt.pageSnooped x = true →
      x ∉ s.frt.poisoning →
      ∃ t, exec (.memoryUncorrectableError x o) s = .next t ∧ t.frt = { s.frt with poisoning := s.frt.poisoning ++ [x] }
        ∧ t = { s with frt := t.frt, bridges := t.bridges, hub := t.hub } ∧ s.hubStays t) ∧
    (∀ x o, eValid (s.entry x) = false → exec (.memoryUncorrectableError x o) s = .next s) ∧
    (∀ i frame o, (s.stackReg i).state = 1 → (s.stackReg i).gap ≠ 0 → scrubLine (.hbm i) (s.stackReg i).scrubAt = (frame, o) →
      (∃ t, exec (.scrubRead (.hbm i) frame o {}) s = .next t ∧ t = { s with hbms := t.hbms }
        ∧ (t.stackReg i).corrected = (s.stackReg i).corrected
        ∧ ((s.stackReg i).scrubAt + 1 < 603979776 → (t.stackReg i).scrubAt = (s.stackReg i).scrubAt + 1
            ∧ (t.stackReg i).passes = (s.stackReg i).passes)
        ∧ (603979776 ≤ (s.stackReg i).scrubAt + 1 → (t.stackReg i).scrubAt = 0
            ∧ (t.stackReg i).passes = wrapAdd 16 (s.stackReg i).passes 1)) ∧
      (∃ t, exec (.scrubRead (.hbm i) frame o { scrub := .corrected }) s = .next t
        ∧ (t.stackReg i).corrected = satAdd 32 (s.stackReg i).corrected 1 ∧ t.lth.corrections = s.lth.corrections + 1
        ∧ t = { s with hbms := t.hbms, lth := t.lth, flash := t.flash })) ∧
    (∀ i frame o, (s.stackReg i).state = 1 → scrubLine (.hbm i) (s.stackReg i).scrubAt ≠ (frame, o) →
      exec (.scrubRead (.hbm i) frame o {}) s = .next s ∧
      ∃ t, exec (.scrubRead (.hbm i) frame o { demand := [.corrected] }) s = .next t
        ∧ (t.stackReg i).corrected = satAdd 32 (s.stackReg i).corrected 1 ∧ (t.stackReg i).scrubAt = (s.stackReg i).scrubAt) ∧
    (∀ i, i < 12 → (s.stackReg i).state = 1 →
      ∃ t, exec (.stackFailed i) s = .next t ∧ (t.stackReg i).state = 3 ∧ (t.pool i).live = false ∧ bit t.boot.hbmLive i = false
        ∧ bit t.boot.hbmLost i = true
        ∧ ∀ x, eValid (s.entry x) = true → eTier (s.entry x) ≤ 4 → poolOf (eTier (s.entry x)) (eFrame (s.entry x)) = i →
            s.frt.pageSnooped x = false → eState (t.entry x) = 3) ∧
    (∀ i, i < 16 → (s.lpReg i).state = 1 →
      ∃ t, exec (.lpInterfaceFailed i) s = .next t ∧ (t.lpReg i).state = 3 ∧ bit t.boot.lpGroups (i / 4) = false
        ∧ bit t.boot.lpLive i = false ∧ bit t.boot.lpLost i = true)

/-! ### Scheduling and Capo (12) -/

/-- The quantum of a context asks its core to stop only while another ready context has its rank; a core that stands at its boundary and
has to stop gives way. `.none`: the saving of its data meets no read error (R120, R307, R308). -/
def Obligations.QuantumAndBoundary : Prop :=
  ∀ (s : State) (g : Nat), g < numCores → s.dieOff (dieOf g) = false →
    let k := s.core g
    (∀ c x, k.ctx = some c → s.ctx k.part c = some x → x.quantum ≠ 0 → s.runsReady g = true → k.stopReq = false →
      ((s.part k.part).ctxs.any fun e => e.1 != c && e.2.ready g && e.2.rank == x.rank) = true →
      ∃ t, exec (.quantumExpiry g) s = .next t ∧ (t.core g).stopReq = true ∧ (t.core g).switching = true ∧ (t.core g).ctx = some c
        ∧ (t.core g).pc = k.pc ∧ (∀ h, h ≠ g → t.core h = s.core h) ∧ t = { s with cores := t.cores }) ∧
    (∀ c x, k.ctx = some c → s.ctx k.part c = some x →
      ((s.part k.part).ctxs.any fun e => e.1 != c && e.2.ready g && e.2.rank == x.rank) = false →
      exec (.quantumExpiry g) s = .next s) ∧
    (k.ctx = none → s.boundary g = true → k.stopReq = false → k.state ≠ .faulted →
      exec (.coreBoundaryReached ⟨g, .none⟩) s = .next (((s.settleWith true g).endPreempts k.part g).settleBridges)) ∧
    (∀ c x, k.ctx = some c → s.ctx k.part c = some x → k.stopReq = true → k.atBoundary = true → s.helping g = false →
      s.runDown g = s → s.finishProgram g = s → x.abandon = none → x.preempted = true → x.stopped = false → x.launch.isSome = true →
      (x.core g).finished = false → s.occupied g = true →
      exec (.coreBoundaryReached ⟨g, .none⟩) s = .next (((((s.saveSeq g).modCore g fun k => { k with
        state := .preempted, stopReq := false, switching := false }).settleWith true g).endPreempts k.part g).settleBridges))

/-- Capo: enabling a job reads its record and starts at frame 0 in full mode; a milestone that projects a finish within the budget only
advances; a deadline that passes marks the frame late, and abandons a full frame; a job without a frame does nothing
(R314 to R317). -/
def Obligations.CapoEvents : Prop :=
  ∀ (s : State) (j : Nat), j < 16 → s.off = false →
    let b := s.job j
    (∀ value bs, bit value 63 = true → b.enable = false →
      s.devRead (field value 61 58) .plain .newest (alignDown (field value 40 0) 64) 256 = .ok bs →
      ∃ t, exec (.capoEnable j value) s = .next t ∧ (t.job j).enable = true ∧ (t.job j).part = field value 61 58
        ∧ (t.job j).ctx = field value 57 52 ∧ (t.job j).rec_ = capoRecord bs ∧ (t.job j).cheap = false ∧ (t.job j).nextFrame = 0
        ∧ (t.job j).frame = none ∧ (∀ i, i ≠ j → t.job i = s.job i) ∧ t = { s with capo := t.capo }) ∧
    (∀ value, bit value 63 = false → ∃ t, exec (.capoEnable j value) s = .next t ∧ (t.job j).enable = false ∧ t = { s with capo := t.capo }) ∧
    (b.frame = none → exec (.capoMilestone j) s = .next s ∧ exec (.capoDeadline j) s = .next s) ∧
    (∀ fr v w, b.frame = some fr → b.rec_.milestones[fr.reached]? = some (v, w) →
      (v : Int) ≤ (s.counter b.rec_.mctr - fr.c0).toInt →
      (b.cheap || fr.cheap) = true ∨ Config.elapsedCycles s.fresh * 65536 / max 1 w ≤ b.rec_.budget →
      ∃ t, exec (.capoMilestone j) s = .next t ∧ (t.job j).frame = some { fr with reached := fr.reached + 1 }
        ∧ t = { s with capo := t.capo, fresh := s.fresh + 1 }) ∧
    (∀ fr v w, b.frame = some fr → b.rec_.milestones[fr.reached]? = some (v, w) →
      (s.counter b.rec_.mctr - fr.c0).toInt < (v : Int) → exec (.capoMilestone j) s = .next s) ∧
    (∀ fr, b.frame = some fr → fr.late = false → (b.cheap || fr.cheap) = true →
      ∃ t, exec (.capoDeadline j) s = .next t ∧ (t.job j).frame = some { fr with late := true } ∧ t = { s with capo := t.capo }) ∧
    (∀ fr, b.frame = some fr → fr.late = false → (b.cheap || fr.cheap) = false →
      exec (.capoDeadline j) s = .next (((s.modJob j fun b => { b with frame := some { fr with late := true } }).capoSwitch j 1 0xFF
        (b.rec_.budget % 2 ^ 32) 0).settleBridges))

/-! ### Bridges (14) -/

/-- A CLAIM is answered with the lowest eligible source whose target mask holds the claimant: that source is active, the delivery is
counted, and a sequencer enters its handler at its vector; with none, a target whose offer another's claim has taken counts a spurious
claim (R119, R350, R351). -/
def Obligations.Claims : Prop :=
  ∀ (s : State) (b t : Nat), b ≤ 4 → s.dieOff b = false → s.available b t = true →
    (∀ src, s.claimed b t = some src →
      ∃ u, exec (.claim b t) s = .next u ∧ (u.bridge b).isActive src = true
        ∧ (u.bridge b).delivered = wrapAdd 32 (s.bridge b).delivered 1 ∧ (u.bridge b).soft = (s.bridge b).soft
        ∧ (b < 4 → let g := 64 * b + t
            (u.core g).inHandler = true ∧ (u.core g).handlerSrc = some src ∧ (u.core g).wait = none ∧ (u.core g).state = .issuing
            ∧ ((s.core g).wait = none → (u.core g).irqRet = (s.core g).pc)
            ∧ (∀ w, (s.core g).wait = some w → (u.core g).irqRet = w.index)
            ∧ (u.core g).pc = ((s.core g).vbase + 64 * s.srcVector b src + 2 ^ 41 - (s.core g).base) % 2 ^ 41 / 64
            ∧ (u.core g).sq = (s.core g).sq ∧ (∀ h, h ≠ g → u.core h = s.core h) ∧ u = { s with bridges := u.bridges, cores := u.cores, fresh := u.fresh, hub := u.hub }
            ∧ s.hubStays u)
        ∧ (b = 4 → u = { s with bridges := u.bridges, hub := u.hub }) ∧ (b = 4 → t ≠ 4 → s.hubStays u)
        ∧ (b = 4 → t = 4 → (s.forward src).hubStays u ∧ let m := s.vectorOf src
            bit (u.fn m.1).pba m.2 = bit ((s.forward src).fn m.1).pba m.2)
        ∧ (∀ j, j < src → ¬(s.eligible b j = true ∧ s.offersTo b j t = true))) ∧
    (s.claimed b t = none → t ∈ (s.bridge b).lost →
      ∃ u, exec (.claim b t) s = .next u ∧ (u.bridge b).spurious = wrapAdd 32 (s.bridge b).spurious 1
        ∧ (u.bridge b).active = (s.bridge b).active ∧ (b < 4 → (u.core (64 * b + t)).inHandler = true)) ∧
    (s.claimed b t = none → t ∉ (s.bridge b).lost → exec (.claim b t) s = .next s)

/-- Completion, soft bits, masks and control of a Bridge, and the arrival of a source that was not pending, which a coalescing group
counts; pending MSI-X messages whose sources have fallen are forgotten (R340, R345, R352, R353, R355 to R358, log 186). -/
def Obligations.BridgeWrites : Prop :=
  ∀ (s : State) (b : Nat), b ≤ 4 → s.dieOff b = false →
    let x := s.bridge b
    (∀ value, x.isActive (field value 9 0) = true →
      ∃ u, exec (.brgComplete b value) s = .next u ∧ (u.bridge b).isActive (field value 9 0) = false
        ∧ bit (u.bridge b).soft (field value 9 0) = false ∧ (u.bridge b).stray = x.stray
        ∧ (b < 4 → field value 9 0 < 64 → (u.core (64 * b + field value 9 0)).descDone
            = (s.core (64 * b + field value 9 0)).descDone - 1)
        ∧ u = { s with bridges := u.bridges, cores := u.cores, hub := u.hub } ∧ s.hubStays u) ∧
    (∀ value, x.isActive (field value 9 0) = false →
      ∃ u, exec (.brgComplete b value) s = .next u ∧ u.bridge b = { x with stray := satAdd 32 x.stray 1 }
        ∧ u = { s with bridges := u.bridges }) ∧
    (∀ w value, w < 32 →
      (∃ u, exec (.brgPendSet b w value) s = .next u ∧ (u.bridge b).soft = x.soft ||| wordBits w value ∧ (u.bridge b).mask = x.mask
        ∧ u = { s with bridges := u.bridges, hub := u.hub } ∧ s.hubStays u) ∧
      (∃ u, exec (.brgPendClr b w value) s = .next u ∧ (u.bridge b).soft = x.soft - (x.soft &&& wordBits w value)
        ∧ (u.bridge b).mask = x.mask ∧ u = { s with bridges := u.bridges, hub := u.hub } ∧ s.hubStays u) ∧
      (x.maskMode = false →
        (∃ u, exec (.brgMaskSet b w value) s = .next u ∧ (u.bridge b).mask = x.mask ||| wordBits w value ∧ (u.bridge b).soft = x.soft
          ∧ u = { s with bridges := u.bridges, hub := u.hub } ∧ s.hubStays u) ∧
        (∃ u, exec (.brgMaskClr b w value) s = .next u ∧ (u.bridge b).mask = x.mask - (x.mask &&& wordBits w value)
          ∧ (u.bridge b).soft = x.soft ∧ u = { s with bridges := u.bridges, hub := u.hub } ∧ s.hubStays u)) ∧
      (x.maskMode = true → exec (.brgMaskSet b w value) s = .next s ∧ exec (.brgMaskClr b w value) s = .next s)) ∧
    (∀ value, ∃ u, exec (.brgCtrl b value) s = .next u ∧ (u.bridge b).enable = bit value 0
      ∧ (u.bridge b).maskMode = (if x.enable then x.maskMode else bit value 1)
      ∧ (u.bridge b).gdis = ((u.bridge b).maskMode && bit value 2) ∧ u = { s with bridges := u.bridges, hub := u.hub } ∧ s.hubStays u) ∧
    (∀ src, src < 1024 → s.pendingSrc b src = true → src ∉ x.seen →
      ∃ u, exec (.sourceAssert b src) s = .next u ∧ src ∈ (u.bridge b).seen ∧ (u.bridge b).active = x.active
        ∧ (bit x.mask src = false → x.isActive src = false → s.routed b src = false → (x.group (src / 64)).state = 0 →
            2 ≤ (x.group (src / 64)).countThr →
            ((u.bridge b).group (src / 64)).state = 1 ∧ ((u.bridge b).group (src / 64)).arrivals = 1)
        ∧ u = { s with bridges := u.bridges, hub := u.hub } ∧ s.hubStays u) ∧
    (∀ g, g < 16 → (x.group g).state = 1 → (x.group g).timeThr ≠ 0 →
      ∃ u, exec (.groupTimerRelease b g) s = .next u ∧ u = { s with bridges := u.bridges, hub := u.hub } ∧ s.hubStays u
        ∧ ((rangeFrom (64 * g) 64).any (fun src => !s.routed b src && ((s.pendingSrc b src && !bit x.mask src) || x.isActive src)) = true →
            ((u.bridge b).group g).state = 2))

/-- A completion of a source that is not active, through BRG_COMPLETE, changes nothing but the stray count, to which it adds 1; and a
write to HUB_CQ_HEADq while the pair's source is not active is not a completion: it changes neither the stray count nor any
source's state at a Bridge by completing it (R353). -/
def Obligations.StrayCompletions : Prop :=
  (∀ (s : State) (b value : Nat), b ≤ 4 → s.dieOff b = false → (s.bridge b).isActive (field value 9 0) = false →
    ∃ u, exec (.brgComplete b value) s = .next u ∧ u.bridge b = { s.bridge b with stray := satAdd 32 (s.bridge b).stray 1 }
      ∧ (∀ a, a ≠ b → u.bridge a = s.bridge a) ∧ u = { s with bridges := u.bridges }) ∧
  (∀ (s : State) (f q value : Nat), s.off = false → (s.bridge 4).isActive (32 * f + q) = false →
    ∃ u, exec (.cqDoorbell f q value) s = .next u ∧ (u.bridge 4).stray = (s.bridge 4).stray
      ∧ ∀ src, (u.bridge 4).isActive src = (s.bridge 4).isActive src)

/-! ### Registers (02, 13) -/

/-- A read of a register returns it and clears its RC fields, and a reserved offset reads 0; RW fields read back what was written; a
write with a row of its own has that row's effect; reserved offsets, absent units and the identity block of a function other than
PF0 ignore writes (R4 to R7, R322). -/
def Obligations.RegisterAccess : Prop :=
  ∀ (s : State), s.off = false →
    (∀ addr r, s.regOf 0 addr = some r →
      ∃ t, exec (.registerReadRc 0 addr) s = .next t ∧ t.rdata = s.readReg 0 r ∧ t.mems = s.mems ∧ t.hub.accepted = s.hub.accepted) ∧
    (∀ addr, s.regOf 0 addr = none → exec (.registerReadRc 0 addr) s = .next { s with rdata := 0 }
      ∧ ∀ v, exec (.registerWrite 0 addr v) s = .next s) ∧
    (∀ addr v f, f ≠ 0 → addr < 0x1000 → exec (.registerWrite f addr v) s = .next s) ∧
    (∀ g, g < numCores → ∀ t, s.afterRead (.core g .seqCvtCnt) = t → t.core g = { s.core g with vecNan := 0, moveNan := 0 }) ∧
    (∀ v, let t := s.writeReg 0 .bowWeight v
      t.readReg 0 .bowWeight = v % 2 ^ 32 ∧ t = { s with bow := { s.bow with weights := t.bow.weights } }) ∧
    (∀ v, let t := s.writeReg 0 .lthWeight v
      t.readReg 0 .lthWeight = v % 2 ^ 32 ∧ t = { s with lth := { s.lth with wT := t.lth.wT, wE := t.lth.wE, wC := t.lth.wC, wD := t.lth.wD } }) ∧
    (∀ n v, n < 16 → let t := s.writeReg 0 (.scrWin n) v
      t.readReg 0 (.scrWin n) = v % 2 ^ 64 - v % 2 ^ 19 ∧ ∀ m, m ≠ n → t.scrPart m = s.scrPart m) ∧
    (∀ v, bit v 31 = true → bit v 30 = false → let t := s.writeReg 0 .secStatus v
      t.sec = { s.sec with evStageFail := false, evUnlockFail := if bit v 29 then false else s.sec.evUnlockFail }) ∧
    (∀ v, bit v 63 = true → (s.writeReg 0 .frtFaultInfo v).readReg 0 .frtFaultInfo = 0) ∧
    (∀ addr q v, s.regOf 0 addr = some (.queue (.sqTail q)) → exec (.registerWrite 0 addr v) s = exec (.sqDoorbell 0 q v) s) ∧
    (∀ addr b v, s.regOf 0 addr = some (.bridge b .ctrl) → exec (.registerWrite 0 addr v) s = exec (.brgCtrl b v) s) ∧
    (∀ addr v, s.regOf 0 addr = some .bootCtrl → ∃ t, exec (.registerWrite 0 addr v) s = .next t
      ∧ t = { s with boot := { s.boot with fullTest := bit v 0 }, bridges := t.bridges, hub := t.hub } ∧ s.hubStays t)

/-! ### Luthier (15) -/

/-- An evaluation of an enabled Luthier sets the risk from the scores of the period and the weights: raw is at most 255 and the risk is
the larger of raw and of the risk before less decay (R362). The scores are R361's, and the courses' counts the worst up course's; securing begins when the risk reaches the
threshold and ends when it falls below the threshold less the hysteresis (R363); a new period begins. -/
def Obligations.LuthierSetsRisk : Prop :=
  ∀ (s : State), s.off = false → s.lth.enable = true →
    let l := s.lth
    let u := ((l.uncorrected.filter fun e => (s.port e.1).state == 1).map (·.2)).foldl max 0
    ∃ t, exec .luthierEvaluation s = .next t
      ∧ t.lth.risk = max (min 255 ((l.wT * t.lth.sT + l.wE * t.lth.sE + l.wC * t.lth.sC + l.wD * t.lth.sD) / 128)) (l.risk - l.decay)
      ∧ t.lth.sE = min 255 (32 * log2Up l.corrections) ∧ t.lth.sD = min 255 (16 * l.droops)
      ∧ t.lth.sC = min 255 (64 * l.retrains + 16 * u)
      ∧ t.lth.sT = tempScore ((l.peaks.map (·.2)).foldl max 0) l.tLo l.tHi
      ∧ (l.secureNow = false → t.lth.secureNow = decide (l.threshold ≤ t.lth.risk))
      ∧ (l.secureNow = true → t.lth.secureNow = !decide (t.lth.risk + l.hysteresis < l.threshold))
      ∧ t.lth.evaluations = wrapAdd 32 l.evaluations 1 ∧ t.lth.corrections = 0 ∧ t.lth.retrains = 0 ∧ t.lth.droops = 0
      ∧ t = { s with lth := t.lth, jobs := t.jobs, mems := t.mems, frt := t.frt }

/-! ### Matrix engines (03) -/

/-- TILE: one that passes its checks is queued for an engine with its passes, one without output, or that its token counter
suppresses, completes at once, and a template is skipped (R48, R49, R73, R94, R95, R110). GATHER joins the gather stage, and the
wait bound issues the open tile with the rows it holds (R74 to R77). -/
def Obligations.TileIssue : Prop :=
  ∀ (s : State) (g d0 : Nat), let k := s.core g
    let d := applyOffsets d0 k.sq
    (s.issues g (dType · == tyTile) false ((((k.tiles.filter (·.phase == .queued)).map (·.serial)).eraseDups).length) 16 d0 →
      (dTemplate d0 = true → ∃ t, exec (.tile g) s = .next t ∧ (t.core g) = { k with pc := k.pc + 1, fenceWait := false, queueFull := false }
        ∧ t = { s with cores := t.cores }) ∧
      (dTemplate d0 = false → tileFaultCause d (s.classF g) false k.normOwner k.slotOpen = none →
        (T.tokCtr d = 0xFFFF → T.m d ≠ 0 → T.n d ≠ 0 → tileInRange d 0 (T.m d) (T.aAddr d, T.aStride d) (T.outAddr d, T.outStride d) = true →
          ∃ t, exec (.tile g) s = .next t ∧ (t.core g).pc = k.pc + 1
            ∧ (t.core g).tiles = k.tiles ++ tileRuns ({ serial := k.serial, index := k.pc, desc := d, seed := k.sq.getD (T.seedReg d) 0, m := T.m d, pairWith := (k.pairs.find? fun e => e.2 + 1 == k.pc).map (·.1) } : TileRun)
            ∧ (t.core g).pairs = (if s.pairFollows g d then [(k.serial, k.pc)] else []) ++ k.pairs.filter fun e => e.2 + 1 != k.pc
            ∧ (t.core g).issued = k.issued ++ [({ serial := k.serial, index := k.pc, desc := d, regs := k.sq, work := .tile } : Issued)]
            ∧ (t.core g).slotOpen = slotsAfter d k.slotOpen ∧ t = { s with cores := t.cores }) ∧
        (T.tokCtr d = 0xFFFF → (T.m d = 0 ∨ T.n d = 0) → dDoneEn d = false →
          ∃ t, exec (.tile g) s = .next t ∧ (t.core g).pc = k.pc + 1 ∧ (t.core g).empty = wrapAdd 16 k.empty 1
            ∧ (t.core g).tiles = k.tiles ∧ (t.core g).issued = k.issued ∧ t = { s with cores := t.cores }) ∧
        (T.tokCtr d ≠ 0xFFFF → s.clusterIn k.part (counterCluster (ownDie g (T.tokCtr d % 2 ^ 15))) = true → T.m d ≠ 0 → T.n d ≠ 0 →
          tileInRange d 0 (T.m d) (T.aAddr d, T.aStride d) (T.outAddr d, T.outStride d) = true →
          (s.counter (ownDie g (T.tokCtr d % 2 ^ 15))).toNat ≤ T.rowBase d → dDoneEn d = false →
          ∃ t, exec (.tile g) s = .next t ∧ (t.core g).pc = k.pc + 1 ∧ (t.core g).suppressed = wrapAdd 16 k.suppressed 1
            ∧ (t.core g).tiles = k.tiles ∧ (t.core g).issued = k.issued ∧ t = { s with cores := t.cores }))) ∧
    (∀ t0, s.issues g (dType · == tyGather) false k.gatherLoad 64 d0 →
      s.descriptor g (G.template d) = .ok t0 → dType t0 = tyTile → dTemplate t0 = true → G.template d < k.count →
      let tm := applyOffsets t0 k.sq
      tileFaultCause (dset tm 20 6 0 (G.rows d)) (s.classF g) true k.normOwner k.slotOpen = none → G.rows d ≠ 0 → G.rows d < 64 →
      tileInRange tm 0 (G.rows d) (G.aAddr d, G.aStride d) (G.outAddr d, G.outStride d) = true →
      k.gatherOpen = [] → k.gatherWait = [] → k.waitBound ≠ 0 →
      ∃ t, exec (.gather g) s = .next t ∧ (t.core g).pc = k.pc + 1
        ∧ (t.core g).gatherOpen = [({ serial := k.serial, desc := d, template := tm, seed := k.sq.getD (T.seedReg tm) 0 } : GatherReq)]
        ∧ (t.core g).gatherWait = [] ∧ (t.core g).tiles = k.tiles ∧ t = { s with cores := t.cores }) ∧
    (∀ q rest, s.dieOff (dieOf g) = false → k.gatherOpen = q :: rest → k.gatherWait = [] → T.n q.template ≠ 0 →
      ∃ t, exec (.gatherWaitBound g) s = .next t ∧ (t.core g).gatherOpen = []
        ∧ (t.core g).tiles = (k.tiles.filter fun u => u.serial < q.serial)
            ++ tileRuns ({ serial := q.serial, index := G.template q.desc, desc := q.template, seed := q.seed, m := (rowTable k.gatherOpen).length, rows := rowTable k.gatherOpen } : TileRun)
            ++ k.tiles.filter fun u => q.serial < u.serial
        ∧ t = { s with cores := t.cores })

/-- A tile's life on an engine: it starts on the first engine that can take it, adds its sums to its slots at a spill point, drains, and
its epilogue writes its outputs and completes it; a parity error sends it back to its last spill on another engine, and the fourth, or
one in a long-sum slot, is a tile fault; VECs that waited for its input run once it has drained; and a start, of a replay too, needs the
die's ramp (R51, R65, R66, R81 to R87, R95, R423). That a tile which has been issued starts after a stop request too is the model's
reading (log 148). -/
def Obligations.TileRuns : Prop :=
  ∀ (s : State) (g e h : Nat) (t : TileRun), s.dieOff (dieOf g) = false → let k := s.core g
    let here := fun (u : State) (P : TileRun → Prop) => ∀ y ∈ (u.core g).tiles, y.serial = t.serial → y.pass = t.pass → P y
    (k.tiles.find? (·.phase == .queued) = some t → k.pickEngine [t.desc] (s.classF g) [] = some e → s.rampAllows g = true →
      k.awaitsHalf t = false → k.partner t = none →
      ∃ u, exec (.tileStart g) s = .next u ∧ here u (fun y => y.phase = .streaming ∧ y.engine = e ∧ y.units ∈ unitSets t.desc (s.classF g))
        ∧ (u.core g).issued = k.issued ∧ u = { s with cores := u.cores, mems := { s.mems with acc := u.mems.acc } }) ∧
    (∀ v, k.tiles.find? (·.phase == .queued) = some t → k.pickEngine [t.desc, v.desc] (s.classF g) [] = some e →
      s.rampAllows g = true → k.awaitsHalf t = false → k.partner t = some v →
      exec (.tileStart g) s = .next (((s.finishStreams g e [0, 1]).startOn g e t).startOn g e v)) ∧
    (k.tiles.find? (·.phase == .queued) = some t → s.rampAllows g = false ∨ k.awaitsHalf t = true → exec (.tileStart g) s = .next s) ∧
    (∀ us, (k.tiles.find? fun t => t.engine == e && t.phase == .streaming && t.inHalf h && !t.lastSegment) = some t →
      k.freeUnits e t.desc (s.classF g) = some us → k.mayAdd t = true →
      ∃ u, exec (.spillPoint g e h) s = .next u ∧ here u (fun y => y.phase = .streaming ∧ y.at_ = segmentEnd t.desc t.at_ ∧ y.opened = true)
        ∧ u = { s with cores := u.cores, mems := { s.mems with acc := u.mems.acc, ls := u.mems.ls } }) ∧
    ((k.tiles.find? fun t => t.engine == e && (t.phase == .finished || (t.phase == .streaming && t.lastSegment)) && k.canDrain t) = some t →
      exec (.tileDrain g e) s = .next ((s.drainTile g t).runVecs g) ∧
      (usesSlot t.desc = false → (∀ i ∈ k.issued, i.work ≠ .vec) → ∃ u, exec (.tileDrain g e) s = .next u
        ∧ here u (fun y => y.phase = .drained ∧ y.units = [] ∧ y.block = s.accBlock g t) ∧ u = { s with cores := u.cores })) ∧
    (k.tiles.find? (·.phase == .drained) = some t → k.updating = false → t.rows = [] → (∀ i ∈ k.issued, i.work ≠ .vec) →
      (∀ y ∈ k.tiles, y.serial = t.serial → y.pass = t.pass) → k.pc < k.count →
      ∃ u, exec (.epilogue g .none) s = .next u ∧ (∀ y ∈ (u.core g).tiles, y.serial ≠ t.serial)
        ∧ (u.core g).issued = k.issued.filter (·.serial != t.serial) ∧ (u.core g).completed = wrapAdd 32 k.completed 1
        ∧ u.mems.sp = (runEpilogue s g t).mems.sp
        ∧ u = { s with cores := u.cores, mems := { s.mems with sp := u.mems.sp, cm := u.mems.cm } }) ∧
    (∀ step kind, k.parityTarget e h kind = some t →
      (kind ≠ .longSum → t.attempts < 3 →
        ∃ u, exec (.parityError g e h step kind) s = .next u
          ∧ here u (fun y => y = { t with
              phase := .replayWait, attempts := t.attempts + 1, avoid := [e], units := [], block := [], sat := y.sat })
          ∧ (u.core g).parityEvents = satAdd 8 k.parityEvents 1 
          ∧ u.boot = { s.boot with census := satAdd 32 s.boot.census 1, events := satAdd 32 s.boot.events 1 }
          ∧ u.lth.corrections = s.lth.corrections + 1 ∧ u = { s with cores := u.cores, boot := u.boot, lth := u.lth }) ∧
      (kind ≠ .longSum → 3 ≤ t.attempts → k.engErr = none →
        ∃ u i, exec (.parityError g e h step kind) s = .next u ∧ (u.core g).state = .faulted
          ∧ (u.core g).engErr.map (fun r => (r.cause, r.engine, r.step, r.index)) = some (1, e, step % 2 ^ 14, i)) ∧
      (kind = .longSum → k.engErr = none →
        ∃ u i, exec (.parityError g e h step kind) s = .next u ∧ (u.core g).state = .faulted
          ∧ (u.core g).engErr.map (fun r => (r.cause, r.engine, r.step, r.index)) = some (2, e, step % 2 ^ 14, i))) ∧
    (k.tiles.find? (·.phase == .replayWait) = some t → s.rampAllows g = true → k.pickEngine [t.desc] (s.classF g) t.avoid = some e →
      ∃ u, exec (.replayStart g) s = .next u ∧ here u (fun y => y.phase = .streaming ∧ y.engine = e ∧ y.at_ = t.at_)
        ∧ e ∉ t.avoid ∧ (u.core g).replayCnt = satAdd 8 k.replayCnt 1)

/-! ### The vector unit and the mover (04) -/

/-- VEC runs over its view unless an UPDATE, a protected range, or an earlier epilogue that is ready holds it, and an uncorrectable scratchpad error stops its core with
cause 9; MOVE is issued and carried out, one row of scratchpad bytes among them, and completes once it has copied and no line of it is
at the host (R85, R94, R95, R103, R109, R114, R235, R246). -/
def Obligations.VectorsAndMoves : Prop :=
  ∀ (s : State) (g d0 : Nat), let k := s.core g
    let d := applyOffsets d0 k.sq
    let item := fun (w : Work) => ({ serial := k.serial, index := k.pc, desc := d, regs := k.sq, work := w } : Issued)
    (∀ i ∈ k.issued, i.serial ≠ k.serial) →
    (s.issues g (dType · == tyVec) false (k.outstanding tyVec + k.outstanding tyUpdate) 16 d0 → vecFault d = none →
      ((∀ i ∈ k.issued, i.work ≠ .vec ∧ (dType i.desc = tyUpdate → k.serial ≤ i.serial)) →
        (∀ t ∈ k.tiles, t.phase = .drained → k.serial ≤ t.serial) → k.updating = false → k.blocksVec d = false →
        exec (.vec g .none) s = .next ((runVec (s.issue g d .vec) g d k.sq).complete g k.serial)) ∧
      (k.updating = true →
        ∃ t, exec (.vec g .none) s = .next t ∧ (t.core g).issued = k.issued ++ [item .vec] ∧ (t.core g).pc = k.pc + 1
          ∧ t = { s with cores := t.cores }) ∧
      (k.seqErr = none →
        ∃ t, exec (.vec g .spHard) s = .next t ∧ (t.core g).state = .faulted
          ∧ (t.core g).seqErr = some { cause := 9, kind := tyVec, index := k.pc } ∧ (t.core g).spHard = satAdd 16 k.spHard 1
          ∧ (t.core g).pc = k.pc ∧ t.mems.sp = s.mems.sp)) ∧
    (s.issues g (dType · == tyMove) false (k.outstanding tyMove) 64 d0 → s.moveFault g k.part d k.sel = none →
      exec (.move g .none) s = .next (((s.issue g d (.move false false)).moveLookups g k.part d k.sel).tryMove g k.serial) ∧
      (∀ c, k.ctx = some c → M.srcSpace d = 0 → M.dstSpace d = 0 → M.cvt d = false → M.rows d = 1 →
        k.protects (M.dst d) (M.rowBytes d) = false → s.memsWf →
        ∃ t, exec (.move g .none) s = .next t ∧ t.spRead g (M.dst d) (M.rowBytes d) = s.spRead g (M.src d) (M.rowBytes d)
          ∧ (t.core g).issued = k.issued ++ [item (.move true false)] ∧ (t.core g).pc = k.pc + 1
          ∧ (∀ x, x < g * 2 ^ 22 + M.dst d ∨ g * 2 ^ 22 + M.dst d + M.rowBytes d ≤ x → t.mems.sp.byte x = s.mems.sp.byte x)
          ∧ t = { s with cores := t.cores, mems := { s.mems with sp := t.mems.sp } })) ∧
    (∀ i x w, s.dieOff (dieOf g) = false → k.issued.find? (·.serial == i) = some x → x.work = .move true w → k.pc < k.count → s.memsWf →
      (M.dstSpace x.desc = 2 → ∀ e ∈ (s.moveRanges g k.part x.desc { k with sq := x.regs }.sel).2, s.heldIn e.1 e.2 = false) →
      ∃ t, exec (.moveComplete g i) s = .next t ∧ (t.core g).issued = k.issued.filter (·.serial != i)
        ∧ (dDoneEn x.desc = true → t.counter (ownDie g (dDoneCtr x.desc)) = s.counter (ownDie g (dDoneCtr x.desc)) + 1)
        ∧ (dDoneEn x.desc = false → t.mems = s.mems)
        ∧ (t.core g).descDone = (if dIrq x.desc then satAdd 16 k.descDone 1 else k.descDone)
        ∧ t = { s with cores := t.cores, mems := { s.mems with cm := t.mems.cm } })

/-! ### The sequencer's own descriptors (04) -/

/-- WAIT holds the core until (counter − value) is 0 or more, or its limit passes, and writes its result register; SIGNAL adds its value
to its counter; each raises cause 2 on a counter outside the partition (R99 to R102). -/
def Obligations.WaitsAndSignals : Prop :=
  ∀ (s : State) (g d0 : Nat), s.memsWf → (s.core g).sq.length = 16 → let k := s.core g
    let d := applyOffsets d0 k.sq
    (s.issues g (dType · == tyWait) false 0 1 d0 →
      (counterCluster (C.counter d) / 8 = dieOf g → s.clusterIn k.part (counterCluster (C.counter d)) = true →
        (s.waitHolds d = false →
          ∃ t, exec (.wait g .none) s = .next t ∧ (t.core g).wait = some { desc := d, index := k.pc } ∧ (t.core g).state = .waiting
            ∧ (t.core g).pc = k.pc + 1 ∧ (t.core g).sq = k.sq ∧ t = { s with cores := t.cores }) ∧
        (s.waitHolds d = true → dDoneEn d = false →
          ∃ t, exec (.wait g .none) s = .next t ∧ (t.core g).wait = none ∧ (t.core g).state = .issuing ∧ (t.core g).pc = k.pc + 1
            ∧ (t.core g).expired = k.expired
            ∧ (∀ r, r < 16 → (t.core g).sq.getD r 0 = if C.resEn d = true ∧ r = C.resReg d then 0 else k.sq.getD r 0)
            ∧ t.mems = s.mems)) ∧
      (s.clusterIn k.part (counterCluster (C.counter d)) = false → k.seqErr = none →
        ∃ t, exec (.wait g .none) s = .next t ∧ (t.core g).seqErr = some { cause := 2, kind := tyWait, index := k.pc } ∧ (t.core g).state = .faulted)) ∧
    (∀ w, s.dieOff (dieOf g) = false → k.wait = some w → k.pc < k.count →
      (s.waitHolds w.desc = false → exec (.waitComplete g) s = .next s) ∧
      (s.waitHolds w.desc = true →
        ∃ t, exec (.waitComplete g) s = .next t ∧ (t.core g).wait = none ∧ (t.core g).pc = k.pc ∧ (t.core g).expired = k.expired) ∧
      (C.limit w.desc = 0 → exec (.waitExpire g) s = .next s) ∧
      (C.limit w.desc ≠ 0 → s.waitHolds w.desc = false →
        ∃ t, exec (.waitExpire g) s = .next t ∧ (t.core g).wait = none ∧ (t.core g).expired = satAdd 16 k.expired 1
          ∧ (∀ r, r < 16 → (t.core g).sq.getD r 0 = if C.resEn w.desc = true ∧ r = C.resReg w.desc then 1 else k.sq.getD r 0))) ∧
    (s.issues g (dType · == tySignal) true 0 1 d0 →
      (s.clusterIn k.part (counterCluster (C.counter d)) = true → dDoneEn d = false →
        ∃ t, exec (.signal g .none) s = .next t ∧ t.counter (C.counter d) = s.counter (C.counter d) + BitVec.ofNat 64 (C.value d)
          ∧ (∀ c, c < 2 ^ 17 → c ≠ C.counter d → t.counter c = s.counter c)
          ∧ (t.core g).pc = k.pc + 1 ∧ (t.core g).sq = k.sq ∧ t = { s with cores := t.cores, mems := { s.mems with cm := t.mems.cm } }) ∧
      (s.clusterIn k.part (counterCluster (C.counter d)) = false → k.seqErr = none →
        ∃ t, exec (.signal g .none) s = .next t ∧ (t.core g).seqErr = some { cause := 2, kind := tySignal, index := k.pc }
          ∧ (t.core g).state = .faulted ∧ ∀ c, t.counter c = s.counter c))

/-- JUMP updates its register and goes to its target or on, and condition 6 returns from a handler; STEP_MARK marks the step passed and with
hold 1 holds the core; SEG_BEGIN and SEG_END open and close a segment; a line arrives; and a reserved type raises cause 1
(R8, R92, R105, R111 to R113, R352). -/
def Obligations.JumpsMarksSegments : Prop :=
  ∀ (s : State) (g d0 : Nat), (s.core g).sq.length = 16 → let k := s.core g
    let d := applyOffsets d0 k.sq
    (s.issues g (dType · == tyJump) false 0 1 d0 →
      (C.cond d < 6 → let r := if C.set d then C.upd d else k.sq.getD (C.reg d) 0 + C.upd d
        (jumpTaken d r = false ∨ C.target d < k.count →
          ∃ t, exec (.jump g) s = .next t ∧ (t.core g).pc = (if jumpTaken d r then C.target d else k.pc + 1)
            ∧ (∀ i, i < 16 → (t.core g).sq.getD i 0 = if i = C.reg d then r else k.sq.getD i 0)
            ∧ t = { s with cores := t.cores, parts := t.parts, mems := { s.mems with cm := t.mems.cm } }) ∧
        (jumpTaken d r = true → k.count ≤ C.target d → k.seqErr = none →
          ∃ t, exec (.jump g) s = .next t ∧ (t.core g).seqErr = some { cause := 7, kind := tyJump, index := k.pc }
            ∧ (t.core g).state = .faulted)) ∧
      (C.cond d = 6 → k.inHandler = true → k.irqRet < k.count →
        ∃ t, exec (.jump g) s = .next t ∧ (t.core g).pc = k.irqRet ∧ (t.core g).inHandler = false ∧ (t.core g).handlerSrc = none
          ∧ (t.core g).sq = k.sq) ∧
      (C.cond d = 6 → k.inHandler = false → k.seqErr = none →
        ∃ t, exec (.jump g) s = .next t ∧ (t.core g).seqErr = some { cause := 7, kind := tyJump, index := k.pc })) ∧
    (∀ c x, k.ctx = some c → s.ctx k.part c = some x →
      (s.issues g (dType · == tyStepMark) true 0 1 d0 →
        (C.step d = x.step → C.hold d = false →
          ∃ t, exec (.stepMark g) s = .next t ∧ (t.core g).pc = k.pc + 1 ∧ (t.core g).state = k.state
            ∧ ∃ y, t.ctx k.part c = some y ∧ g ∈ y.passed ∧ y.step = x.step ∧ ∀ h ∈ y.passed, h = g ∨ h ∈ x.passed) ∧
        (C.step d = x.step → C.hold d = true →
          ∃ u : State, exec (.stepMark g) s = .next (u.settle g) ∧ (u.core g).pc = k.pc + 1 ∧ (u.core g).state = .held
            ∧ (u.core g).lastStep = some x.step ∧ ∃ y, u.ctx k.part c = some y ∧ g ∈ y.passed) ∧
        (C.step d ≠ x.step → k.seqErr = none →
          ∃ t, exec (.stepMark g) s = .next t ∧ (t.core g).seqErr = some { cause := 6, kind := tyStepMark, index := k.pc })) ∧
      (∀ a t, s.issues g (dType · == tySegBegin) false 0 1 d0 → k.seg = none → s.segAddr k.part (C.segId d) = some a →
        (s.lookups g a 256).devWrite k.part .plain a (segRecord d k.pc (handleOf k.part c x.gen) x.step k.sq) = .ok t →
        ∃ u, exec (.segBegin g) s = .next u ∧ (u.core g).seg = some { id := C.segId d } ∧ (u.core g).pc = k.pc + 1
          ∧ u.mems.hbm = t.mems.hbm ∧ u.mems.lp = t.mems.lp ∧ u.mems.host = t.mems.host) ∧
      (∀ a t v, s.issues g (dType · == tySegEnd) false 0 1 d0 → k.seg.map OpenSeg.id = some (C.segId d) →
        s.segAddr k.part (C.segId d) = some a → (s.lookups g a 256).devWrite k.part .plain (a + 8) (toLE 4 k.pc) = .ok t →
        t.devWrite k.part .plain (a + 0x0E) (toLE 1 2) = .ok v →
        ∃ u, exec (.segEnd g) s = .next u ∧ (u.core g).seg = none ∧ (u.core g).pc = k.pc + 1
          ∧ u.mems.hbm = v.mems.hbm ∧ u.mems.lp = v.mems.lp ∧ u.mems.host = v.mems.host)) ∧
    (∀ c, s.dieOff (dieOf g) = false → k.ctx = some c → (k.state = .issuing ∨ k.state = .waiting) → k.pc < k.count →
      k.fetched k.pc = none → s.fetchAt g k.pc = .ok d0 →
      (∀ i, i < 8 → 8 * lineOf k.pc + i < k.count → ∀ a, s.fetchAt g (8 * lineOf k.pc + i) ≠ .wait a) →
      ∃ t, exec (.descriptorLineArrive g) s = .next t ∧ (t.core g).fetched k.pc = some (.word d0) ∧ (t.core g).missing = false
        ∧ (t.core g).pc = k.pc ∧ t = { s with cores := t.cores, frt := t.frt, dies := t.dies }) ∧
    (s.dieOff (dieOf g) = false → k.seqErr = none →
      s.gate g (fun d => dType d == 0 || decide (14 ≤ dType d)) false 0 1 = .go d0 →
      ∃ t, exec (.reservedTypeDescriptor g) s = .next t ∧ (t.core g).state = .faulted
        ∧ (t.core g).seqErr = some { cause := 1, kind := dType d0, index := k.pc })

/-! ### Updates and versions (08) -/

/-- UPDATE is issued and goes as far as its pages allow; one of a single part of plain arrays that nothing holds reads, computes, writes
and completes in its own step, and one that was stopped goes on at its element. VERSION_CLAIM lets the writers of a core claim their
next pages, and VERSION_ADVANCE has them write what they have claimed; an advanced page's other buffer is the newest, and its claim
ends (R206 to R208, R215). A part of up to 131,072 elements is log 43's, and the points at which other stopped descriptors are issued
again, in order, are log 44's: both are the model's choice. -/
def Obligations.Updates : Prop :=
  ∀ (s : State) (g d0 : Nat), let k := s.core g
    let d := applyOffsets d0 k.sq
    (∀ c, k.resumePoint = none → s.issues g (dType · == tyUpdate) false (k.outstanding tyVec + k.outstanding tyUpdate) 16 d0 →
      k.ctx = some c → s.updFault k.part c d = none →
      let u := s.issue g d (.update {})
      (exec (.update g .none) s = .next (u.updProceed g (u.updFuel g)) ∧ (u.core g).pc = k.pc + 1
        ∧ (u.core g).issued = k.issued ++ [({ serial := k.serial, index := k.pc, desc := d, regs := k.sq, work := .update {} } : Issued)]) ∧
      (∀ h out fr v, let sel := k.sel
        let r : UpdRun := { hyper := h, seed := k.sq.getD (U.seedReg d) 0 }
        k.issued = [] → (∀ t ∈ k.tiles, t.phase = .drained → k.serial ≤ t.serial) → s.ships k.part c = false →
        s.devRead k.part .plain sel (U.hyper d) 64 = .ok h → hypOk d h = true → U.clip d = false → 0 < U.count d → U.count d ≤ 131072 →
        s.updVersioned k.part d 0 = false → (∀ x ∈ updPages d 0, eDrain (s.entry x) = false) →
        s.updCompute k.part d 0 r (s.devRead k.part .plain sel (U.grad d) (updPart d 0 * fmtBytes (U.gradFmt d)))
          (if U.mask d = 0 then .ok [] else s.devRead k.part .plain sel (U.mask d) (maskBytes (updPart d 0))) = .ok (out, fr) →
        s.updWrite k.part d 0 out = .ok v →
        ∃ t, exec (.update g .none) s = .next t ∧ (t.core g).issued = [] ∧ (t.core g).pc = k.pc + 1
          ∧ (t.core g).updPasses = wrapAdd 24 k.updPasses 1 ∧ (t.core g).updElements = wrapAdd 40 k.updElements (U.count d)
          ∧ (t.core g).frozen = wrapAdd 64 k.frozen fr ∧ t.mems.hbm = v.mems.hbm ∧ t.mems.lp = v.mems.lp
          ∧ t.mems.host = v.mems.host ∧ t.mems.sp = s.mems.sp ∧ t.frt = v.frt)) ∧
    (∀ i e, k.resumePoint = some (i, e) → k.resumes = [] → s.dieOff (dieOf g) = false → k.ctx.isSome = true → k.state = .issuing →
      k.stopReq = false → s.descriptor g i = .ok d0 → dType d0 = tyUpdate →
      ∃ u : State, exec (.update g .none) s = .next (u.updProceed g (u.updFuel g)) ∧ (u.core g).resumePoint = none ∧ (u.core g).pc = k.pc
        ∧ (u.core g).issued = k.issued ++ [({ serial := k.serial, index := i, desc := d, regs := k.sq, work := .update { k := e } } : Issued)]) ∧
    (∀ i e j n r rest, k.resumePoint = some (i, e) → k.resumes = (j, n) :: rest → j.work = .update r → s.dieOff (dieOf g) = false →
      k.ctx.isSome = true → k.state = .issuing → k.stopReq = false →
      ∃ u : State, exec (.update g .none) s = .next (u.updProceed g (u.updFuel g)) ∧ (u.core g).resumes = rest ∧ (u.core g).pc = k.pc
        ∧ (u.core g).issued = k.issued ++ [{ j with serial := k.serial, work := .update { r with k := e } }]) ∧
    (s.dieOff (dieOf g) = false → k.issued = [] →
      exec (.versionClaim g) s = .next (s.takeHeld g s.crs.heldColl.length) ∧ exec (.versionAdvance g) s = .next s) ∧
    (∀ c i u, s.dieOff (dieOf g) = false → k.colls = [] → k.ctx = some c → k.runningUpdate = some (i, u) → u.hyper ≠ [] →
      u.k < U.count i.desc →
      let w : Writer := { core := g, ctx := c, index := i.index }
      let xs := updPages i.desc u.k
      let p := s.preparePages k.part w u.waiting xs
      let kept := p.1.setWork g i.serial (.update { u with waiting := p.2 })
      (k.stopReq = false → s.crs.heldColl = [] → (p.2 ≠ [] ∨ s.updVersioned k.part i.desc u.k = true) →
        exec (.versionClaim g) s = .next kept) ∧
      (∀ x o, k.stopReq = false → s.crs.heldColl = [] → xs = [x] → s.inWindow k.part (x * pageBytes) = true →
        s.claimTest k.part w x = .free o →
        ∃ t, exec (.versionClaim g) s = .next t ∧ t.frt.claims = (o, some w) :: s.frt.claims.filter (fun e => e.1 != o)
          ∧ t = { s with cores := t.cores, frt := { s.frt with claims := t.frt.claims } }) ∧
      (p.2 ≠ [] → exec (.versionAdvance g) s = .next kept ∧ kept.mems = s.mems ∧ kept.frt.entry = s.frt.entry) ∧
      (∀ out fr v, let sel := { k with sq := i.regs }.sel
        let m := updPart i.desc u.k
        let wg := fmtBytes (U.gradFmt i.desc)
        p.2 = [] → k.issued = [i] → k.stopReq = false → k.pc < k.count → s.ships k.part c = false → u.k + m = U.count i.desc →
        p.1.updCompute k.part i.desc u.k { u with waiting := [] } (p.1.devRead k.part .plain sel (U.grad i.desc + u.k * wg) (m * wg))
          (if U.mask i.desc = 0 then .ok [] else p.1.devRead k.part .plain sel (U.mask i.desc + u.k / 8) (maskBytes m)) = .ok (out, fr) →
        p.1.updWrite k.part i.desc u.k out = .ok v →
        ∃ t, exec (.versionAdvance g) s = .next t ∧ (t.core g).issued = [] ∧ t.mems.hbm = v.mems.hbm ∧ t.mems.lp = v.mems.lp
          ∧ t.mems.host = v.mems.host ∧ t.mems.sp = s.mems.sp ∧ t.frt = v.frt)) ∧
    (∀ n x, s.inWindow n (x * pageBytes) = true → let v := s.versions n x
      let t := s.advancePage n x
      eVersion (t.entry v.2.1) = (v.2.2.1 + 1) % 16 ∧ (∀ e ∈ t.frt.claims, e.1 ≠ v.2.1) ∧ (∀ y, y ≠ v.2.1 → t.entry y = s.entry y)
        ∧ t.mems = s.mems) ∧
    (∀ n w x o, s.inWindow n (x * pageBytes) = true → s.claimTest n w x = .free o →
      (s.preparePage n w x).2 = none
        ∧ (s.preparePage n w x).1.frt.claims = (o, some w) :: s.frt.claims.filter (fun e => e.1 != o))

/-! ### Collectives on a core (10) -/

/-- The five COLL rows issue the COLL of their op; one over the dies of the package takes the group's next sequence number, and so does an
all-to-all over a group of nodes. An all-to-all of a group of one places the rows of each bin at dst + e × cap × row_bytes, drops and
counts those beyond cap, adds to the counters, and is done; and a COLL whose part has been delivered, and sent in full, completes
and is counted (R94, R262, R263, R268, R270). -/
def Obligations.Collectives : Prop :=
  ∀ (s : State) (g : Nat), s.dieOff (dieOf g) = false → let k := s.core g
    (∀ row ∈ ([(0, .allReduce g), (1, .reduceScatter g), (2, .allGather g), (3, .allToAll g), (4, .normGather g)] : List (Nat × Instr)),
      k.resumePoint = none →
      exec row.2 s = .next (s.issueColl g row.1) ∧
      (∀ d0 c, let d := applyOffsets d0 k.sq
        s.issues g (fun d => dType d == tyColl && (L.op d == row.1 || (row.1 == 0 && decide (5 ≤ L.op d)))) false (k.outstanding tyColl) 8 d0 →
        k.ctx = some c → collCodeOk d = true → L.axis d = 5 → L.op d ≠ 3 → (k.cseq.length < 480 ∨ (k.cseq.find (2 ^ 16)).isSome = true) →
        (∀ f r, s.groupOf g k.part d [] f = .inl r → s.collFault g k.part d r = none) →
        (∃ t, exec row.2 s = .next t ∧ (t.core g).pc = k.pc + 1
          ∧ Tab.get 0 (t.core g).cseq (2 ^ 16) = (Tab.get 0 k.cseq (2 ^ 16) + 1) % 2 ^ 32))) ∧
    (∀ d0 c rec_ r, let d := applyOffsets d0 k.sq
      s.issues g (fun d => dType d == tyColl && L.op d == 3) false (k.outstanding tyColl) 8 d0 → k.ctx = some c → collCodeOk d = true →
      L.axis d ≠ 5 → L.op d = 3 → L.group d < (s.part k.part).groups →
      (k.cseq.length < 480 ∨ (k.cseq.find (L.group d)).isSome = true) →
      s.devRead k.part .plain .newest ((s.part k.part).groupBase + 0x1000 * L.group d) 0x840 = .ok rec_ →
      s.groupOf g k.part d rec_ 0 = .inl r → s.collFault g k.part d r = none →
      (∃ t, exec (.allToAll g) s = .next t ∧ (t.core g).pc = k.pc + 1
        ∧ Tab.get 0 (t.core g).cseq (L.group d) = (Tab.get 0 k.cseq (L.group d) + 1) % 2 ^ 32) ∧
      (∀ table rows w, let head := alignUp (4 * r.bins) 64
        let cnt := fun e => leAt table (4 * e) 4
        let placed := fun e => (rows.drop (r.rowBytes * ((List.range e).map cnt).sum)).take (r.rowBytes * min r.cap (cnt e))
        r.members.length = 1 → (∀ i ∈ k.issued, i.serial ≠ k.serial) → k.colls = [] → s.crs.heldColl = [] →
        (∀ a, s.devRead k.part .plain k.sel (L.src d) (head + L.count d * r.rowBytes) ≠ .wait a) →
        s.devRead k.part .plain k.sel (L.src d) head = .ok table →
        s.devRead k.part .plain k.sel (L.src d + head) (((List.range r.bins).map cnt).sum * r.rowBytes) = .ok rows →
        (List.range r.bins).foldl (fun (a : Acc State) e => match a with
          | .ok t => if (placed e).isEmpty then .ok t else t.devWrite k.part .plain (L.dst d + e * r.cap * r.rowBytes) (placed e)
          | a => a) (.ok s) = .ok w →
        ∃ t i q, exec (.allToAll g) s = .next t ∧ (t.core g).coll k.serial = some (i, q) ∧ i.desc = d ∧ q.done = true
          ∧ t.mems = (if L.cntCtr d = 0xFFFF then w else (List.range r.bins).foldl (fun (t : State) e =>
              t.addCounter (ownDie g (L.cntCtr d + e)) (BitVec.ofNat 64 ((placed e).length / max 1 r.rowBytes))) w).mems
          ∧ (0 < r.rowBytes → (t.die (dieOf g)).a2aOverflow
              = satAdd 16 (s.die (dieOf g)).a2aOverflow ((List.range r.bins).map fun e => cnt e - r.cap).sum))) ∧
    (∀ i r serial, let u := (s.collStart g serial).collSteps g
      (u.core g).coll serial = some (i, r) →
      (r.done = true → u.sentInFull g r = true →
        (∀ e ∈ collRanges i.desc r.members.length r.rank (r.bins * r.cap * r.rowBytes), u.heldIn e.1 e.2 = false) →
        exec (.collComplete g serial) s = .next ((u.modDie (dieOf g) fun d => { d with collCompleted := wrapAdd 32 d.collCompleted 1 }).complete g serial)) ∧
      (r.op ≠ 3 → (r.done = false ∨ u.sentInFull g r = false) → exec (.collComplete g serial) s = .next u)) ∧
    (∀ serial, k.issued = [] → exec (.collComplete g serial) s = .next s)

/-! ### The Scroll (07) -/

/-- SCROLL_PUT and SCROLL_GET are issued and tried; a put that keeps or drops writes a record of state 4 or 3, one while the Scroll is
disabled waits; a get of a kept piece completes, of a dropped one waits for its replay, of an empty or faulted record is a fault; a
directive that waits is tried again; and a replay delivers its piece, or is a fault (R167 to R170, R189 to R193, R196). -/
def Obligations.ScrollDirectives : Prop :=
  ∀ (s : State) (g d0 : Nat), let k := s.core g
    let d := applyOffsets d0 k.sq
    let a := Scl.dev d
    let i : Issued := { serial := k.serial, index := k.pc, desc := d, regs := k.sq, work := .scroll .held }
    ((∀ j ∈ k.issued, j.serial ≠ k.serial) → scrollFormats d = true → Scl.length d ≠ 0 → Scl.length d ≤ 4096 →
      (s.recordIndex k.part a).isSome = true → Scl.sp d + Scl.length d ≤ 0x10000 → s.meetsProgram k.part a 64 = false →
      let u := (s.issue g d (.scroll .held)).lookups g a 64
      (s.issues g (fun d => dType d == tyScroll && !Scl.get d) false (s.scrollLoad g) 8 d0 → Scl.get d = false →
        exec (.scrollPut g .none) s = .next ((u.tryPut g i).settleRefs (clusterOf g)) ∧
        (∀ c x old, k.ctx = some c → s.ctx k.part c = some x → u.readPiece k.part a = .ok old → (s.scrPart k.part).live a = false →
          u.recordCheck k.part a = .ok () → u.chainAway a = false →
          let r := putRecord i old x.step.toNat
          (s.scr.enable = false → exec (.scrollPut g .none) s
            = .next (((u.dropRefs a).putWaits_ k.part a g k.serial r .recorded).settleRefs (clusterOf g))) ∧
          (s.scr.enable = true → Scl.disp d = 0 → exec (.scrollPut g .none) s
            = .next (((u.dropRefs a).putDone k.part c g a k.serial { r with state := 4 }).settleRefs (clusterOf g))) ∧
          (s.scr.enable = true → Scl.disp d = 3 → exec (.scrollPut g .none) s
            = .next (((u.dropRefs a).putDone k.part c g a k.serial { r with state := 3 }).settleRefs (clusterOf g))))) ∧
      (s.issues g (fun d => dType d == tyScroll && Scl.get d) false (s.scrollLoad g) 8 d0 → Scl.get d = true →
        exec (.scrollGet g .none) s = .next ((u.tryGet g i).settleRefs (clusterOf g)) ∧
        (∀ r, s.scr.enable = true → u.chainAway a = false → u.readPiece k.part a = .ok r →
          (r.state = 1 → exec (.scrollGet g .none) s = .next ((u.setWork g k.serial (.scroll .putOf)).settleRefs (clusterOf g))) ∧
          (r.state = 4 → exec (.scrollGet g .none) s = .next (((u.usePiece k.part a).complete g k.serial).settleRefs (clusterOf g))) ∧
          (r.state = 3 → exec (.scrollGet g .none) s = .next ((u.askReplay k.part g i).settleRefs (clusterOf g))) ∧
          (r.state = 0 ∨ r.state = 5 → exec (.scrollGet g .none) s
            = .next ((u.scrollFault g k.serial k.pc 2 a).settleRefs (clusterOf g)))))) ∧
    (∀ j x ph, s.dieOff (dieOf g) = false → k.issued.find? (·.serial == j) = some x → x.work = .scroll ph → ph ≠ .replay →
      exec (.scrollPutContinue g j) s
        = .next (((if Scl.get x.desc then s.tryGet g x else s.tryPut g x).settleRefs (clusterOf g)).settleBridges)) ∧
    (∀ n r x c j, s.dieOff (dieOf g) = false →
      (s.scr.parts.findSome? fun e => (e.2.replays.find? (·.helper == some g)).map fun r => (e.1, r)) = some (n, r) →
      (s.core r.requester).issued.find? (fun i => i.serial == r.serial && i.work == .scroll .replay) = some j →
      (s.core r.requester).ctx = some c → s.ctx n c = some x → k.tiles = [] → k.updating = false → k.gatherOpen = [] → k.gatherWait = [] →
      s.unitsAway n c g x.replayBase x.replayUnits = false →
      let u := s.modCore g fun k => { k with part := n, issued := [] }
      (∀ t f, u.replay n g r.requester r.record x = .fail t f → exec (.replayEntry ⟨g, .none⟩) s
        = .next (((t.leaveHelper g k).replayFails n r j.index false f).settle g)) ∧
      (u.replay n g r.requester r.record x = .wait → exec (.replayEntry ⟨g, .none⟩) s = .next s) ∧
      (∀ t v, u.replay n g r.requester r.record x = .deliver t v → 64 * Scl.sp j.desc + v.length ≤ 2 ^ 22 →
        ∃ w : State, exec (.replayEntry ⟨g, .none⟩) s = .next ((w.complete r.requester r.serial).settle g)
          ∧ w.mems.sp = (t.spWrite r.requester (64 * Scl.sp j.desc) v).mems.sp
          ∧ (w.core g).part = k.part ∧ (w.core g).slotOpen = k.slotOpen ∧ (w.core g).tiles = []
          ∧ ∀ q ∈ (w.scrPart n).replays, ¬(q.requester = r.requester ∧ q.serial = r.serial)))

/-- The directory's own moves: at level 1 a page of the largest next_use leaves HBM3E, at level 0 one of the smallest comes back, at level 2 a
piece is demoted; a move keeps its source frame in state 01 until it ends in its destination, in state 11 where the copy failed (R183
to R185, R231). A refused read of a record is recorded (R229). The die that a promotion goes to is log 79's, and that a quota of 0 lets
level 2 look at HBM3E is log 73's: both are the model's choice. -/
def Obligations.ScrollPages : Prop :=
  ∀ (s : State) (n : Nat), s.off = false → let q := s.scrPart n
    let top := fun (p : ScrPage) => (s.nextUses n p).foldl max 0
    let low := fun (p : ScrPage) => (s.nextUses n p).foldl min (2 ^ 32)
    (q.level = 1 → q.hbmLow * q.quotaHbm < 256 * (q.hbmPages - s.leaving n true) →
      let ps := q.pages.filter fun p => decide (p.tier < 4) && s.movable p
      (ps = [] → exec (.scrollMigrate n) s = .next s) ∧
      (ps ≠ [] → ∃ p ∈ ps, exec (.scrollMigrate n) s = .next ((s.notePieces n (ps.flatMap (·.pieces))).beginMove n p.page s.secondTier)
        ∧ ∀ y ∈ ps, top y ≤ top p)) ∧
    (q.level ≠ 1 → exec (.scrollMigrate n) s = .next s) ∧
    (s.scr.promote = true → q.level = 0 → 256 * (q.hbmPages + s.leaving n false) < q.hbmLow * q.quotaHbm →
      let ps := q.pages.filter fun p => decide (4 ≤ p.tier) && s.movable p
      ps ≠ [] → ∃ p ∈ ps, exec (.scrollPromote n) s = .next ((s.notePieces n (ps.flatMap (·.pieces))).beginMove n p.page (if s.tierFree (p.cluster / 8) = 0 then s.freestDie else p.cluster / 8))
        ∧ ∀ y ∈ ps, low p ≤ low y) ∧
    (s.scr.promote = false → exec (.scrollPromote n) s = .next s) ∧
    (∀ a r, q.level = 2 → (q.quotaSec = 0 → q.hbmLow * q.quotaHbm < 256 * q.hbmPages) →
      (q.quotaSec ≠ 0 → q.secLow * q.quotaSec < 256 * q.secPages) → s.nextDemotion n = some (a, r) →
      exec (.scrollDemote n) s = .next ((s.notePieces n (q.pieces.map (·.1))).demote n a r)) ∧
    (∀ x tier f t, s.quotaRoom n tier = true → s.scrFrame n tier = some (f, t) →
      let u := s.beginMove n x tier
      eState (u.entry x) = 1 ∧ eFrame (u.entry x) = eFrame (t.entry x)
        ∧ u.frt.moves = t.frt.moves ++ [({ page := x, tier := tier, frame := f } : PageMove)] ∧ u.mems = s.mems) ∧
    (∀ (x : Nat) (m : PageMove), s.frt.moves.find? (·.page == x) = some m → eValid (s.entry x) = true → m.tier ≤ 5 → eTier (s.entry x) ≤ 5 →
      s.frt.late = [] → s.pagePoisoned x = false → s.frt.silent = false ∨ (eTier (s.entry x) ≠ 5 ∧ m.tier ≠ 5) → (m.tier ≤ 4 → (s.pool (poolOf m.tier m.frame)).live = true) →
      (∀ y, ∀ p ∈ (s.scrPart y).pages, p.page = x → p.pieces = []) → s.memsWf →
      (eState (s.entry x) ≠ 3 →
        (∃ t, exec (.pageMoveComplete x .done) s = .next t ∧ eState (t.entry x) = 0 ∧ eTier (t.entry x) = m.tier
          ∧ eFrame (t.entry x) = m.frame % 2 ^ 36 ∧ ePart (t.entry x) = ePart (s.entry x)
          ∧ t.mems.readLoc (locate m.tier m.frame 0) pageBytes = s.mems.readLoc (locate (eTier (s.entry x)) (eFrame (s.entry x)) 0) pageBytes
          ∧ ∀ y ∈ t.frt.moves, y.page ≠ x) ∧
        (∃ t, exec (.pageMoveComplete x .sourceFailed) s = .next t ∧ eState (t.entry x) = 3 ∧ eTier (t.entry x) = eTier (s.entry x)
          ∧ t.mems = s.mems ∧ t.frt.poisonPages = wrapAdd 32 s.frt.poisonPages 1) ∧
        (∃ t, exec (.pageMoveComplete x .destinationFailed) s = .next t ∧ eState (t.entry x) = 3 ∧ eTier (t.entry x) = m.tier
          ∧ t.mems = s.mems ∧ t.frt.poisonPages = wrapAdd 32 s.frt.poisonPages 1)))
end

