-- ==== Sys2Proof/Laws/Mem.lean ====
section
/-! SUPPORT. Laws of the byte memories: every operation keeps the canonical form, a byte reads as it was written, and every
other byte reads as before. -/

namespace Sys2Proof.Machine.Mem

/-- Every cell of a canonical memory lies at or above its lower bound. -/
theorem wfFrom_mono {lo lo' : Nat} {m : Mem} (h : wfFrom lo m = true) (hl : lo' ≤ lo) : wfFrom lo' m = true := by
  cases m with
  | nil => rfl
  | cons e t =>
    obtain ⟨i, v⟩ := e
    simp only [wfFrom, Bool.and_eq_true, decide_eq_true_eq] at h ⊢
    exact ⟨⟨by omega, h.1.2⟩, h.2⟩

/-- Two canonical memories, the first below a bound and the second at or above it, join into one. -/
theorem wfFrom_append {lo b : Nat} {m n : Mem} (hm : wfFrom lo m = true) (hb : ∀ e ∈ m, e.1 < b) (hlo : lo ≤ b)
    (hn : wfFrom b n = true) : wfFrom lo (m ++ n) = true := by
  induction m generalizing lo with
  | nil => exact wfFrom_mono hn hlo
  | cons e t ih =>
    obtain ⟨i, v⟩ := e
    simp only [wfFrom, Bool.and_eq_true, decide_eq_true_eq, List.cons_append] at hm ⊢
    have : i < b := hb (i, v) (by simp)
    exact ⟨hm.1, ih hm.2 (fun e he => hb e (by simp [he])) (by omega)⟩

theorem wfFrom_below {lo : Nat} {m : Mem} (a : Nat) (h : wfFrom lo m = true) : wfFrom lo (below a m) = true := by
  induction m generalizing lo with
  | nil => rfl
  | cons e t ih =>
    obtain ⟨i, v⟩ := e
    simp only [wfFrom, Bool.and_eq_true, decide_eq_true_eq] at h
    simp only [below]
    split
    · simp only [wfFrom, Bool.and_eq_true, decide_eq_true_eq]; exact ⟨h.1, ih h.2⟩
    · rfl

theorem below_lt (a : Nat) (m : Mem) : ∀ e ∈ below a m, e.1 < a := by
  induction m with
  | nil => simp [below]
  | cons e t ih =>
    obtain ⟨i, v⟩ := e
    simp only [below]
    split
    · intro e he
      rcases List.mem_cons.1 he with rfl | he
      · assumption
      · exact ih e he
    · simp

theorem wfFrom_from {lo : Nat} {m : Mem} (a : Nat) (h : wfFrom lo m = true) : wfFrom a (from_ a m) = true := by
  induction m generalizing lo with
  | nil => rfl
  | cons e t ih =>
    obtain ⟨i, v⟩ := e
    simp only [wfFrom, Bool.and_eq_true, decide_eq_true_eq] at h
    simp only [from_]
    split
    · exact ih h.2
    · simp only [wfFrom, Bool.and_eq_true, decide_eq_true_eq]; exact ⟨⟨by omega, h.1.2⟩, h.2⟩

theorem wfFrom_cells (a : Nat) (bs : List Byte) : wfFrom a (cells a bs) = true := by
  induction bs generalizing a with
  | nil => rfl
  | cons b bs ih =>
    simp only [cells]
    split
    · exact wfFrom_mono (ih (a + 1)) (by omega)
    · rename_i h
      simp [wfFrom, ih, h]

theorem cells_lt (a : Nat) (bs : List Byte) : ∀ e ∈ cells a bs, e.1 < a + bs.length := by
  induction bs generalizing a with
  | nil => simp [cells]
  | cons b bs ih =>
    simp only [cells]
    split
    · intro e he; have := ih (a + 1) e he; simp only [List.length_cons]; omega
    · intro e he
      rcases List.mem_cons.1 he with rfl | he
      · simp only [List.length_cons]; omega
      · have := ih (a + 1) e he; simp only [List.length_cons]; omega

/-- A write keeps the canonical form. -/
theorem wf_write {m : Mem} (a : Nat) (bs : List Byte) (h : m.wf = true) : (m.write a bs).wf = true := by
  unfold wf write at *
  rw [List.append_assoc]
  refine wfFrom_append (wfFrom_below a h) (below_lt a m) (Nat.zero_le _) ?_
  exact wfFrom_append (wfFrom_cells a bs) (cells_lt a bs) (by omega) (wfFrom_from _ h)

/-- Clearing a range keeps the canonical form. -/
theorem wf_clear {m : Mem} (a n : Nat) (h : m.wf = true) : (m.clear a n).wf = true := by
  unfold wf clear at *
  exact wfFrom_append (wfFrom_below a h) (below_lt a m) (Nat.zero_le _) (wfFrom_mono (wfFrom_from (a + n) h) (by omega))

/-- Writing a number keeps the canonical form. -/
theorem wf_setNum {m : Mem} (a n v : Nat) (h : m.wf = true) : (m.setNum a n v).wf = true := wf_write a _ h

theorem wf_nil : wf [] = true := rfl

theorem byte_append (m n : Mem) (a : Nat) (h : ∀ e ∈ m, e.1 ≠ a) : byte (m ++ n) a = byte n a := by
  induction m with
  | nil => rfl
  | cons e t ih =>
    obtain ⟨i, v⟩ := e
    have h1 : i ≠ a := h (i, v) (by simp)
    simp only [List.cons_append, byte, h1, if_false]
    exact ih fun e he => h e (by simp [he])

theorem byte_append_left (m n : Mem) (a : Nat) (h : ∀ e ∈ n, e.1 ≠ a) : byte (m ++ n) a = byte m a := by
  induction m with
  | nil =>
    have := byte_append n [] a h
    simpa [byte] using this
  | cons e t ih =>
    obtain ⟨i, v⟩ := e
    simp only [List.cons_append, byte]
    split
    · rfl
    · exact ih

theorem byte_below {lo : Nat} {m : Mem} {a b : Nat} (h : wfFrom lo m = true) (hb : b < a) : byte (below a m) b = byte m b := by
  induction m generalizing lo with
  | nil => rfl
  | cons e t ih =>
    obtain ⟨i, v⟩ := e
    simp only [wfFrom, Bool.and_eq_true, decide_eq_true_eq] at h
    simp only [below]
    split
    · simp only [byte]; split
      · rfl
      · exact ih h.2
    · rename_i hi
      have hle : ∀ {l : Nat} {t : Mem}, wfFrom l t = true → b < l → byte t b = blank := by
        intro l t
        induction t generalizing l with
        | nil => intros; rfl
        | cons e t iht =>
          obtain ⟨j, w⟩ := e
          intro hw hl
          simp only [wfFrom, Bool.and_eq_true, decide_eq_true_eq] at hw
          have : j ≠ b := by omega
          simp only [byte, this, if_false]
          exact iht hw.2 (by omega)
      have : i ≠ b := by omega
      simp only [byte, this, if_false]
      exact (hle h.2 (by omega)).symm

theorem byte_from {m : Mem} {a b : Nat} (hb : a ≤ b) : byte (from_ a m) b = byte m b := by
  induction m with
  | nil => rfl
  | cons e t ih =>
    obtain ⟨i, v⟩ := e
    simp only [from_]
    split
    · have : i ≠ b := by omega
      simp only [byte, this, if_false]; exact ih
    · rfl

theorem from_ge {lo : Nat} {m : Mem} (a : Nat) (h : wfFrom lo m = true) : ∀ e ∈ from_ a m, a ≤ e.1 := by
  have key : ∀ {l : Nat} {t : Mem}, wfFrom l t = true → ∀ e ∈ t, l ≤ e.1 := by
    intro l t
    induction t generalizing l with
    | nil => simp
    | cons e t ih =>
      obtain ⟨i, v⟩ := e
      intro hw e he
      simp only [wfFrom, Bool.and_eq_true, decide_eq_true_eq] at hw
      rcases List.mem_cons.1 he with rfl | he
      · exact hw.1.1
      · have := ih hw.2 e he; omega
  exact key (wfFrom_from a h)

theorem cells_ge (a : Nat) (bs : List Byte) : ∀ e ∈ cells a bs, a ≤ e.1 := by
  induction bs generalizing a with
  | nil => simp [cells]
  | cons b bs ih =>
    simp only [cells]
    split
    · intro e he; have := ih (a + 1) e he; omega
    · intro e he
      rcases List.mem_cons.1 he with rfl | he
      · exact Nat.le_refl _
      · have := ih (a + 1) e he; omega

theorem byte_cells (a : Nat) (bs : List Byte) (i : Nat) : byte (cells a bs) (a + i) = bs.getD i blank := by
  induction bs generalizing a i with
  | nil => simp [cells, byte]
  | cons b bs ih =>
    have hlow : ∀ n, byte (cells (a + 1) bs) n = blank ∨ a + 1 ≤ n := by
      intro n
      by_cases hn : a + 1 ≤ n
      · exact .inr hn
      · left
        have := byte_append (cells (a + 1) bs) [] n (fun e he => by have := cells_ge (a + 1) bs e he; omega)
        simpa [byte] using this
    simp only [cells]
    cases i with
    | zero =>
      split
      · rename_i h
        rcases hlow a with h0 | h0
        · simpa [h] using h0
        · omega
      · simp [byte]
    | succ i =>
      have e : a + (i + 1) = a + 1 + i := by omega
      split
      · rw [e, ih]; simp
      · have : a ≠ a + (i + 1) := by omega
        simp only [byte, this, if_false]
        rw [e, ih]; simp

/-- A byte outside a write reads as before. -/
theorem byte_write_out {m : Mem} (a : Nat) (bs : List Byte) {b : Nat} (h : m.wf = true) (hb : b < a ∨ a + bs.length ≤ b) :
    (m.write a bs).byte b = m.byte b := by
  unfold write
  rcases hb with hb | hb
  · rw [List.append_assoc, byte_append_left, byte_below h hb]
    intro e he
    rcases List.mem_append.1 he with he | he
    · have := cells_ge a bs e he; omega
    · have := from_ge (a + bs.length) h e he; omega
  · rw [byte_append, byte_from hb]
    intro e he
    rcases List.mem_append.1 he with he | he
    · have := below_lt a m e he; omega
    · have := cells_lt a bs e he; omega

/-- A written byte reads as it was written. -/
theorem byte_write_in {m : Mem} (a : Nat) (bs : List Byte) {i : Nat} (h : m.wf = true) (hi : i < bs.length) :
    (m.write a bs).byte (a + i) = bs.getD i blank := by
  unfold write
  rw [byte_append_left, byte_append, byte_cells]
  · intro e he; have := below_lt a m e he; omega
  · intro e he; have := from_ge (a + bs.length) h e he; omega

end Sys2Proof.Machine.Mem
end

