-- ==== Sys2Proof/Laws/Tab.lean ====
section
/-! SUPPORT. Laws of the sparse tables: what a key reads after an entry is set, erased or changed. -/

namespace Sys2Proof.Machine

variable {α : Type}

theorem Tab.get_insert_same (d v : α) (t : Tab α) (k : Nat) : Tab.get d (Tab.insert k v t) k = v := by
  induction t with
  | nil => simp [Tab.insert, Tab.get]
  | cons e t ih =>
    obtain ⟨i, w⟩ := e
    simp only [Tab.insert]
    split
    · rename_i h
      simp [Tab.get, Nat.ne_of_lt h, ih]
    · split <;> simp [Tab.get]

theorem Tab.get_insert_ne (d v : α) (t : Tab α) {k j : Nat} (h : j ≠ k) :
    Tab.get d (Tab.insert k v t) j = Tab.get d t j := by
  induction t with
  | nil => simp [Tab.insert, Tab.get, Ne.symm h]
  | cons e t ih =>
    obtain ⟨i, w⟩ := e
    simp only [Tab.insert]
    split
    · simp [Tab.get, ih]
    · split
      · rename_i hk; subst hk; simp [Tab.get, Ne.symm h]
      · simp [Tab.get, Ne.symm h]

theorem Tab.get_erase_same (d : α) (t : Tab α) (k : Nat) : Tab.get d (Tab.erase t k) k = d := by
  induction t with
  | nil => rfl
  | cons e t ih =>
    obtain ⟨i, w⟩ := e
    unfold Tab.erase at ih ⊢
    by_cases hi : i = k
    · simp [hi, ih]
    · simp [hi, Tab.get, ih]

theorem Tab.get_erase_ne (d : α) (t : Tab α) {k j : Nat} (h : j ≠ k) :
    Tab.get d (Tab.erase t k) j = Tab.get d t j := by
  induction t with
  | nil => rfl
  | cons e t ih =>
    obtain ⟨i, w⟩ := e
    unfold Tab.erase at ih ⊢
    by_cases hi : i = k
    · subst hi; simp [Tab.get, Ne.symm h, ih]
    · simp [hi, Tab.get, ih]

variable [DecidableEq α]

@[simp] theorem Tab.get_set_same (d v : α) (t : Tab α) (k : Nat) : Tab.get d (Tab.set d t k v) k = v := by
  unfold Tab.set
  split
  · rename_i h; rw [h, Tab.get_erase_same]
  · exact Tab.get_insert_same d v t k

theorem Tab.get_set_ne (d v : α) (t : Tab α) {k j : Nat} (h : j ≠ k) :
    Tab.get d (Tab.set d t k v) j = Tab.get d t j := by
  unfold Tab.set
  split
  · exact Tab.get_erase_ne d t h
  · exact Tab.get_insert_ne d v t h

@[simp] theorem Tab.get_update_same (d : α) (t : Tab α) (k : Nat) (f : α → α) :
    Tab.get d (Tab.update d t k f) k = f (Tab.get d t k) := by simp [Tab.update]

theorem Tab.get_update_ne (d : α) (t : Tab α) (f : α → α) {k j : Nat} (h : j ≠ k) :
    Tab.get d (Tab.update d t k f) j = Tab.get d t j := by simp [Tab.update, Tab.get_set_ne _ _ _ h]

omit [DecidableEq α] in
theorem Tab.find_insert_same (v : α) (t : Tab α) (k : Nat) : Tab.find (Tab.insert k v t) k = some v := by
  induction t with
  | nil => simp [Tab.insert, Tab.find]
  | cons e t ih =>
    obtain ⟨i, w⟩ := e
    simp only [Tab.insert]
    split
    · rename_i h
      simp [Tab.find, Nat.ne_of_lt h, ih]
    · split <;> simp [Tab.find]

omit [DecidableEq α] in
theorem Tab.find_insert_ne (v : α) (t : Tab α) {k j : Nat} (h : j ≠ k) :
    Tab.find (Tab.insert k v t) j = Tab.find t j := by
  induction t with
  | nil => simp [Tab.insert, Tab.find, Ne.symm h]
  | cons e t ih =>
    obtain ⟨i, w⟩ := e
    simp only [Tab.insert]
    split
    · simp [Tab.find, ih]
    · split
      · rename_i hk; subst hk; simp [Tab.find, Ne.symm h]
      · simp [Tab.find, Ne.symm h]

end Sys2Proof.Machine
end

