-- ==== Sys2Proof/Laws/State.lean ====
section
/-! SUPPORT. Laws of the updates of the state: each update leaves every other field as it is, and changes one unit of its table. -/

namespace Sys2Proof.Machine

variable (s : State)

/-! ### modCore -/
@[simp] theorem State.modCore_hub (g : Nat) (f : Core → Core) : (s.modCore g f).hub = s.hub := rfl
@[simp] theorem State.modCore_parts (g : Nat) (f : Core → Core) : (s.modCore g f).parts = s.parts := rfl
@[simp] theorem State.modCore_clusters (g : Nat) (f : Core → Core) : (s.modCore g f).clusters = s.clusters := rfl
@[simp] theorem State.modCore_dies (g : Nat) (f : Core → Core) : (s.modCore g f).dies = s.dies := rfl
@[simp] theorem State.modCore_frt (g : Nat) (f : Core → Core) : (s.modCore g f).frt = s.frt := rfl
@[simp] theorem State.modCore_mems (g : Nat) (f : Core → Core) : (s.modCore g f).mems = s.mems := rfl
@[simp] theorem State.modCore_stacks (g : Nat) (f : Core → Core) : (s.modCore g f).hbms = s.hbms := rfl
@[simp] theorem State.modCore_lps (g : Nat) (f : Core → Core) : (s.modCore g f).lps = s.lps := rfl
@[simp] theorem State.modCore_scr (g : Nat) (f : Core → Core) : (s.modCore g f).scr = s.scr := rfl
@[simp] theorem State.modCore_crs (g : Nat) (f : Core → Core) : (s.modCore g f).crs = s.crs := rfl
@[simp] theorem State.modCore_capo (g : Nat) (f : Core → Core) : (s.modCore g f).capo = s.capo := rfl
@[simp] theorem State.modCore_res (g : Nat) (f : Core → Core) : (s.modCore g f).res = s.res := rfl
@[simp] theorem State.modCore_peg (g : Nat) (f : Core → Core) : (s.modCore g f).peg = s.peg := rfl
@[simp] theorem State.modCore_uni (g : Nat) (f : Core → Core) : (s.modCore g f).uni = s.uni := rfl
@[simp] theorem State.modCore_bridges (g : Nat) (f : Core → Core) : (s.modCore g f).bridges = s.bridges := rfl
@[simp] theorem State.modCore_lth (g : Nat) (f : Core → Core) : (s.modCore g f).lth = s.lth := rfl
@[simp] theorem State.modCore_jobs (g : Nat) (f : Core → Core) : (s.modCore g f).jobs = s.jobs := rfl
@[simp] theorem State.modCore_partCode (g : Nat) (f : Core → Core) : (s.modCore g f).partCode = s.partCode := rfl
@[simp] theorem State.modCore_board (g : Nat) (f : Core → Core) : (s.modCore g f).board = s.board := rfl
@[simp] theorem State.modCore_boot (g : Nat) (f : Core → Core) : (s.modCore g f).boot = s.boot := rfl
@[simp] theorem State.modCore_pins (g : Nat) (f : Core → Core) : (s.modCore g f).pins = s.pins := rfl
@[simp] theorem State.modCore_flash (g : Nat) (f : Core → Core) : (s.modCore g f).flash = s.flash := rfl
@[simp] theorem State.modCore_vault (g : Nat) (f : Core → Core) : (s.modCore g f).vault = s.vault := rfl
@[simp] theorem State.modCore_bow (g : Nat) (f : Core → Core) : (s.modCore g f).bow = s.bow := rfl
@[simp] theorem State.modCore_sec (g : Nat) (f : Core → Core) : (s.modCore g f).sec = s.sec := rfl
@[simp] theorem State.modCore_rdata (g : Nat) (f : Core → Core) : (s.modCore g f).rdata = s.rdata := rfl
@[simp] theorem State.modCore_fresh (g : Nat) (f : Core → Core) : (s.modCore g f).fresh = s.fresh := rfl
@[simp] theorem State.modCore_pending (g : Nat) (f : Core → Core) : (s.modCore g f).pending = s.pending := rfl

/-! ### modPart -/
@[simp] theorem State.modPart_hub (n : Nat) (f : Part → Part) : (s.modPart n f).hub = s.hub := rfl
@[simp] theorem State.modPart_cores (n : Nat) (f : Part → Part) : (s.modPart n f).cores = s.cores := rfl
@[simp] theorem State.modPart_clusters (n : Nat) (f : Part → Part) : (s.modPart n f).clusters = s.clusters := rfl
@[simp] theorem State.modPart_dies (n : Nat) (f : Part → Part) : (s.modPart n f).dies = s.dies := rfl
@[simp] theorem State.modPart_frt (n : Nat) (f : Part → Part) : (s.modPart n f).frt = s.frt := rfl
@[simp] theorem State.modPart_mems (n : Nat) (f : Part → Part) : (s.modPart n f).mems = s.mems := rfl
@[simp] theorem State.modPart_stacks (n : Nat) (f : Part → Part) : (s.modPart n f).hbms = s.hbms := rfl
@[simp] theorem State.modPart_lps (n : Nat) (f : Part → Part) : (s.modPart n f).lps = s.lps := rfl
@[simp] theorem State.modPart_scr (n : Nat) (f : Part → Part) : (s.modPart n f).scr = s.scr := rfl
@[simp] theorem State.modPart_crs (n : Nat) (f : Part → Part) : (s.modPart n f).crs = s.crs := rfl
@[simp] theorem State.modPart_capo (n : Nat) (f : Part → Part) : (s.modPart n f).capo = s.capo := rfl
@[simp] theorem State.modPart_res (n : Nat) (f : Part → Part) : (s.modPart n f).res = s.res := rfl
@[simp] theorem State.modPart_peg (n : Nat) (f : Part → Part) : (s.modPart n f).peg = s.peg := rfl
@[simp] theorem State.modPart_uni (n : Nat) (f : Part → Part) : (s.modPart n f).uni = s.uni := rfl
@[simp] theorem State.modPart_bridges (n : Nat) (f : Part → Part) : (s.modPart n f).bridges = s.bridges := rfl
@[simp] theorem State.modPart_lth (n : Nat) (f : Part → Part) : (s.modPart n f).lth = s.lth := rfl
@[simp] theorem State.modPart_jobs (n : Nat) (f : Part → Part) : (s.modPart n f).jobs = s.jobs := rfl
@[simp] theorem State.modPart_partCode (n : Nat) (f : Part → Part) : (s.modPart n f).partCode = s.partCode := rfl
@[simp] theorem State.modPart_board (n : Nat) (f : Part → Part) : (s.modPart n f).board = s.board := rfl
@[simp] theorem State.modPart_boot (n : Nat) (f : Part → Part) : (s.modPart n f).boot = s.boot := rfl
@[simp] theorem State.modPart_pins (n : Nat) (f : Part → Part) : (s.modPart n f).pins = s.pins := rfl
@[simp] theorem State.modPart_flash (n : Nat) (f : Part → Part) : (s.modPart n f).flash = s.flash := rfl
@[simp] theorem State.modPart_vault (n : Nat) (f : Part → Part) : (s.modPart n f).vault = s.vault := rfl
@[simp] theorem State.modPart_bow (n : Nat) (f : Part → Part) : (s.modPart n f).bow = s.bow := rfl
@[simp] theorem State.modPart_sec (n : Nat) (f : Part → Part) : (s.modPart n f).sec = s.sec := rfl
@[simp] theorem State.modPart_rdata (n : Nat) (f : Part → Part) : (s.modPart n f).rdata = s.rdata := rfl
@[simp] theorem State.modPart_fresh (n : Nat) (f : Part → Part) : (s.modPart n f).fresh = s.fresh := rfl
@[simp] theorem State.modPart_pending (n : Nat) (f : Part → Part) : (s.modPart n f).pending = s.pending := rfl

/-! ### modCluster -/
@[simp] theorem State.modCluster_hub (k : Nat) (f : Cluster → Cluster) : (s.modCluster k f).hub = s.hub := rfl
@[simp] theorem State.modCluster_parts (k : Nat) (f : Cluster → Cluster) : (s.modCluster k f).parts = s.parts := rfl
@[simp] theorem State.modCluster_cores (k : Nat) (f : Cluster → Cluster) : (s.modCluster k f).cores = s.cores := rfl
@[simp] theorem State.modCluster_dies (k : Nat) (f : Cluster → Cluster) : (s.modCluster k f).dies = s.dies := rfl
@[simp] theorem State.modCluster_frt (k : Nat) (f : Cluster → Cluster) : (s.modCluster k f).frt = s.frt := rfl
@[simp] theorem State.modCluster_mems (k : Nat) (f : Cluster → Cluster) : (s.modCluster k f).mems = s.mems := rfl
@[simp] theorem State.modCluster_stacks (k : Nat) (f : Cluster → Cluster) : (s.modCluster k f).hbms = s.hbms := rfl
@[simp] theorem State.modCluster_lps (k : Nat) (f : Cluster → Cluster) : (s.modCluster k f).lps = s.lps := rfl
@[simp] theorem State.modCluster_scr (k : Nat) (f : Cluster → Cluster) : (s.modCluster k f).scr = s.scr := rfl
@[simp] theorem State.modCluster_crs (k : Nat) (f : Cluster → Cluster) : (s.modCluster k f).crs = s.crs := rfl
@[simp] theorem State.modCluster_capo (k : Nat) (f : Cluster → Cluster) : (s.modCluster k f).capo = s.capo := rfl
@[simp] theorem State.modCluster_res (k : Nat) (f : Cluster → Cluster) : (s.modCluster k f).res = s.res := rfl
@[simp] theorem State.modCluster_peg (k : Nat) (f : Cluster → Cluster) : (s.modCluster k f).peg = s.peg := rfl
@[simp] theorem State.modCluster_uni (k : Nat) (f : Cluster → Cluster) : (s.modCluster k f).uni = s.uni := rfl
@[simp] theorem State.modCluster_bridges (k : Nat) (f : Cluster → Cluster) : (s.modCluster k f).bridges = s.bridges := rfl
@[simp] theorem State.modCluster_lth (k : Nat) (f : Cluster → Cluster) : (s.modCluster k f).lth = s.lth := rfl
@[simp] theorem State.modCluster_jobs (k : Nat) (f : Cluster → Cluster) : (s.modCluster k f).jobs = s.jobs := rfl
@[simp] theorem State.modCluster_partCode (k : Nat) (f : Cluster → Cluster) : (s.modCluster k f).partCode = s.partCode := rfl
@[simp] theorem State.modCluster_board (k : Nat) (f : Cluster → Cluster) : (s.modCluster k f).board = s.board := rfl
@[simp] theorem State.modCluster_boot (k : Nat) (f : Cluster → Cluster) : (s.modCluster k f).boot = s.boot := rfl
@[simp] theorem State.modCluster_pins (k : Nat) (f : Cluster → Cluster) : (s.modCluster k f).pins = s.pins := rfl
@[simp] theorem State.modCluster_flash (k : Nat) (f : Cluster → Cluster) : (s.modCluster k f).flash = s.flash := rfl
@[simp] theorem State.modCluster_vault (k : Nat) (f : Cluster → Cluster) : (s.modCluster k f).vault = s.vault := rfl
@[simp] theorem State.modCluster_bow (k : Nat) (f : Cluster → Cluster) : (s.modCluster k f).bow = s.bow := rfl
@[simp] theorem State.modCluster_sec (k : Nat) (f : Cluster → Cluster) : (s.modCluster k f).sec = s.sec := rfl
@[simp] theorem State.modCluster_rdata (k : Nat) (f : Cluster → Cluster) : (s.modCluster k f).rdata = s.rdata := rfl
@[simp] theorem State.modCluster_fresh (k : Nat) (f : Cluster → Cluster) : (s.modCluster k f).fresh = s.fresh := rfl
@[simp] theorem State.modCluster_pending (k : Nat) (f : Cluster → Cluster) : (s.modCluster k f).pending = s.pending := rfl

/-! ### modDie -/
@[simp] theorem State.modDie_hub (d : Nat) (f : Die → Die) : (s.modDie d f).hub = s.hub := rfl
@[simp] theorem State.modDie_parts (d : Nat) (f : Die → Die) : (s.modDie d f).parts = s.parts := rfl
@[simp] theorem State.modDie_cores (d : Nat) (f : Die → Die) : (s.modDie d f).cores = s.cores := rfl
@[simp] theorem State.modDie_clusters (d : Nat) (f : Die → Die) : (s.modDie d f).clusters = s.clusters := rfl
@[simp] theorem State.modDie_frt (d : Nat) (f : Die → Die) : (s.modDie d f).frt = s.frt := rfl
@[simp] theorem State.modDie_mems (d : Nat) (f : Die → Die) : (s.modDie d f).mems = s.mems := rfl
@[simp] theorem State.modDie_stacks (d : Nat) (f : Die → Die) : (s.modDie d f).hbms = s.hbms := rfl
@[simp] theorem State.modDie_lps (d : Nat) (f : Die → Die) : (s.modDie d f).lps = s.lps := rfl
@[simp] theorem State.modDie_scr (d : Nat) (f : Die → Die) : (s.modDie d f).scr = s.scr := rfl
@[simp] theorem State.modDie_crs (d : Nat) (f : Die → Die) : (s.modDie d f).crs = s.crs := rfl
@[simp] theorem State.modDie_capo (d : Nat) (f : Die → Die) : (s.modDie d f).capo = s.capo := rfl
@[simp] theorem State.modDie_res (d : Nat) (f : Die → Die) : (s.modDie d f).res = s.res := rfl
@[simp] theorem State.modDie_peg (d : Nat) (f : Die → Die) : (s.modDie d f).peg = s.peg := rfl
@[simp] theorem State.modDie_uni (d : Nat) (f : Die → Die) : (s.modDie d f).uni = s.uni := rfl
@[simp] theorem State.modDie_bridges (d : Nat) (f : Die → Die) : (s.modDie d f).bridges = s.bridges := rfl
@[simp] theorem State.modDie_lth (d : Nat) (f : Die → Die) : (s.modDie d f).lth = s.lth := rfl
@[simp] theorem State.modDie_jobs (d : Nat) (f : Die → Die) : (s.modDie d f).jobs = s.jobs := rfl
@[simp] theorem State.modDie_partCode (d : Nat) (f : Die → Die) : (s.modDie d f).partCode = s.partCode := rfl
@[simp] theorem State.modDie_board (d : Nat) (f : Die → Die) : (s.modDie d f).board = s.board := rfl
@[simp] theorem State.modDie_boot (d : Nat) (f : Die → Die) : (s.modDie d f).boot = s.boot := rfl
@[simp] theorem State.modDie_pins (d : Nat) (f : Die → Die) : (s.modDie d f).pins = s.pins := rfl
@[simp] theorem State.modDie_flash (d : Nat) (f : Die → Die) : (s.modDie d f).flash = s.flash := rfl
@[simp] theorem State.modDie_vault (d : Nat) (f : Die → Die) : (s.modDie d f).vault = s.vault := rfl
@[simp] theorem State.modDie_bow (d : Nat) (f : Die → Die) : (s.modDie d f).bow = s.bow := rfl
@[simp] theorem State.modDie_sec (d : Nat) (f : Die → Die) : (s.modDie d f).sec = s.sec := rfl
@[simp] theorem State.modDie_rdata (d : Nat) (f : Die → Die) : (s.modDie d f).rdata = s.rdata := rfl
@[simp] theorem State.modDie_fresh (d : Nat) (f : Die → Die) : (s.modDie d f).fresh = s.fresh := rfl
@[simp] theorem State.modDie_pending (d : Nat) (f : Die → Die) : (s.modDie d f).pending = s.pending := rfl

/-! ### modFn -/
@[simp] theorem State.modFn_parts (i : Nat) (f : Fn → Fn) : (s.modFn i f).parts = s.parts := rfl
@[simp] theorem State.modFn_cores (i : Nat) (f : Fn → Fn) : (s.modFn i f).cores = s.cores := rfl
@[simp] theorem State.modFn_clusters (i : Nat) (f : Fn → Fn) : (s.modFn i f).clusters = s.clusters := rfl
@[simp] theorem State.modFn_dies (i : Nat) (f : Fn → Fn) : (s.modFn i f).dies = s.dies := rfl
@[simp] theorem State.modFn_frt (i : Nat) (f : Fn → Fn) : (s.modFn i f).frt = s.frt := rfl
@[simp] theorem State.modFn_mems (i : Nat) (f : Fn → Fn) : (s.modFn i f).mems = s.mems := rfl
@[simp] theorem State.modFn_stacks (i : Nat) (f : Fn → Fn) : (s.modFn i f).hbms = s.hbms := rfl
@[simp] theorem State.modFn_lps (i : Nat) (f : Fn → Fn) : (s.modFn i f).lps = s.lps := rfl
@[simp] theorem State.modFn_scr (i : Nat) (f : Fn → Fn) : (s.modFn i f).scr = s.scr := rfl
@[simp] theorem State.modFn_crs (i : Nat) (f : Fn → Fn) : (s.modFn i f).crs = s.crs := rfl
@[simp] theorem State.modFn_capo (i : Nat) (f : Fn → Fn) : (s.modFn i f).capo = s.capo := rfl
@[simp] theorem State.modFn_res (i : Nat) (f : Fn → Fn) : (s.modFn i f).res = s.res := rfl
@[simp] theorem State.modFn_peg (i : Nat) (f : Fn → Fn) : (s.modFn i f).peg = s.peg := rfl
@[simp] theorem State.modFn_uni (i : Nat) (f : Fn → Fn) : (s.modFn i f).uni = s.uni := rfl
@[simp] theorem State.modFn_bridges (i : Nat) (f : Fn → Fn) : (s.modFn i f).bridges = s.bridges := rfl
@[simp] theorem State.modFn_lth (i : Nat) (f : Fn → Fn) : (s.modFn i f).lth = s.lth := rfl
@[simp] theorem State.modFn_jobs (i : Nat) (f : Fn → Fn) : (s.modFn i f).jobs = s.jobs := rfl
@[simp] theorem State.modFn_partCode (i : Nat) (f : Fn → Fn) : (s.modFn i f).partCode = s.partCode := rfl
@[simp] theorem State.modFn_board (i : Nat) (f : Fn → Fn) : (s.modFn i f).board = s.board := rfl
@[simp] theorem State.modFn_boot (i : Nat) (f : Fn → Fn) : (s.modFn i f).boot = s.boot := rfl
@[simp] theorem State.modFn_pins (i : Nat) (f : Fn → Fn) : (s.modFn i f).pins = s.pins := rfl
@[simp] theorem State.modFn_flash (i : Nat) (f : Fn → Fn) : (s.modFn i f).flash = s.flash := rfl
@[simp] theorem State.modFn_vault (i : Nat) (f : Fn → Fn) : (s.modFn i f).vault = s.vault := rfl
@[simp] theorem State.modFn_bow (i : Nat) (f : Fn → Fn) : (s.modFn i f).bow = s.bow := rfl
@[simp] theorem State.modFn_sec (i : Nat) (f : Fn → Fn) : (s.modFn i f).sec = s.sec := rfl
@[simp] theorem State.modFn_rdata (i : Nat) (f : Fn → Fn) : (s.modFn i f).rdata = s.rdata := rfl
@[simp] theorem State.modFn_fresh (i : Nat) (f : Fn → Fn) : (s.modFn i f).fresh = s.fresh := rfl
@[simp] theorem State.modFn_pending (i : Nat) (f : Fn → Fn) : (s.modFn i f).pending = s.pending := rfl

/-! ### modQueue -/
@[simp] theorem State.modQueue_parts (i q : Nat) (f : Queue → Queue) : (s.modQueue i q f).parts = s.parts := rfl
@[simp] theorem State.modQueue_cores (i q : Nat) (f : Queue → Queue) : (s.modQueue i q f).cores = s.cores := rfl
@[simp] theorem State.modQueue_clusters (i q : Nat) (f : Queue → Queue) : (s.modQueue i q f).clusters = s.clusters := rfl
@[simp] theorem State.modQueue_dies (i q : Nat) (f : Queue → Queue) : (s.modQueue i q f).dies = s.dies := rfl
@[simp] theorem State.modQueue_frt (i q : Nat) (f : Queue → Queue) : (s.modQueue i q f).frt = s.frt := rfl
@[simp] theorem State.modQueue_mems (i q : Nat) (f : Queue → Queue) : (s.modQueue i q f).mems = s.mems := rfl
@[simp] theorem State.modQueue_stacks (i q : Nat) (f : Queue → Queue) : (s.modQueue i q f).hbms = s.hbms := rfl
@[simp] theorem State.modQueue_lps (i q : Nat) (f : Queue → Queue) : (s.modQueue i q f).lps = s.lps := rfl
@[simp] theorem State.modQueue_scr (i q : Nat) (f : Queue → Queue) : (s.modQueue i q f).scr = s.scr := rfl
@[simp] theorem State.modQueue_crs (i q : Nat) (f : Queue → Queue) : (s.modQueue i q f).crs = s.crs := rfl
@[simp] theorem State.modQueue_capo (i q : Nat) (f : Queue → Queue) : (s.modQueue i q f).capo = s.capo := rfl
@[simp] theorem State.modQueue_res (i q : Nat) (f : Queue → Queue) : (s.modQueue i q f).res = s.res := rfl
@[simp] theorem State.modQueue_peg (i q : Nat) (f : Queue → Queue) : (s.modQueue i q f).peg = s.peg := rfl
@[simp] theorem State.modQueue_uni (i q : Nat) (f : Queue → Queue) : (s.modQueue i q f).uni = s.uni := rfl
@[simp] theorem State.modQueue_bridges (i q : Nat) (f : Queue → Queue) : (s.modQueue i q f).bridges = s.bridges := rfl
@[simp] theorem State.modQueue_lth (i q : Nat) (f : Queue → Queue) : (s.modQueue i q f).lth = s.lth := rfl
@[simp] theorem State.modQueue_jobs (i q : Nat) (f : Queue → Queue) : (s.modQueue i q f).jobs = s.jobs := rfl
@[simp] theorem State.modQueue_partCode (i q : Nat) (f : Queue → Queue) : (s.modQueue i q f).partCode = s.partCode := rfl
@[simp] theorem State.modQueue_board (i q : Nat) (f : Queue → Queue) : (s.modQueue i q f).board = s.board := rfl
@[simp] theorem State.modQueue_boot (i q : Nat) (f : Queue → Queue) : (s.modQueue i q f).boot = s.boot := rfl
@[simp] theorem State.modQueue_pins (i q : Nat) (f : Queue → Queue) : (s.modQueue i q f).pins = s.pins := rfl
@[simp] theorem State.modQueue_flash (i q : Nat) (f : Queue → Queue) : (s.modQueue i q f).flash = s.flash := rfl
@[simp] theorem State.modQueue_vault (i q : Nat) (f : Queue → Queue) : (s.modQueue i q f).vault = s.vault := rfl
@[simp] theorem State.modQueue_bow (i q : Nat) (f : Queue → Queue) : (s.modQueue i q f).bow = s.bow := rfl
@[simp] theorem State.modQueue_sec (i q : Nat) (f : Queue → Queue) : (s.modQueue i q f).sec = s.sec := rfl
@[simp] theorem State.modQueue_rdata (i q : Nat) (f : Queue → Queue) : (s.modQueue i q f).rdata = s.rdata := rfl
@[simp] theorem State.modQueue_fresh (i q : Nat) (f : Queue → Queue) : (s.modQueue i q f).fresh = s.fresh := rfl
@[simp] theorem State.modQueue_pending (i q : Nat) (f : Queue → Queue) : (s.modQueue i q f).pending = s.pending := rfl

/-! ### modFrt -/
@[simp] theorem State.modFrt_hub (f : Frt → Frt) : (s.modFrt f).hub = s.hub := rfl
@[simp] theorem State.modFrt_parts (f : Frt → Frt) : (s.modFrt f).parts = s.parts := rfl
@[simp] theorem State.modFrt_cores (f : Frt → Frt) : (s.modFrt f).cores = s.cores := rfl
@[simp] theorem State.modFrt_clusters (f : Frt → Frt) : (s.modFrt f).clusters = s.clusters := rfl
@[simp] theorem State.modFrt_dies (f : Frt → Frt) : (s.modFrt f).dies = s.dies := rfl
@[simp] theorem State.modFrt_mems (f : Frt → Frt) : (s.modFrt f).mems = s.mems := rfl
@[simp] theorem State.modFrt_stacks (f : Frt → Frt) : (s.modFrt f).hbms = s.hbms := rfl
@[simp] theorem State.modFrt_lps (f : Frt → Frt) : (s.modFrt f).lps = s.lps := rfl
@[simp] theorem State.modFrt_scr (f : Frt → Frt) : (s.modFrt f).scr = s.scr := rfl
@[simp] theorem State.modFrt_crs (f : Frt → Frt) : (s.modFrt f).crs = s.crs := rfl
@[simp] theorem State.modFrt_capo (f : Frt → Frt) : (s.modFrt f).capo = s.capo := rfl
@[simp] theorem State.modFrt_res (f : Frt → Frt) : (s.modFrt f).res = s.res := rfl
@[simp] theorem State.modFrt_peg (f : Frt → Frt) : (s.modFrt f).peg = s.peg := rfl
@[simp] theorem State.modFrt_uni (f : Frt → Frt) : (s.modFrt f).uni = s.uni := rfl
@[simp] theorem State.modFrt_bridges (f : Frt → Frt) : (s.modFrt f).bridges = s.bridges := rfl
@[simp] theorem State.modFrt_lth (f : Frt → Frt) : (s.modFrt f).lth = s.lth := rfl
@[simp] theorem State.modFrt_jobs (f : Frt → Frt) : (s.modFrt f).jobs = s.jobs := rfl
@[simp] theorem State.modFrt_partCode (f : Frt → Frt) : (s.modFrt f).partCode = s.partCode := rfl
@[simp] theorem State.modFrt_board (f : Frt → Frt) : (s.modFrt f).board = s.board := rfl
@[simp] theorem State.modFrt_boot (f : Frt → Frt) : (s.modFrt f).boot = s.boot := rfl
@[simp] theorem State.modFrt_pins (f : Frt → Frt) : (s.modFrt f).pins = s.pins := rfl
@[simp] theorem State.modFrt_flash (f : Frt → Frt) : (s.modFrt f).flash = s.flash := rfl
@[simp] theorem State.modFrt_vault (f : Frt → Frt) : (s.modFrt f).vault = s.vault := rfl
@[simp] theorem State.modFrt_bow (f : Frt → Frt) : (s.modFrt f).bow = s.bow := rfl
@[simp] theorem State.modFrt_sec (f : Frt → Frt) : (s.modFrt f).sec = s.sec := rfl
@[simp] theorem State.modFrt_rdata (f : Frt → Frt) : (s.modFrt f).rdata = s.rdata := rfl
@[simp] theorem State.modFrt_fresh (f : Frt → Frt) : (s.modFrt f).fresh = s.fresh := rfl
@[simp] theorem State.modFrt_pending (f : Frt → Frt) : (s.modFrt f).pending = s.pending := rfl

/-! ### modMems -/
@[simp] theorem State.modMems_hub (f : Mems → Mems) : (s.modMems f).hub = s.hub := rfl
@[simp] theorem State.modMems_parts (f : Mems → Mems) : (s.modMems f).parts = s.parts := rfl
@[simp] theorem State.modMems_cores (f : Mems → Mems) : (s.modMems f).cores = s.cores := rfl
@[simp] theorem State.modMems_clusters (f : Mems → Mems) : (s.modMems f).clusters = s.clusters := rfl
@[simp] theorem State.modMems_dies (f : Mems → Mems) : (s.modMems f).dies = s.dies := rfl
@[simp] theorem State.modMems_frt (f : Mems → Mems) : (s.modMems f).frt = s.frt := rfl
@[simp] theorem State.modMems_stacks (f : Mems → Mems) : (s.modMems f).hbms = s.hbms := rfl
@[simp] theorem State.modMems_lps (f : Mems → Mems) : (s.modMems f).lps = s.lps := rfl
@[simp] theorem State.modMems_scr (f : Mems → Mems) : (s.modMems f).scr = s.scr := rfl
@[simp] theorem State.modMems_crs (f : Mems → Mems) : (s.modMems f).crs = s.crs := rfl
@[simp] theorem State.modMems_capo (f : Mems → Mems) : (s.modMems f).capo = s.capo := rfl
@[simp] theorem State.modMems_res (f : Mems → Mems) : (s.modMems f).res = s.res := rfl
@[simp] theorem State.modMems_peg (f : Mems → Mems) : (s.modMems f).peg = s.peg := rfl
@[simp] theorem State.modMems_uni (f : Mems → Mems) : (s.modMems f).uni = s.uni := rfl
@[simp] theorem State.modMems_bridges (f : Mems → Mems) : (s.modMems f).bridges = s.bridges := rfl
@[simp] theorem State.modMems_lth (f : Mems → Mems) : (s.modMems f).lth = s.lth := rfl
@[simp] theorem State.modMems_jobs (f : Mems → Mems) : (s.modMems f).jobs = s.jobs := rfl
@[simp] theorem State.modMems_partCode (f : Mems → Mems) : (s.modMems f).partCode = s.partCode := rfl
@[simp] theorem State.modMems_board (f : Mems → Mems) : (s.modMems f).board = s.board := rfl
@[simp] theorem State.modMems_boot (f : Mems → Mems) : (s.modMems f).boot = s.boot := rfl
@[simp] theorem State.modMems_pins (f : Mems → Mems) : (s.modMems f).pins = s.pins := rfl
@[simp] theorem State.modMems_flash (f : Mems → Mems) : (s.modMems f).flash = s.flash := rfl
@[simp] theorem State.modMems_vault (f : Mems → Mems) : (s.modMems f).vault = s.vault := rfl
@[simp] theorem State.modMems_bow (f : Mems → Mems) : (s.modMems f).bow = s.bow := rfl
@[simp] theorem State.modMems_sec (f : Mems → Mems) : (s.modMems f).sec = s.sec := rfl
@[simp] theorem State.modMems_rdata (f : Mems → Mems) : (s.modMems f).rdata = s.rdata := rfl
@[simp] theorem State.modMems_fresh (f : Mems → Mems) : (s.modMems f).fresh = s.fresh := rfl
@[simp] theorem State.modMems_pending (f : Mems → Mems) : (s.modMems f).pending = s.pending := rfl

/-! ### modScr -/
@[simp] theorem State.modScr_hub (n : Nat) (f : ScrPart → ScrPart) : (s.modScr n f).hub = s.hub := rfl
@[simp] theorem State.modScr_parts (n : Nat) (f : ScrPart → ScrPart) : (s.modScr n f).parts = s.parts := rfl
@[simp] theorem State.modScr_cores (n : Nat) (f : ScrPart → ScrPart) : (s.modScr n f).cores = s.cores := rfl
@[simp] theorem State.modScr_clusters (n : Nat) (f : ScrPart → ScrPart) : (s.modScr n f).clusters = s.clusters := rfl
@[simp] theorem State.modScr_dies (n : Nat) (f : ScrPart → ScrPart) : (s.modScr n f).dies = s.dies := rfl
@[simp] theorem State.modScr_frt (n : Nat) (f : ScrPart → ScrPart) : (s.modScr n f).frt = s.frt := rfl
@[simp] theorem State.modScr_mems (n : Nat) (f : ScrPart → ScrPart) : (s.modScr n f).mems = s.mems := rfl
@[simp] theorem State.modScr_stacks (n : Nat) (f : ScrPart → ScrPart) : (s.modScr n f).hbms = s.hbms := rfl
@[simp] theorem State.modScr_lps (n : Nat) (f : ScrPart → ScrPart) : (s.modScr n f).lps = s.lps := rfl
@[simp] theorem State.modScr_crs (n : Nat) (f : ScrPart → ScrPart) : (s.modScr n f).crs = s.crs := rfl
@[simp] theorem State.modScr_capo (n : Nat) (f : ScrPart → ScrPart) : (s.modScr n f).capo = s.capo := rfl
@[simp] theorem State.modScr_res (n : Nat) (f : ScrPart → ScrPart) : (s.modScr n f).res = s.res := rfl
@[simp] theorem State.modScr_peg (n : Nat) (f : ScrPart → ScrPart) : (s.modScr n f).peg = s.peg := rfl
@[simp] theorem State.modScr_uni (n : Nat) (f : ScrPart → ScrPart) : (s.modScr n f).uni = s.uni := rfl
@[simp] theorem State.modScr_bridges (n : Nat) (f : ScrPart → ScrPart) : (s.modScr n f).bridges = s.bridges := rfl
@[simp] theorem State.modScr_lth (n : Nat) (f : ScrPart → ScrPart) : (s.modScr n f).lth = s.lth := rfl
@[simp] theorem State.modScr_jobs (n : Nat) (f : ScrPart → ScrPart) : (s.modScr n f).jobs = s.jobs := rfl
@[simp] theorem State.modScr_partCode (n : Nat) (f : ScrPart → ScrPart) : (s.modScr n f).partCode = s.partCode := rfl
@[simp] theorem State.modScr_board (n : Nat) (f : ScrPart → ScrPart) : (s.modScr n f).board = s.board := rfl
@[simp] theorem State.modScr_boot (n : Nat) (f : ScrPart → ScrPart) : (s.modScr n f).boot = s.boot := rfl
@[simp] theorem State.modScr_pins (n : Nat) (f : ScrPart → ScrPart) : (s.modScr n f).pins = s.pins := rfl
@[simp] theorem State.modScr_flash (n : Nat) (f : ScrPart → ScrPart) : (s.modScr n f).flash = s.flash := rfl
@[simp] theorem State.modScr_vault (n : Nat) (f : ScrPart → ScrPart) : (s.modScr n f).vault = s.vault := rfl
@[simp] theorem State.modScr_bow (n : Nat) (f : ScrPart → ScrPart) : (s.modScr n f).bow = s.bow := rfl
@[simp] theorem State.modScr_sec (n : Nat) (f : ScrPart → ScrPart) : (s.modScr n f).sec = s.sec := rfl
@[simp] theorem State.modScr_rdata (n : Nat) (f : ScrPart → ScrPart) : (s.modScr n f).rdata = s.rdata := rfl
@[simp] theorem State.modScr_fresh (n : Nat) (f : ScrPart → ScrPart) : (s.modScr n f).fresh = s.fresh := rfl
@[simp] theorem State.modScr_pending (n : Nat) (f : ScrPart → ScrPart) : (s.modScr n f).pending = s.pending := rfl

/-! ### modPort -/
@[simp] theorem State.modPort_hub (c : Nat) (f : Port → Port) : (s.modPort c f).hub = s.hub := rfl
@[simp] theorem State.modPort_parts (c : Nat) (f : Port → Port) : (s.modPort c f).parts = s.parts := rfl
@[simp] theorem State.modPort_cores (c : Nat) (f : Port → Port) : (s.modPort c f).cores = s.cores := rfl
@[simp] theorem State.modPort_clusters (c : Nat) (f : Port → Port) : (s.modPort c f).clusters = s.clusters := rfl
@[simp] theorem State.modPort_dies (c : Nat) (f : Port → Port) : (s.modPort c f).dies = s.dies := rfl
@[simp] theorem State.modPort_frt (c : Nat) (f : Port → Port) : (s.modPort c f).frt = s.frt := rfl
@[simp] theorem State.modPort_mems (c : Nat) (f : Port → Port) : (s.modPort c f).mems = s.mems := rfl
@[simp] theorem State.modPort_stacks (c : Nat) (f : Port → Port) : (s.modPort c f).hbms = s.hbms := rfl
@[simp] theorem State.modPort_lps (c : Nat) (f : Port → Port) : (s.modPort c f).lps = s.lps := rfl
@[simp] theorem State.modPort_scr (c : Nat) (f : Port → Port) : (s.modPort c f).scr = s.scr := rfl
@[simp] theorem State.modPort_capo (c : Nat) (f : Port → Port) : (s.modPort c f).capo = s.capo := rfl
@[simp] theorem State.modPort_res (c : Nat) (f : Port → Port) : (s.modPort c f).res = s.res := rfl
@[simp] theorem State.modPort_peg (c : Nat) (f : Port → Port) : (s.modPort c f).peg = s.peg := rfl
@[simp] theorem State.modPort_uni (c : Nat) (f : Port → Port) : (s.modPort c f).uni = s.uni := rfl
@[simp] theorem State.modPort_bridges (c : Nat) (f : Port → Port) : (s.modPort c f).bridges = s.bridges := rfl
@[simp] theorem State.modPort_lth (c : Nat) (f : Port → Port) : (s.modPort c f).lth = s.lth := rfl
@[simp] theorem State.modPort_jobs (c : Nat) (f : Port → Port) : (s.modPort c f).jobs = s.jobs := rfl
@[simp] theorem State.modPort_partCode (c : Nat) (f : Port → Port) : (s.modPort c f).partCode = s.partCode := rfl
@[simp] theorem State.modPort_board (c : Nat) (f : Port → Port) : (s.modPort c f).board = s.board := rfl
@[simp] theorem State.modPort_boot (c : Nat) (f : Port → Port) : (s.modPort c f).boot = s.boot := rfl
@[simp] theorem State.modPort_pins (c : Nat) (f : Port → Port) : (s.modPort c f).pins = s.pins := rfl
@[simp] theorem State.modPort_flash (c : Nat) (f : Port → Port) : (s.modPort c f).flash = s.flash := rfl
@[simp] theorem State.modPort_vault (c : Nat) (f : Port → Port) : (s.modPort c f).vault = s.vault := rfl
@[simp] theorem State.modPort_bow (c : Nat) (f : Port → Port) : (s.modPort c f).bow = s.bow := rfl
@[simp] theorem State.modPort_sec (c : Nat) (f : Port → Port) : (s.modPort c f).sec = s.sec := rfl
@[simp] theorem State.modPort_rdata (c : Nat) (f : Port → Port) : (s.modPort c f).rdata = s.rdata := rfl
@[simp] theorem State.modPort_fresh (c : Nat) (f : Port → Port) : (s.modPort c f).fresh = s.fresh := rfl
@[simp] theorem State.modPort_pending (c : Nat) (f : Port → Port) : (s.modPort c f).pending = s.pending := rfl

/-! ### modPair -/
@[simp] theorem State.modPair_hub (n : Nat) (f : Pair → Pair) : (s.modPair n f).hub = s.hub := rfl
@[simp] theorem State.modPair_parts (n : Nat) (f : Pair → Pair) : (s.modPair n f).parts = s.parts := rfl
@[simp] theorem State.modPair_cores (n : Nat) (f : Pair → Pair) : (s.modPair n f).cores = s.cores := rfl
@[simp] theorem State.modPair_clusters (n : Nat) (f : Pair → Pair) : (s.modPair n f).clusters = s.clusters := rfl
@[simp] theorem State.modPair_dies (n : Nat) (f : Pair → Pair) : (s.modPair n f).dies = s.dies := rfl
@[simp] theorem State.modPair_frt (n : Nat) (f : Pair → Pair) : (s.modPair n f).frt = s.frt := rfl
@[simp] theorem State.modPair_mems (n : Nat) (f : Pair → Pair) : (s.modPair n f).mems = s.mems := rfl
@[simp] theorem State.modPair_stacks (n : Nat) (f : Pair → Pair) : (s.modPair n f).hbms = s.hbms := rfl
@[simp] theorem State.modPair_lps (n : Nat) (f : Pair → Pair) : (s.modPair n f).lps = s.lps := rfl
@[simp] theorem State.modPair_scr (n : Nat) (f : Pair → Pair) : (s.modPair n f).scr = s.scr := rfl
@[simp] theorem State.modPair_capo (n : Nat) (f : Pair → Pair) : (s.modPair n f).capo = s.capo := rfl
@[simp] theorem State.modPair_res (n : Nat) (f : Pair → Pair) : (s.modPair n f).res = s.res := rfl
@[simp] theorem State.modPair_peg (n : Nat) (f : Pair → Pair) : (s.modPair n f).peg = s.peg := rfl
@[simp] theorem State.modPair_uni (n : Nat) (f : Pair → Pair) : (s.modPair n f).uni = s.uni := rfl
@[simp] theorem State.modPair_bridges (n : Nat) (f : Pair → Pair) : (s.modPair n f).bridges = s.bridges := rfl
@[simp] theorem State.modPair_lth (n : Nat) (f : Pair → Pair) : (s.modPair n f).lth = s.lth := rfl
@[simp] theorem State.modPair_jobs (n : Nat) (f : Pair → Pair) : (s.modPair n f).jobs = s.jobs := rfl
@[simp] theorem State.modPair_partCode (n : Nat) (f : Pair → Pair) : (s.modPair n f).partCode = s.partCode := rfl
@[simp] theorem State.modPair_board (n : Nat) (f : Pair → Pair) : (s.modPair n f).board = s.board := rfl
@[simp] theorem State.modPair_boot (n : Nat) (f : Pair → Pair) : (s.modPair n f).boot = s.boot := rfl
@[simp] theorem State.modPair_pins (n : Nat) (f : Pair → Pair) : (s.modPair n f).pins = s.pins := rfl
@[simp] theorem State.modPair_flash (n : Nat) (f : Pair → Pair) : (s.modPair n f).flash = s.flash := rfl
@[simp] theorem State.modPair_vault (n : Nat) (f : Pair → Pair) : (s.modPair n f).vault = s.vault := rfl
@[simp] theorem State.modPair_bow (n : Nat) (f : Pair → Pair) : (s.modPair n f).bow = s.bow := rfl
@[simp] theorem State.modPair_sec (n : Nat) (f : Pair → Pair) : (s.modPair n f).sec = s.sec := rfl
@[simp] theorem State.modPair_rdata (n : Nat) (f : Pair → Pair) : (s.modPair n f).rdata = s.rdata := rfl
@[simp] theorem State.modPair_fresh (n : Nat) (f : Pair → Pair) : (s.modPair n f).fresh = s.fresh := rfl
@[simp] theorem State.modPair_pending (n : Nat) (f : Pair → Pair) : (s.modPair n f).pending = s.pending := rfl

/-! ### modBridge -/
@[simp] theorem State.modBridge_hub (b : Nat) (f : Bridge → Bridge) : (s.modBridge b f).hub = s.hub := rfl
@[simp] theorem State.modBridge_parts (b : Nat) (f : Bridge → Bridge) : (s.modBridge b f).parts = s.parts := rfl
@[simp] theorem State.modBridge_cores (b : Nat) (f : Bridge → Bridge) : (s.modBridge b f).cores = s.cores := rfl
@[simp] theorem State.modBridge_clusters (b : Nat) (f : Bridge → Bridge) : (s.modBridge b f).clusters = s.clusters := rfl
@[simp] theorem State.modBridge_dies (b : Nat) (f : Bridge → Bridge) : (s.modBridge b f).dies = s.dies := rfl
@[simp] theorem State.modBridge_frt (b : Nat) (f : Bridge → Bridge) : (s.modBridge b f).frt = s.frt := rfl
@[simp] theorem State.modBridge_mems (b : Nat) (f : Bridge → Bridge) : (s.modBridge b f).mems = s.mems := rfl
@[simp] theorem State.modBridge_stacks (b : Nat) (f : Bridge → Bridge) : (s.modBridge b f).hbms = s.hbms := rfl
@[simp] theorem State.modBridge_lps (b : Nat) (f : Bridge → Bridge) : (s.modBridge b f).lps = s.lps := rfl
@[simp] theorem State.modBridge_scr (b : Nat) (f : Bridge → Bridge) : (s.modBridge b f).scr = s.scr := rfl
@[simp] theorem State.modBridge_crs (b : Nat) (f : Bridge → Bridge) : (s.modBridge b f).crs = s.crs := rfl
@[simp] theorem State.modBridge_capo (b : Nat) (f : Bridge → Bridge) : (s.modBridge b f).capo = s.capo := rfl
@[simp] theorem State.modBridge_res (b : Nat) (f : Bridge → Bridge) : (s.modBridge b f).res = s.res := rfl
@[simp] theorem State.modBridge_peg (b : Nat) (f : Bridge → Bridge) : (s.modBridge b f).peg = s.peg := rfl
@[simp] theorem State.modBridge_uni (b : Nat) (f : Bridge → Bridge) : (s.modBridge b f).uni = s.uni := rfl
@[simp] theorem State.modBridge_lth (b : Nat) (f : Bridge → Bridge) : (s.modBridge b f).lth = s.lth := rfl
@[simp] theorem State.modBridge_jobs (b : Nat) (f : Bridge → Bridge) : (s.modBridge b f).jobs = s.jobs := rfl
@[simp] theorem State.modBridge_partCode (b : Nat) (f : Bridge → Bridge) : (s.modBridge b f).partCode = s.partCode := rfl
@[simp] theorem State.modBridge_board (b : Nat) (f : Bridge → Bridge) : (s.modBridge b f).board = s.board := rfl
@[simp] theorem State.modBridge_boot (b : Nat) (f : Bridge → Bridge) : (s.modBridge b f).boot = s.boot := rfl
@[simp] theorem State.modBridge_pins (b : Nat) (f : Bridge → Bridge) : (s.modBridge b f).pins = s.pins := rfl
@[simp] theorem State.modBridge_flash (b : Nat) (f : Bridge → Bridge) : (s.modBridge b f).flash = s.flash := rfl
@[simp] theorem State.modBridge_vault (b : Nat) (f : Bridge → Bridge) : (s.modBridge b f).vault = s.vault := rfl
@[simp] theorem State.modBridge_bow (b : Nat) (f : Bridge → Bridge) : (s.modBridge b f).bow = s.bow := rfl
@[simp] theorem State.modBridge_sec (b : Nat) (f : Bridge → Bridge) : (s.modBridge b f).sec = s.sec := rfl
@[simp] theorem State.modBridge_rdata (b : Nat) (f : Bridge → Bridge) : (s.modBridge b f).rdata = s.rdata := rfl
@[simp] theorem State.modBridge_fresh (b : Nat) (f : Bridge → Bridge) : (s.modBridge b f).fresh = s.fresh := rfl
@[simp] theorem State.modBridge_pending (b : Nat) (f : Bridge → Bridge) : (s.modBridge b f).pending = s.pending := rfl

/-! ### modPool -/
@[simp] theorem State.modPool_hub (i : Nat) (f : Pool → Pool) : (s.modPool i f).hub = s.hub := rfl
@[simp] theorem State.modPool_parts (i : Nat) (f : Pool → Pool) : (s.modPool i f).parts = s.parts := rfl
@[simp] theorem State.modPool_cores (i : Nat) (f : Pool → Pool) : (s.modPool i f).cores = s.cores := rfl
@[simp] theorem State.modPool_clusters (i : Nat) (f : Pool → Pool) : (s.modPool i f).clusters = s.clusters := rfl
@[simp] theorem State.modPool_dies (i : Nat) (f : Pool → Pool) : (s.modPool i f).dies = s.dies := rfl
@[simp] theorem State.modPool_mems (i : Nat) (f : Pool → Pool) : (s.modPool i f).mems = s.mems := rfl
@[simp] theorem State.modPool_stacks (i : Nat) (f : Pool → Pool) : (s.modPool i f).hbms = s.hbms := rfl
@[simp] theorem State.modPool_lps (i : Nat) (f : Pool → Pool) : (s.modPool i f).lps = s.lps := rfl
@[simp] theorem State.modPool_scr (i : Nat) (f : Pool → Pool) : (s.modPool i f).scr = s.scr := rfl
@[simp] theorem State.modPool_crs (i : Nat) (f : Pool → Pool) : (s.modPool i f).crs = s.crs := rfl
@[simp] theorem State.modPool_capo (i : Nat) (f : Pool → Pool) : (s.modPool i f).capo = s.capo := rfl
@[simp] theorem State.modPool_res (i : Nat) (f : Pool → Pool) : (s.modPool i f).res = s.res := rfl
@[simp] theorem State.modPool_peg (i : Nat) (f : Pool → Pool) : (s.modPool i f).peg = s.peg := rfl
@[simp] theorem State.modPool_uni (i : Nat) (f : Pool → Pool) : (s.modPool i f).uni = s.uni := rfl
@[simp] theorem State.modPool_bridges (i : Nat) (f : Pool → Pool) : (s.modPool i f).bridges = s.bridges := rfl
@[simp] theorem State.modPool_lth (i : Nat) (f : Pool → Pool) : (s.modPool i f).lth = s.lth := rfl
@[simp] theorem State.modPool_jobs (i : Nat) (f : Pool → Pool) : (s.modPool i f).jobs = s.jobs := rfl
@[simp] theorem State.modPool_partCode (i : Nat) (f : Pool → Pool) : (s.modPool i f).partCode = s.partCode := rfl
@[simp] theorem State.modPool_board (i : Nat) (f : Pool → Pool) : (s.modPool i f).board = s.board := rfl
@[simp] theorem State.modPool_boot (i : Nat) (f : Pool → Pool) : (s.modPool i f).boot = s.boot := rfl
@[simp] theorem State.modPool_pins (i : Nat) (f : Pool → Pool) : (s.modPool i f).pins = s.pins := rfl
@[simp] theorem State.modPool_flash (i : Nat) (f : Pool → Pool) : (s.modPool i f).flash = s.flash := rfl
@[simp] theorem State.modPool_vault (i : Nat) (f : Pool → Pool) : (s.modPool i f).vault = s.vault := rfl
@[simp] theorem State.modPool_bow (i : Nat) (f : Pool → Pool) : (s.modPool i f).bow = s.bow := rfl
@[simp] theorem State.modPool_sec (i : Nat) (f : Pool → Pool) : (s.modPool i f).sec = s.sec := rfl
@[simp] theorem State.modPool_rdata (i : Nat) (f : Pool → Pool) : (s.modPool i f).rdata = s.rdata := rfl
@[simp] theorem State.modPool_fresh (i : Nat) (f : Pool → Pool) : (s.modPool i f).fresh = s.fresh := rfl
@[simp] theorem State.modPool_pending (i : Nat) (f : Pool → Pool) : (s.modPool i f).pending = s.pending := rfl

/-! ### modRes -/
@[simp] theorem State.modRes_hub (n : Nat) (f : ResPart → ResPart) : (s.modRes n f).hub = s.hub := rfl
@[simp] theorem State.modRes_parts (n : Nat) (f : ResPart → ResPart) : (s.modRes n f).parts = s.parts := rfl
@[simp] theorem State.modRes_cores (n : Nat) (f : ResPart → ResPart) : (s.modRes n f).cores = s.cores := rfl
@[simp] theorem State.modRes_clusters (n : Nat) (f : ResPart → ResPart) : (s.modRes n f).clusters = s.clusters := rfl
@[simp] theorem State.modRes_dies (n : Nat) (f : ResPart → ResPart) : (s.modRes n f).dies = s.dies := rfl
@[simp] theorem State.modRes_frt (n : Nat) (f : ResPart → ResPart) : (s.modRes n f).frt = s.frt := rfl
@[simp] theorem State.modRes_mems (n : Nat) (f : ResPart → ResPart) : (s.modRes n f).mems = s.mems := rfl
@[simp] theorem State.modRes_stacks (n : Nat) (f : ResPart → ResPart) : (s.modRes n f).hbms = s.hbms := rfl
@[simp] theorem State.modRes_lps (n : Nat) (f : ResPart → ResPart) : (s.modRes n f).lps = s.lps := rfl
@[simp] theorem State.modRes_scr (n : Nat) (f : ResPart → ResPart) : (s.modRes n f).scr = s.scr := rfl
@[simp] theorem State.modRes_crs (n : Nat) (f : ResPart → ResPart) : (s.modRes n f).crs = s.crs := rfl
@[simp] theorem State.modRes_capo (n : Nat) (f : ResPart → ResPart) : (s.modRes n f).capo = s.capo := rfl
@[simp] theorem State.modRes_peg (n : Nat) (f : ResPart → ResPart) : (s.modRes n f).peg = s.peg := rfl
@[simp] theorem State.modRes_uni (n : Nat) (f : ResPart → ResPart) : (s.modRes n f).uni = s.uni := rfl
@[simp] theorem State.modRes_bridges (n : Nat) (f : ResPart → ResPart) : (s.modRes n f).bridges = s.bridges := rfl
@[simp] theorem State.modRes_lth (n : Nat) (f : ResPart → ResPart) : (s.modRes n f).lth = s.lth := rfl
@[simp] theorem State.modRes_jobs (n : Nat) (f : ResPart → ResPart) : (s.modRes n f).jobs = s.jobs := rfl
@[simp] theorem State.modRes_partCode (n : Nat) (f : ResPart → ResPart) : (s.modRes n f).partCode = s.partCode := rfl
@[simp] theorem State.modRes_board (n : Nat) (f : ResPart → ResPart) : (s.modRes n f).board = s.board := rfl
@[simp] theorem State.modRes_boot (n : Nat) (f : ResPart → ResPart) : (s.modRes n f).boot = s.boot := rfl
@[simp] theorem State.modRes_pins (n : Nat) (f : ResPart → ResPart) : (s.modRes n f).pins = s.pins := rfl
@[simp] theorem State.modRes_flash (n : Nat) (f : ResPart → ResPart) : (s.modRes n f).flash = s.flash := rfl
@[simp] theorem State.modRes_vault (n : Nat) (f : ResPart → ResPart) : (s.modRes n f).vault = s.vault := rfl
@[simp] theorem State.modRes_bow (n : Nat) (f : ResPart → ResPart) : (s.modRes n f).bow = s.bow := rfl
@[simp] theorem State.modRes_sec (n : Nat) (f : ResPart → ResPart) : (s.modRes n f).sec = s.sec := rfl
@[simp] theorem State.modRes_rdata (n : Nat) (f : ResPart → ResPart) : (s.modRes n f).rdata = s.rdata := rfl
@[simp] theorem State.modRes_fresh (n : Nat) (f : ResPart → ResPart) : (s.modRes n f).fresh = s.fresh := rfl
@[simp] theorem State.modRes_pending (n : Nat) (f : ResPart → ResPart) : (s.modRes n f).pending = s.pending := rfl

/-! ### modBoot -/
@[simp] theorem State.modBoot_hub (f : Boot → Boot) : (s.modBoot f).hub = s.hub := rfl
@[simp] theorem State.modBoot_parts (f : Boot → Boot) : (s.modBoot f).parts = s.parts := rfl
@[simp] theorem State.modBoot_cores (f : Boot → Boot) : (s.modBoot f).cores = s.cores := rfl
@[simp] theorem State.modBoot_clusters (f : Boot → Boot) : (s.modBoot f).clusters = s.clusters := rfl
@[simp] theorem State.modBoot_dies (f : Boot → Boot) : (s.modBoot f).dies = s.dies := rfl
@[simp] theorem State.modBoot_frt (f : Boot → Boot) : (s.modBoot f).frt = s.frt := rfl
@[simp] theorem State.modBoot_mems (f : Boot → Boot) : (s.modBoot f).mems = s.mems := rfl
@[simp] theorem State.modBoot_stacks (f : Boot → Boot) : (s.modBoot f).hbms = s.hbms := rfl
@[simp] theorem State.modBoot_lps (f : Boot → Boot) : (s.modBoot f).lps = s.lps := rfl
@[simp] theorem State.modBoot_scr (f : Boot → Boot) : (s.modBoot f).scr = s.scr := rfl
@[simp] theorem State.modBoot_crs (f : Boot → Boot) : (s.modBoot f).crs = s.crs := rfl
@[simp] theorem State.modBoot_capo (f : Boot → Boot) : (s.modBoot f).capo = s.capo := rfl
@[simp] theorem State.modBoot_res (f : Boot → Boot) : (s.modBoot f).res = s.res := rfl
@[simp] theorem State.modBoot_peg (f : Boot → Boot) : (s.modBoot f).peg = s.peg := rfl
@[simp] theorem State.modBoot_uni (f : Boot → Boot) : (s.modBoot f).uni = s.uni := rfl
@[simp] theorem State.modBoot_bridges (f : Boot → Boot) : (s.modBoot f).bridges = s.bridges := rfl
@[simp] theorem State.modBoot_lth (f : Boot → Boot) : (s.modBoot f).lth = s.lth := rfl
@[simp] theorem State.modBoot_jobs (f : Boot → Boot) : (s.modBoot f).jobs = s.jobs := rfl
@[simp] theorem State.modBoot_partCode (f : Boot → Boot) : (s.modBoot f).partCode = s.partCode := rfl
@[simp] theorem State.modBoot_board (f : Boot → Boot) : (s.modBoot f).board = s.board := rfl
@[simp] theorem State.modBoot_pins (f : Boot → Boot) : (s.modBoot f).pins = s.pins := rfl
@[simp] theorem State.modBoot_flash (f : Boot → Boot) : (s.modBoot f).flash = s.flash := rfl
@[simp] theorem State.modBoot_vault (f : Boot → Boot) : (s.modBoot f).vault = s.vault := rfl
@[simp] theorem State.modBoot_bow (f : Boot → Boot) : (s.modBoot f).bow = s.bow := rfl
@[simp] theorem State.modBoot_sec (f : Boot → Boot) : (s.modBoot f).sec = s.sec := rfl
@[simp] theorem State.modBoot_rdata (f : Boot → Boot) : (s.modBoot f).rdata = s.rdata := rfl
@[simp] theorem State.modBoot_fresh (f : Boot → Boot) : (s.modBoot f).fresh = s.fresh := rfl
@[simp] theorem State.modBoot_pending (f : Boot → Boot) : (s.modBoot f).pending = s.pending := rfl

/-! ### modSec -/
@[simp] theorem State.modSec_hub (f : Sec → Sec) : (s.modSec f).hub = s.hub := rfl
@[simp] theorem State.modSec_parts (f : Sec → Sec) : (s.modSec f).parts = s.parts := rfl
@[simp] theorem State.modSec_cores (f : Sec → Sec) : (s.modSec f).cores = s.cores := rfl
@[simp] theorem State.modSec_clusters (f : Sec → Sec) : (s.modSec f).clusters = s.clusters := rfl
@[simp] theorem State.modSec_dies (f : Sec → Sec) : (s.modSec f).dies = s.dies := rfl
@[simp] theorem State.modSec_frt (f : Sec → Sec) : (s.modSec f).frt = s.frt := rfl
@[simp] theorem State.modSec_mems (f : Sec → Sec) : (s.modSec f).mems = s.mems := rfl
@[simp] theorem State.modSec_stacks (f : Sec → Sec) : (s.modSec f).hbms = s.hbms := rfl
@[simp] theorem State.modSec_lps (f : Sec → Sec) : (s.modSec f).lps = s.lps := rfl
@[simp] theorem State.modSec_scr (f : Sec → Sec) : (s.modSec f).scr = s.scr := rfl
@[simp] theorem State.modSec_crs (f : Sec → Sec) : (s.modSec f).crs = s.crs := rfl
@[simp] theorem State.modSec_capo (f : Sec → Sec) : (s.modSec f).capo = s.capo := rfl
@[simp] theorem State.modSec_res (f : Sec → Sec) : (s.modSec f).res = s.res := rfl
@[simp] theorem State.modSec_peg (f : Sec → Sec) : (s.modSec f).peg = s.peg := rfl
@[simp] theorem State.modSec_uni (f : Sec → Sec) : (s.modSec f).uni = s.uni := rfl
@[simp] theorem State.modSec_bridges (f : Sec → Sec) : (s.modSec f).bridges = s.bridges := rfl
@[simp] theorem State.modSec_lth (f : Sec → Sec) : (s.modSec f).lth = s.lth := rfl
@[simp] theorem State.modSec_jobs (f : Sec → Sec) : (s.modSec f).jobs = s.jobs := rfl
@[simp] theorem State.modSec_partCode (f : Sec → Sec) : (s.modSec f).partCode = s.partCode := rfl
@[simp] theorem State.modSec_board (f : Sec → Sec) : (s.modSec f).board = s.board := rfl
@[simp] theorem State.modSec_boot (f : Sec → Sec) : (s.modSec f).boot = s.boot := rfl
@[simp] theorem State.modSec_pins (f : Sec → Sec) : (s.modSec f).pins = s.pins := rfl
@[simp] theorem State.modSec_flash (f : Sec → Sec) : (s.modSec f).flash = s.flash := rfl
@[simp] theorem State.modSec_vault (f : Sec → Sec) : (s.modSec f).vault = s.vault := rfl
@[simp] theorem State.modSec_bow (f : Sec → Sec) : (s.modSec f).bow = s.bow := rfl
@[simp] theorem State.modSec_rdata (f : Sec → Sec) : (s.modSec f).rdata = s.rdata := rfl
@[simp] theorem State.modSec_fresh (f : Sec → Sec) : (s.modSec f).fresh = s.fresh := rfl
@[simp] theorem State.modSec_pending (f : Sec → Sec) : (s.modSec f).pending = s.pending := rfl

/-! ### modJobs -/
@[simp] theorem State.modJobs_hub (f : Job → Job) : (s.modJobs f).hub = s.hub := rfl
@[simp] theorem State.modJobs_parts (f : Job → Job) : (s.modJobs f).parts = s.parts := rfl
@[simp] theorem State.modJobs_cores (f : Job → Job) : (s.modJobs f).cores = s.cores := rfl
@[simp] theorem State.modJobs_clusters (f : Job → Job) : (s.modJobs f).clusters = s.clusters := rfl
@[simp] theorem State.modJobs_dies (f : Job → Job) : (s.modJobs f).dies = s.dies := rfl
@[simp] theorem State.modJobs_frt (f : Job → Job) : (s.modJobs f).frt = s.frt := rfl
@[simp] theorem State.modJobs_mems (f : Job → Job) : (s.modJobs f).mems = s.mems := rfl
@[simp] theorem State.modJobs_stacks (f : Job → Job) : (s.modJobs f).hbms = s.hbms := rfl
@[simp] theorem State.modJobs_lps (f : Job → Job) : (s.modJobs f).lps = s.lps := rfl
@[simp] theorem State.modJobs_scr (f : Job → Job) : (s.modJobs f).scr = s.scr := rfl
@[simp] theorem State.modJobs_crs (f : Job → Job) : (s.modJobs f).crs = s.crs := rfl
@[simp] theorem State.modJobs_capo (f : Job → Job) : (s.modJobs f).capo = s.capo := rfl
@[simp] theorem State.modJobs_res (f : Job → Job) : (s.modJobs f).res = s.res := rfl
@[simp] theorem State.modJobs_peg (f : Job → Job) : (s.modJobs f).peg = s.peg := rfl
@[simp] theorem State.modJobs_uni (f : Job → Job) : (s.modJobs f).uni = s.uni := rfl
@[simp] theorem State.modJobs_bridges (f : Job → Job) : (s.modJobs f).bridges = s.bridges := rfl
@[simp] theorem State.modJobs_lth (f : Job → Job) : (s.modJobs f).lth = s.lth := rfl
@[simp] theorem State.modJobs_partCode (f : Job → Job) : (s.modJobs f).partCode = s.partCode := rfl
@[simp] theorem State.modJobs_board (f : Job → Job) : (s.modJobs f).board = s.board := rfl
@[simp] theorem State.modJobs_boot (f : Job → Job) : (s.modJobs f).boot = s.boot := rfl
@[simp] theorem State.modJobs_pins (f : Job → Job) : (s.modJobs f).pins = s.pins := rfl
@[simp] theorem State.modJobs_flash (f : Job → Job) : (s.modJobs f).flash = s.flash := rfl
@[simp] theorem State.modJobs_vault (f : Job → Job) : (s.modJobs f).vault = s.vault := rfl
@[simp] theorem State.modJobs_bow (f : Job → Job) : (s.modJobs f).bow = s.bow := rfl
@[simp] theorem State.modJobs_sec (f : Job → Job) : (s.modJobs f).sec = s.sec := rfl
@[simp] theorem State.modJobs_rdata (f : Job → Job) : (s.modJobs f).rdata = s.rdata := rfl
@[simp] theorem State.modJobs_fresh (f : Job → Job) : (s.modJobs f).fresh = s.fresh := rfl
@[simp] theorem State.modJobs_pending (f : Job → Job) : (s.modJobs f).pending = s.pending := rfl

/-! ### modPegQueue -/
@[simp] theorem State.modPegQueue_hub (q : Nat) (f : PegQueue → PegQueue) : (s.modPegQueue q f).hub = s.hub := rfl
@[simp] theorem State.modPegQueue_parts (q : Nat) (f : PegQueue → PegQueue) : (s.modPegQueue q f).parts = s.parts := rfl
@[simp] theorem State.modPegQueue_cores (q : Nat) (f : PegQueue → PegQueue) : (s.modPegQueue q f).cores = s.cores := rfl
@[simp] theorem State.modPegQueue_clusters (q : Nat) (f : PegQueue → PegQueue) : (s.modPegQueue q f).clusters = s.clusters := rfl
@[simp] theorem State.modPegQueue_dies (q : Nat) (f : PegQueue → PegQueue) : (s.modPegQueue q f).dies = s.dies := rfl
@[simp] theorem State.modPegQueue_frt (q : Nat) (f : PegQueue → PegQueue) : (s.modPegQueue q f).frt = s.frt := rfl
@[simp] theorem State.modPegQueue_mems (q : Nat) (f : PegQueue → PegQueue) : (s.modPegQueue q f).mems = s.mems := rfl
@[simp] theorem State.modPegQueue_stacks (q : Nat) (f : PegQueue → PegQueue) : (s.modPegQueue q f).hbms = s.hbms := rfl
@[simp] theorem State.modPegQueue_lps (q : Nat) (f : PegQueue → PegQueue) : (s.modPegQueue q f).lps = s.lps := rfl
@[simp] theorem State.modPegQueue_scr (q : Nat) (f : PegQueue → PegQueue) : (s.modPegQueue q f).scr = s.scr := rfl
@[simp] theorem State.modPegQueue_crs (q : Nat) (f : PegQueue → PegQueue) : (s.modPegQueue q f).crs = s.crs := rfl
@[simp] theorem State.modPegQueue_capo (q : Nat) (f : PegQueue → PegQueue) : (s.modPegQueue q f).capo = s.capo := rfl
@[simp] theorem State.modPegQueue_res (q : Nat) (f : PegQueue → PegQueue) : (s.modPegQueue q f).res = s.res := rfl
@[simp] theorem State.modPegQueue_uni (q : Nat) (f : PegQueue → PegQueue) : (s.modPegQueue q f).uni = s.uni := rfl
@[simp] theorem State.modPegQueue_bridges (q : Nat) (f : PegQueue → PegQueue) : (s.modPegQueue q f).bridges = s.bridges := rfl
@[simp] theorem State.modPegQueue_lth (q : Nat) (f : PegQueue → PegQueue) : (s.modPegQueue q f).lth = s.lth := rfl
@[simp] theorem State.modPegQueue_jobs (q : Nat) (f : PegQueue → PegQueue) : (s.modPegQueue q f).jobs = s.jobs := rfl
@[simp] theorem State.modPegQueue_partCode (q : Nat) (f : PegQueue → PegQueue) : (s.modPegQueue q f).partCode = s.partCode := rfl
@[simp] theorem State.modPegQueue_board (q : Nat) (f : PegQueue → PegQueue) : (s.modPegQueue q f).board = s.board := rfl
@[simp] theorem State.modPegQueue_boot (q : Nat) (f : PegQueue → PegQueue) : (s.modPegQueue q f).boot = s.boot := rfl
@[simp] theorem State.modPegQueue_pins (q : Nat) (f : PegQueue → PegQueue) : (s.modPegQueue q f).pins = s.pins := rfl
@[simp] theorem State.modPegQueue_flash (q : Nat) (f : PegQueue → PegQueue) : (s.modPegQueue q f).flash = s.flash := rfl
@[simp] theorem State.modPegQueue_vault (q : Nat) (f : PegQueue → PegQueue) : (s.modPegQueue q f).vault = s.vault := rfl
@[simp] theorem State.modPegQueue_bow (q : Nat) (f : PegQueue → PegQueue) : (s.modPegQueue q f).bow = s.bow := rfl
@[simp] theorem State.modPegQueue_sec (q : Nat) (f : PegQueue → PegQueue) : (s.modPegQueue q f).sec = s.sec := rfl
@[simp] theorem State.modPegQueue_rdata (q : Nat) (f : PegQueue → PegQueue) : (s.modPegQueue q f).rdata = s.rdata := rfl
@[simp] theorem State.modPegQueue_fresh (q : Nat) (f : PegQueue → PegQueue) : (s.modPegQueue q f).fresh = s.fresh := rfl
@[simp] theorem State.modPegQueue_pending (q : Nat) (f : PegQueue → PegQueue) : (s.modPegQueue q f).pending = s.pending := rfl

/-! ### modGroup -/
@[simp] theorem State.modGroup_hub (g : Nat) (f : UniGroup → UniGroup) : (s.modGroup g f).hub = s.hub := rfl
@[simp] theorem State.modGroup_parts (g : Nat) (f : UniGroup → UniGroup) : (s.modGroup g f).parts = s.parts := rfl
@[simp] theorem State.modGroup_cores (g : Nat) (f : UniGroup → UniGroup) : (s.modGroup g f).cores = s.cores := rfl
@[simp] theorem State.modGroup_clusters (g : Nat) (f : UniGroup → UniGroup) : (s.modGroup g f).clusters = s.clusters := rfl
@[simp] theorem State.modGroup_dies (g : Nat) (f : UniGroup → UniGroup) : (s.modGroup g f).dies = s.dies := rfl
@[simp] theorem State.modGroup_frt (g : Nat) (f : UniGroup → UniGroup) : (s.modGroup g f).frt = s.frt := rfl
@[simp] theorem State.modGroup_mems (g : Nat) (f : UniGroup → UniGroup) : (s.modGroup g f).mems = s.mems := rfl
@[simp] theorem State.modGroup_stacks (g : Nat) (f : UniGroup → UniGroup) : (s.modGroup g f).hbms = s.hbms := rfl
@[simp] theorem State.modGroup_lps (g : Nat) (f : UniGroup → UniGroup) : (s.modGroup g f).lps = s.lps := rfl
@[simp] theorem State.modGroup_scr (g : Nat) (f : UniGroup → UniGroup) : (s.modGroup g f).scr = s.scr := rfl
@[simp] theorem State.modGroup_crs (g : Nat) (f : UniGroup → UniGroup) : (s.modGroup g f).crs = s.crs := rfl
@[simp] theorem State.modGroup_capo (g : Nat) (f : UniGroup → UniGroup) : (s.modGroup g f).capo = s.capo := rfl
@[simp] theorem State.modGroup_res (g : Nat) (f : UniGroup → UniGroup) : (s.modGroup g f).res = s.res := rfl
@[simp] theorem State.modGroup_peg (g : Nat) (f : UniGroup → UniGroup) : (s.modGroup g f).peg = s.peg := rfl
@[simp] theorem State.modGroup_bridges (g : Nat) (f : UniGroup → UniGroup) : (s.modGroup g f).bridges = s.bridges := rfl
@[simp] theorem State.modGroup_lth (g : Nat) (f : UniGroup → UniGroup) : (s.modGroup g f).lth = s.lth := rfl
@[simp] theorem State.modGroup_jobs (g : Nat) (f : UniGroup → UniGroup) : (s.modGroup g f).jobs = s.jobs := rfl
@[simp] theorem State.modGroup_partCode (g : Nat) (f : UniGroup → UniGroup) : (s.modGroup g f).partCode = s.partCode := rfl
@[simp] theorem State.modGroup_board (g : Nat) (f : UniGroup → UniGroup) : (s.modGroup g f).board = s.board := rfl
@[simp] theorem State.modGroup_boot (g : Nat) (f : UniGroup → UniGroup) : (s.modGroup g f).boot = s.boot := rfl
@[simp] theorem State.modGroup_pins (g : Nat) (f : UniGroup → UniGroup) : (s.modGroup g f).pins = s.pins := rfl
@[simp] theorem State.modGroup_flash (g : Nat) (f : UniGroup → UniGroup) : (s.modGroup g f).flash = s.flash := rfl
@[simp] theorem State.modGroup_vault (g : Nat) (f : UniGroup → UniGroup) : (s.modGroup g f).vault = s.vault := rfl
@[simp] theorem State.modGroup_bow (g : Nat) (f : UniGroup → UniGroup) : (s.modGroup g f).bow = s.bow := rfl
@[simp] theorem State.modGroup_sec (g : Nat) (f : UniGroup → UniGroup) : (s.modGroup g f).sec = s.sec := rfl
@[simp] theorem State.modGroup_rdata (g : Nat) (f : UniGroup → UniGroup) : (s.modGroup g f).rdata = s.rdata := rfl
@[simp] theorem State.modGroup_fresh (g : Nat) (f : UniGroup → UniGroup) : (s.modGroup g f).fresh = s.fresh := rfl
@[simp] theorem State.modGroup_pending (g : Nat) (f : UniGroup → UniGroup) : (s.modGroup g f).pending = s.pending := rfl

/-! ### modBowDie -/
@[simp] theorem State.modBowDie_hub (d : Nat) (f : BowDie → BowDie) : (s.modBowDie d f).hub = s.hub := rfl
@[simp] theorem State.modBowDie_parts (d : Nat) (f : BowDie → BowDie) : (s.modBowDie d f).parts = s.parts := rfl
@[simp] theorem State.modBowDie_cores (d : Nat) (f : BowDie → BowDie) : (s.modBowDie d f).cores = s.cores := rfl
@[simp] theorem State.modBowDie_clusters (d : Nat) (f : BowDie → BowDie) : (s.modBowDie d f).clusters = s.clusters := rfl
@[simp] theorem State.modBowDie_dies (d : Nat) (f : BowDie → BowDie) : (s.modBowDie d f).dies = s.dies := rfl
@[simp] theorem State.modBowDie_frt (d : Nat) (f : BowDie → BowDie) : (s.modBowDie d f).frt = s.frt := rfl
@[simp] theorem State.modBowDie_mems (d : Nat) (f : BowDie → BowDie) : (s.modBowDie d f).mems = s.mems := rfl
@[simp] theorem State.modBowDie_stacks (d : Nat) (f : BowDie → BowDie) : (s.modBowDie d f).hbms = s.hbms := rfl
@[simp] theorem State.modBowDie_lps (d : Nat) (f : BowDie → BowDie) : (s.modBowDie d f).lps = s.lps := rfl
@[simp] theorem State.modBowDie_scr (d : Nat) (f : BowDie → BowDie) : (s.modBowDie d f).scr = s.scr := rfl
@[simp] theorem State.modBowDie_crs (d : Nat) (f : BowDie → BowDie) : (s.modBowDie d f).crs = s.crs := rfl
@[simp] theorem State.modBowDie_capo (d : Nat) (f : BowDie → BowDie) : (s.modBowDie d f).capo = s.capo := rfl
@[simp] theorem State.modBowDie_res (d : Nat) (f : BowDie → BowDie) : (s.modBowDie d f).res = s.res := rfl
@[simp] theorem State.modBowDie_peg (d : Nat) (f : BowDie → BowDie) : (s.modBowDie d f).peg = s.peg := rfl
@[simp] theorem State.modBowDie_uni (d : Nat) (f : BowDie → BowDie) : (s.modBowDie d f).uni = s.uni := rfl
@[simp] theorem State.modBowDie_bridges (d : Nat) (f : BowDie → BowDie) : (s.modBowDie d f).bridges = s.bridges := rfl
@[simp] theorem State.modBowDie_lth (d : Nat) (f : BowDie → BowDie) : (s.modBowDie d f).lth = s.lth := rfl
@[simp] theorem State.modBowDie_jobs (d : Nat) (f : BowDie → BowDie) : (s.modBowDie d f).jobs = s.jobs := rfl
@[simp] theorem State.modBowDie_partCode (d : Nat) (f : BowDie → BowDie) : (s.modBowDie d f).partCode = s.partCode := rfl
@[simp] theorem State.modBowDie_board (d : Nat) (f : BowDie → BowDie) : (s.modBowDie d f).board = s.board := rfl
@[simp] theorem State.modBowDie_boot (d : Nat) (f : BowDie → BowDie) : (s.modBowDie d f).boot = s.boot := rfl
@[simp] theorem State.modBowDie_pins (d : Nat) (f : BowDie → BowDie) : (s.modBowDie d f).pins = s.pins := rfl
@[simp] theorem State.modBowDie_flash (d : Nat) (f : BowDie → BowDie) : (s.modBowDie d f).flash = s.flash := rfl
@[simp] theorem State.modBowDie_vault (d : Nat) (f : BowDie → BowDie) : (s.modBowDie d f).vault = s.vault := rfl
@[simp] theorem State.modBowDie_sec (d : Nat) (f : BowDie → BowDie) : (s.modBowDie d f).sec = s.sec := rfl
@[simp] theorem State.modBowDie_rdata (d : Nat) (f : BowDie → BowDie) : (s.modBowDie d f).rdata = s.rdata := rfl
@[simp] theorem State.modBowDie_fresh (d : Nat) (f : BowDie → BowDie) : (s.modBowDie d f).fresh = s.fresh := rfl
@[simp] theorem State.modBowDie_pending (d : Nat) (f : BowDie → BowDie) : (s.modBowDie d f).pending = s.pending := rfl

/-! ### One unit of a table -/
@[simp] theorem State.core_modCore (g : Nat) (f : Core → Core) : (s.modCore g f).core g = f (s.core g) :=
  Tab.get_update_same _ _ _ _
theorem State.core_modCore_ne (f : Core → Core) {g j : Nat} (h : j ≠ g) : (s.modCore g f).core j = s.core j :=
  Tab.get_update_ne _ _ _ h
@[simp] theorem State.part_modPart (n : Nat) (f : Part → Part) : (s.modPart n f).part n = f (s.part n) :=
  Tab.get_update_same _ _ _ _
theorem State.part_modPart_ne (f : Part → Part) {n k : Nat} (h : k ≠ n) : (s.modPart n f).part k = s.part k :=
  Tab.get_update_ne _ _ _ h
@[simp] theorem State.cluster_modCluster (n : Nat) (f : Cluster → Cluster) : (s.modCluster n f).cluster n = f (s.cluster n) :=
  Tab.get_update_same _ _ _ _
theorem State.cluster_modCluster_ne (f : Cluster → Cluster) {n k : Nat} (h : k ≠ n) : (s.modCluster n f).cluster k = s.cluster k :=
  Tab.get_update_ne _ _ _ h
@[simp] theorem State.die_modDie (n : Nat) (f : Die → Die) : (s.modDie n f).die n = f (s.die n) :=
  Tab.get_update_same _ _ _ _
theorem State.die_modDie_ne (f : Die → Die) {n k : Nat} (h : k ≠ n) : (s.modDie n f).die k = s.die k :=
  Tab.get_update_ne _ _ _ h
@[simp] theorem State.fn_modFn (i : Nat) (f : Fn → Fn) : (s.modFn i f).fn i = f (s.fn i) :=
  Tab.get_update_same _ _ _ _
theorem State.fn_modFn_ne (f : Fn → Fn) {i k : Nat} (h : k ≠ i) : (s.modFn i f).fn k = s.fn k :=
  Tab.get_update_ne _ _ _ h
@[simp] theorem State.scrPart_modScr (n : Nat) (f : ScrPart → ScrPart) : (s.modScr n f).scrPart n = f (s.scrPart n) :=
  Tab.get_update_same _ _ _ _
theorem State.scrPart_modScr_ne (f : ScrPart → ScrPart) {n k : Nat} (h : k ≠ n) : (s.modScr n f).scrPart k = s.scrPart k :=
  Tab.get_update_ne _ _ _ h
@[simp] theorem State.port_modPort (n : Nat) (f : Port → Port) : (s.modPort n f).port n = f (s.port n) :=
  Tab.get_update_same _ _ _ _
theorem State.port_modPort_ne (f : Port → Port) {n k : Nat} (h : k ≠ n) : (s.modPort n f).port k = s.port k :=
  Tab.get_update_ne _ _ _ h
@[simp] theorem State.pair_modPair (n : Nat) (f : Pair → Pair) : (s.modPair n f).pair n = f (s.pair n) :=
  Tab.get_update_same _ _ _ _
theorem State.pair_modPair_ne (f : Pair → Pair) {n k : Nat} (h : k ≠ n) : (s.modPair n f).pair k = s.pair k :=
  Tab.get_update_ne _ _ _ h
@[simp] theorem State.bridge_modBridge (n : Nat) (f : Bridge → Bridge) : (s.modBridge n f).bridge n = f (s.bridge n) :=
  Tab.get_update_same _ _ _ _
theorem State.bridge_modBridge_ne (f : Bridge → Bridge) {n k : Nat} (h : k ≠ n) : (s.modBridge n f).bridge k = s.bridge k :=
  Tab.get_update_ne _ _ _ h
@[simp] theorem State.pool_modPool (n : Nat) (f : Pool → Pool) : (s.modPool n f).pool n = f (s.pool n) :=
  Tab.get_update_same _ _ _ _
theorem State.pool_modPool_ne (f : Pool → Pool) {n k : Nat} (h : k ≠ n) : (s.modPool n f).pool k = s.pool k :=
  Tab.get_update_ne _ _ _ h
@[simp] theorem State.resPart_modRes (n : Nat) (f : ResPart → ResPart) : (s.modRes n f).resPart n = f (s.resPart n) :=
  Tab.get_update_same _ _ _ _
theorem State.resPart_modRes_ne (f : ResPart → ResPart) {n k : Nat} (h : k ≠ n) : (s.modRes n f).resPart k = s.resPart k :=
  Tab.get_update_ne _ _ _ h
@[simp] theorem State.pegQueue_modPegQueue (n : Nat) (f : PegQueue → PegQueue) : (s.modPegQueue n f).pegQueue n = f (s.pegQueue n) :=
  Tab.get_update_same _ _ _ _
theorem State.pegQueue_modPegQueue_ne (f : PegQueue → PegQueue) {n k : Nat} (h : k ≠ n) : (s.modPegQueue n f).pegQueue k = s.pegQueue k :=
  Tab.get_update_ne _ _ _ h
@[simp] theorem State.bowDie_modBowDie (n : Nat) (f : BowDie → BowDie) : (s.modBowDie n f).bowDie n = f (s.bowDie n) :=
  Tab.get_update_same _ _ _ _
theorem State.bowDie_modBowDie_ne (f : BowDie → BowDie) {n k : Nat} (h : k ≠ n) : (s.modBowDie n f).bowDie k = s.bowDie k :=
  Tab.get_update_ne _ _ _ h

end Sys2Proof.Machine
end

