-- ==== Sys2Proof/Laws/Ops.lean ====
section
/-! SUPPORT. Laws of the shared operations: what each can do, once, so that a proof about a command cites it instead of
unfolding it. -/

namespace Sys2Proof.Machine

/-! ### Numbers in memory and counters -/

theorem length_toLE (n v : Nat) : (toLE n v).length = n := by
  induction n generalizing v with
  | zero => rfl
  | succ n ih => simp [toLE, ih]

theorem ofLE_toLE (n v : Nat) : ofLE (toLE n v) = v % 256 ^ n := by
  induction n generalizing v with
  | zero => simp [toLE, ofLE, Nat.mod_one]
  | succ n ih =>
    simp only [toLE, ofLE, ih, BitVec.toNat_ofNat]
    rw [show 256 ^ (n + 1) = 256 * 256 ^ n from Nat.pow_succ', Nat.mod_mul]

namespace Mem

/-- Every cell of a canonical memory lies at or above its lower bound. -/
theorem wfFrom_ge {lo : Nat} {m : Mem} (h : wfFrom lo m = true) : ∀ e ∈ m, lo ≤ e.1 := by
  induction m generalizing lo with
  | nil => simp
  | cons f t ih =>
    obtain ⟨j, w⟩ := f
    simp only [wfFrom, Bool.and_eq_true, decide_eq_true_eq] at h
    intro e he
    rcases List.mem_cons.1 he with rfl | he
    · exact h.1.1
    · have := ih h.2 e he
      omega

/-- The byte that `read` gives at each place. -/
theorem readFrom_eq {lo : Nat} (m : Mem) (a n : Nat) (h : wfFrom lo m = true) (hlo : ∀ e ∈ m, a ≤ e.1) :
    readFrom m a n = (List.range n).map fun i => byte m (a + i) := by
  induction n generalizing m a lo with
  | zero => cases m <;> rfl
  | succ n ih =>
    have hr : List.range (n + 1) = 0 :: (List.range n).map (· + 1) := List.range_succ_eq_map
    rw [hr]
    simp only [List.map_cons, List.map_map, Nat.add_zero]
    have hshift : ∀ m' : Mem, ((List.range n).map ((fun i => byte m' (a + i)) ∘ (· + 1)))
        = (List.range n).map fun i => byte m' (a + 1 + i) := by
      intro m'
      apply List.map_congr_left
      intro i _
      simp [Function.comp, Nat.add_assoc, Nat.add_comm 1 i]
    rw [hshift]
    cases m with
    | nil =>
      simp only [readFrom]
      rw [ih (lo := 0) [] (a + 1) rfl (by simp)]
      rfl
    | cons e t =>
      obtain ⟨i, v⟩ := e
      simp only [wfFrom, Bool.and_eq_true, decide_eq_true_eq] at h
      have hge : ∀ e ∈ t, i + 1 ≤ e.1 := by
        intro e he
        exact wfFrom_ge h.2 e he
      simp only [readFrom]
      split
      · rename_i hia
        subst hia
        rw [ih (lo := i + 1) t (i + 1) h.2 hge]
        congr 1
        · simp [byte]
        · apply List.map_congr_left
          intro k _
          simp [byte, show ¬ i = i + 1 + k by omega]
      · rename_i hia
        have hlt : a + 1 ≤ i := by
          have := hlo (i, v) (by simp)
          simp at this
          omega
        rw [ih (lo := lo) ((i, v) :: t) (a + 1) (by simp [wfFrom, h]) (by
          intro e he
          rcases List.mem_cons.1 he with rfl | he
          · exact hlt
          · have := hge e he; omega)]
        congr 1
        have hb : byte t a = blank := by
          have hn : ∀ e ∈ t, e.1 ≠ a := fun e he => by have := hge e he; omega
          have := byte_append t [] a hn
          simpa [byte] using this
        simp [byte, hia, hb]

/-- A read gives the bytes that the memory holds. -/
theorem read_eq {m : Mem} (a n : Nat) (h : m.wf = true) : m.read a n = (List.range n).map fun i => byte m (a + i) := by
  unfold read
  rw [readFrom_eq (lo := a) _ a n (wfFrom_from (lo := 0) a h) (from_ge (lo := 0) a h)]
  apply List.map_congr_left
  intro i _
  exact byte_from (by omega)

/-- What has been written is read back. -/
theorem read_write {m : Mem} (a : Nat) (bs : List Byte) (h : m.wf = true) : (m.write a bs).read a bs.length = bs := by
  rw [read_eq a _ (wf_write a bs h)]
  apply List.ext_getElem (by simp)
  intro i h1 h2
  simp only [List.getElem_map, List.getElem_range]
  rw [byte_write_in a bs h h2]
  simp [h2]

/-- A read of other bytes finds them as they were. -/
theorem read_write_out {m : Mem} (a : Nat) (bs : List Byte) {b n : Nat} (h : m.wf = true)
    (hb : b + n ≤ a ∨ a + bs.length ≤ b) : (m.write a bs).read b n = m.read b n := by
  rw [read_eq b n (wf_write a bs h), read_eq b n h]
  apply List.map_congr_left
  intro i hi
  have := List.mem_range.1 hi
  exact byte_write_out a bs h (by omega)

/-- A number that has been written is read back. -/
theorem num_setNum {m : Mem} (a n v : Nat) (h : m.wf = true) : (m.setNum a n v).num a n = v % 256 ^ n := by
  unfold num setNum
  have := read_write a (toLE n v) h
  rw [length_toLE] at this
  rw [this, ofLE_toLE]

theorem num_setNum_out {m : Mem} (a n v : Nat) {b k : Nat} (h : m.wf = true) (hb : b + k ≤ a ∨ a + n ≤ b) :
    (m.setNum a n v).num b k = m.num b k := by
  unfold num setNum
  rw [read_write_out a _ h (by rw [length_toLE]; exact hb)]

end Mem

/-- A counter reads what has been written to it. -/
theorem State.counter_setCounter (s : State) (c : Nat) (v : W64) (h : s.mems.cm.wf = true) : (s.setCounter c v).counter c = v := by
  simp only [State.counter, State.setCounter, State.modMems]
  rw [Mem.num_setNum _ _ _ h]
  apply BitVec.eq_of_toNat_eq
  simp only [BitVec.toNat_ofNat]
  have := v.isLt
  omega

/-- Two counters that differ in their 17 bits lie apart. -/
theorem counterAddr_apart {a b : Nat} (ha : a < 2 ^ 17) (hb : b < 2 ^ 17) (h : a ≠ b) :
    counterAddr a + 8 ≤ counterAddr b ∨ counterAddr b + 8 ≤ counterAddr a := by
  simp only [counterAddr, field] at *
  omega

/-- Every other counter reads as before. -/
theorem State.counter_setCounter_ne (s : State) {a b : Nat} (v : W64) (h : s.mems.cm.wf = true) (ha : a < 2 ^ 17) (hb : b < 2 ^ 17)
    (hab : b ≠ a) : (s.setCounter a v).counter b = s.counter b := by
  simp only [State.counter, State.setCounter, State.modMems]
  rw [Mem.num_setNum_out _ _ _ h]
  rcases counterAddr_apart hb ha hab with h | h
  · exact .inl h
  · exact .inr h

/-- Adding to a counter adds modulo `2^64` (R100). -/
theorem State.counter_addCounter (s : State) (c : Nat) (v : W64) (h : s.mems.cm.wf = true) :
    (s.addCounter c v).counter c = s.counter c + v := s.counter_setCounter c _ h

/-! ### Host commands -/

/-- A host command that stands ready has its effect, after which the hub fetches. -/
theorem State.hostCommand_ready {s : State} {n op : Nat} {c : Cmd} (f : Cmd → State → State) (h : s.ready n op c) :
    s.hostCommand n op f = .next ((f c (s.begun n)).hubFetch) := by
  obtain ⟨h1, h2, h3, h4, h5⟩ := h
  simp [State.hostCommand, h1, h2, h3, h4, h5, State.begun]

/-- A row without an accepted command of its number does nothing. -/
theorem State.hostCommand_none {s : State} {n op : Nat} (f : Cmd → State → State) (h : s.cmd n = none) :
    s.hostCommand n op f = .next s := by
  simp [State.hostCommand, h]

/-- A row always answers a next state. -/
theorem State.hostCommand_next (s : State) (n op : Nat) (f : Cmd → State → State) : ∃ t, s.hostCommand n op f = .next t := by
  unfold State.hostCommand
  split
  · exact ⟨_, rfl⟩
  · split
    · exact ⟨_, rfl⟩
    · split
      · exact ⟨_, rfl⟩
      · split <;> exact ⟨_, rfl⟩

/-! ### The issue point (R92 to R97) -/

/-- What it takes for a core to issue the descriptor at its pc. -/
theorem State.gate_go {s : State} {g : Nat} {sel : Nat → Bool} {fenced : Bool} {load depth d : Nat}
    (h : s.gate g sel fenced load depth = .go d) :
    g < numCores ∧ (s.core g).issuing = true ∧ (s.core g).ctx.any (s.folding (s.core g).part) = false
      ∧ (s.core g).fetched (s.core g).pc = some (.word d) ∧ sel d = true
      ∧ ((dType d = tyTile ∧ dTemplate d = true) ∨ ((fenced = true ∨ dFence d = true → (s.core g).issued = []) ∧ load < depth)) := by
  unfold State.gate at h
  dsimp only at h
  split at h
  · cases h
  · rename_i h0
    simp only [Bool.or_eq_true, not_or, Bool.not_eq_true', Bool.not_eq_false, Bool.and_eq_true, decide_eq_true_eq,
      Bool.not_eq_true] at h0
    split at h
    · cases h
    · cases h
    · rename_i e he
      split at h
      · cases h
      · rename_i h2
        simp only [Bool.not_eq_true', Bool.not_eq_false] at h2
        split at h
        · rename_i ht
          cases h
          simp only [Bool.and_eq_true, decide_eq_true_eq] at ht
          exact ⟨h0.1.1, h0.1.2, h0.2, he, h2, .inl ht⟩
        · split at h
          · cases h
          · rename_i h3
            split at h
            · cases h
            · rename_i h4
              cases h
              refine ⟨h0.1.1, h0.1.2, h0.2, he, h2, .inr ⟨?_, by omega⟩⟩
              intro hf
              simp only [Bool.and_eq_true, Bool.or_eq_true, not_and, Bool.not_eq_true'] at h3
              simpa using h3 hf

/-- An issuing core runs a context, is in state 1, has no request to stop, and has descriptors left. -/
theorem Core.issuing_iff (k : Core) : k.issuing = true ↔
    k.ctx.isSome = true ∧ k.state = .issuing ∧ k.stopReq = false ∧ k.resumePoint = none ∧ k.pc < k.count := by
  simp [Core.issuing, and_assoc]

/-- The pc, the counters and the open segment of a core after it has issued. -/
theorem State.core_advance (s : State) (g : Nat) : (s.advance g).core g = { s.core g with
    pc := (s.core g).pc + 1, issueCnt := wrapAdd 64 (s.core g).issueCnt 1, dcHits := wrapAdd 32 (s.core g).dcHits 1
    serial := (s.core g).serial + 1, fenceWait := false, queueFull := false
    pairs := (s.core g).pairs.filter fun e => e.2 + 1 != (s.core g).pc
    seg := (s.core g).seg.map fun q => { q with count := q.count + 1 } } := by
  simp [State.advance]

/-- A core with descriptors left does not finish its program (R335). -/
theorem State.finishProgram_of_lt {s : State} {g : Nat} (h : (s.core g).pc < (s.core g).count) : s.finishProgram g = s := by
  unfold State.finishProgram
  dsimp only
  have : ¬ (s.core g).count ≤ (s.core g).pc := by omega
  split
  · rfl
  · split
    · rfl
    · simp [this]

/-- Without an error the descriptor goes on. -/
@[simp] theorem State.onDieRead_none (s : State) (g m cl kind index : Nat) (sp cm dev : Bool) (go : State → State) :
    s.onDieRead g m cl kind index sp cm dev .none go = go s := rfl

/-- A descriptor that completes at issue, while descriptors are left: its done counter and its descriptor-done count (R103). -/
theorem State.completeNow_of_lt {s : State} {g : Nat} (d : Nat) (h : (s.core g).pc < (s.core g).count) :
    s.completeNow g d =
      let s := if dDoneEn d then s.addCounter (ownDie g (dDoneCtr d)) 1 else s
      if dIrq d then s.modCore g fun k => { k with descDone := satAdd 16 k.descDone 1 } else s := by
  have ha : ∀ c v, (s.addCounter c v).core g = s.core g := fun _ _ => rfl
  unfold State.completeNow
  apply State.finishProgram_of_lt
  cases dDoneEn d <;> cases dIrq d <;> simp [ha, h]

/-! ### Statuses and faults: what they leave alone -/

/-- A status changes the hub, host memory and the supply of free values alone. -/
theorem State.flushStatuses_frame (s : State) (f q k : Nat) : let t := s.flushStatuses f q k
    t = { s with hub := t.hub, mems := { s.mems with host := t.mems.host }, fresh := t.fresh } := by
  induction k generalizing s with
  | zero => rfl
  | succ k ih =>
    simp only [State.flushStatuses]
    split
    · rfl
    · split
      · rfl
      · rw [ih]
        rfl

theorem State.status_frame (s : State) (f q : Nat) (st : List Byte) : let t := s.status f q st
    t = { s with hub := t.hub, mems := { s.mems with host := t.mems.host }, fresh := t.fresh } := by
  unfold State.status
  split
  · rfl
  · dsimp only
    rw [State.flushStatuses_frame]
    rfl

theorem State.cores_status (s : State) (f q : Nat) (st : List Byte) : (s.status f q st).cores = s.cores := by
  rw [State.status_frame]

theorem State.cores_finish (s : State) (n code detail : Nat) : (s.finish n code detail).cores = s.cores := by
  unfold State.finish
  split
  · rfl
  · dsimp only
    split
    · rfl
    · rw [State.cores_status]

/-! ### Device writes: what they leave alone, and the canonical form -/

/-- A fold of steps that keep a relation keeps it. -/
theorem foldl_rel {α β : Type} (R : α → α → Prop) (refl : ∀ a, R a a) (trans : ∀ a b c, R a b → R b c → R a c) (f : α → β → α)
    (h : ∀ a b, R a (f a b)) (l : List β) (a : α) : R a (l.foldl f a) := by
  induction l generalizing a with
  | nil => exact refl a
  | cons b l ih => exact trans _ _ _ (h a b) (ih (f a b))

/-- Two states differ in the memories and the Fretboard alone. -/
def State.sameBut (s t : State) : Prop := t = { s with mems := t.mems, frt := t.frt }

theorem State.sameBut_refl (s : State) : s.sameBut s := rfl

theorem State.sameBut_trans (s t u : State) (h : s.sameBut t) (k : t.sameBut u) : s.sameBut u := by
  unfold State.sameBut at *
  rw [k, h]

/-- A store changes the memories, or the writes that the snoop filter holds, alone (R246). -/
theorem State.storeUnder_sameBut (s : State) (e a : Nat) (bs : List Byte) : s.sameBut (s.storeUnder e a bs) := by
  unfold State.storeUnder
  split
  · rfl
  · apply foldl_rel State.sameBut State.sameBut_refl State.sameBut_trans
    intro t x
    obtain ⟨b, xs⟩ := x
    dsimp only
    split
    · split <;> rfl
    · rfl

theorem State.devPut_sameBut (s : State) (a : Nat) (bs : List Byte) : s.sameBut (s.devPut a bs) := by
  unfold State.devPut
  exact foldl_rel (fun (x y : State × List Byte) => x.1.sameBut y.1) (fun x => x.1.sameBut_refl)
    (fun x y z => State.sameBut_trans x.1 y.1 z.1) _ (fun x b => by
      obtain ⟨t, bs⟩ := x
      obtain ⟨b, m⟩ := b
      exact State.storeUnder_sameBut t _ b _) _ (s, bs)

/-- A write of device memory changes the memories, or the writes that the snoop filter holds, alone. -/
theorem State.devWrite_sameBut {s t : State} {p a : Nat} {who : Who} {bs : List Byte} (h : s.devWrite p who a bs = .ok t) :
    s.sameBut t := by
  unfold State.devWrite at h
  split at h
  · cases h; exact s.devPut_sameBut a bs
  · cases h
  · cases h

/-- A store at a location keeps every memory canonical. -/
theorem State.memsWf_writeLoc {s : State} (l : Loc) (bs : List Byte) (h : s.memsWf) : (s.modMems fun m => m.writeLoc l bs).memsWf := by
  obtain ⟨h1, h2, h3, h4, h5, h6, h7, h8, h9⟩ := h
  cases l <;> refine ⟨?_, ?_, ?_, ?_, ?_, ?_, ?_, ?_, ?_⟩ <;> first | assumption | exact Mem.wf_write _ _ (by assumption)

theorem State.memsWf_spWrite {s : State} (g o : Nat) (bs : List Byte) (h : s.memsWf) : (s.spWrite g o bs).memsWf := by
  obtain ⟨h1, h2, h3, h4, h5, h6, h7, h8, h9⟩ := h
  exact ⟨Mem.wf_write _ _ h1, h2, h3, h4, h5, h6, h7, h8, h9⟩

theorem State.memsWf_cmWrite {s : State} (k o : Nat) (bs : List Byte) (h : s.memsWf) : (s.cmWrite k o bs).memsWf := by
  obtain ⟨h1, h2, h3, h4, h5, h6, h7, h8, h9⟩ := h
  exact ⟨h1, Mem.wf_write _ _ h2, h3, h4, h5, h6, h7, h8, h9⟩

theorem State.memsWf_hostWrite {s : State} (a : Nat) (bs : List Byte) (h : s.memsWf) : (s.hostWrite a bs).memsWf := by
  obtain ⟨h1, h2, h3, h4, h5, h6, h7, h8, h9⟩ := h
  exact ⟨h1, h2, h3, h4, h5, h6, Mem.wf_write _ _ h7, h8, h9⟩

theorem State.memsWf_addCounter {s : State} (c : Nat) (v : W64) (h : s.memsWf) : (s.addCounter c v).memsWf := by
  obtain ⟨h1, h2, h3, h4, h5, h6, h7, h8, h9⟩ := h
  exact ⟨h1, Mem.wf_setNum _ _ _ h2, h3, h4, h5, h6, h7, h8, h9⟩

theorem State.memsWf_storeUnder {s : State} (e a : Nat) (bs : List Byte) (h : s.memsWf) : (s.storeUnder e a bs).memsWf := by
  unfold State.storeUnder
  split
  · exact State.memsWf_writeLoc _ _ h
  · rename_i hc
    clear hc
    generalize splitLines (bs.length / 64 + 2) a bs = l
    induction l generalizing s with
    | nil => exact h
    | cons x l ih =>
      rw [List.foldl_cons]
      apply ih
      obtain ⟨b, xs⟩ := x
      dsimp only
      split
      · split
        · exact h
        · exact State.memsWf_writeLoc _ _ h
      · exact State.memsWf_writeLoc _ _ h

theorem State.memsWf_devPut {s : State} (a : Nat) (bs : List Byte) (h : s.memsWf) : (s.devPut a bs).memsWf := by
  unfold State.devPut
  generalize pieces a bs.length = l
  induction l generalizing s bs with
  | nil => exact h
  | cons x l ih => exact ih _ (State.memsWf_storeUnder _ _ _ h)

/-- A write of device memory keeps every memory canonical. -/
theorem State.memsWf_devWrite {s t : State} {p a : Nat} {who : Who} {bs : List Byte} (h : s.devWrite p who a bs = .ok t)
    (hs : s.memsWf) : t.memsWf := by
  unfold State.devWrite at h
  split at h
  · cases h; exact State.memsWf_devPut a bs hs
  · cases h
  · cases h

/-! ### Faults of a core (R121): the core stands still, faulted, with the first fault recorded -/

theorem State.cores_hubWrite (s : State) (p source : Nat) (who : Who) (a : Nat) (bs : List Byte) :
    (s.hubWrite p source who a bs).cores = s.cores := by
  unfold State.hubWrite State.noteFault
  split
  · rename_i h
    have := State.devWrite_sameBut h
    unfold State.sameBut at this
    rw [this]
  · split <;> rfl
  · rfl

theorem State.cores_modJob (s : State) (j : Nat) (f : CapoJob → CapoJob) : (s.modJob j f).cores = s.cores := rfl

theorem State.cores_capoEntry (s : State) (j a b c d e : Nat) : (s.capoEntry j a b c d e).cores = s.cores := by
  unfold State.capoEntry
  dsimp only
  rw [State.cores_modJob, State.cores_hubWrite]

theorem State.cores_capoFinish (s : State) (j : Nat) : (s.capoFinish j).cores = s.cores := by
  unfold State.capoFinish
  split
  · rfl
  · dsimp only [State.draw]
    split
    · rw [State.cores_modJob, State.cores_capoEntry, State.cores_modJob]
    · rw [State.cores_modJob]

theorem State.cores_modCtx (s : State) (n c : Nat) (f : Ctx → Ctx) : (s.modCtx n c f).cores = s.cores := by
  unfold State.modCtx
  split <;> rfl

theorem State.cores_endLaunch (s : State) (n c code detail : Nat) : (s.endLaunch n c code detail).cores = s.cores := by
  unfold State.endLaunch
  split
  · rfl
  · split
    · rfl
    · dsimp only
      rw [State.cores_finish]
      split
      · rw [State.cores_capoFinish, State.cores_modCtx]
      · rw [State.cores_modCtx]

/-- A core that has faulted keeps its state when its context's cores are told to stop. -/
theorem State.core_stopCores {s : State} {g n c : Nat} (h : (s.core g).state = .faulted) : (s.stopCores n c).core g = s.core g := by
  unfold State.stopCores
  split
  · rfl
  · rename_i x hx
    generalize x.coreList = l
    clear hx
    have step : ∀ (s : State) (e : Nat), (s.core g).state = .faulted →
        (if (s.core e).part = n && (s.core e).ctx = some c
            && ((s.core e).state = .issuing || (s.core e).state = .waiting || (s.core e).state = .held) then
          s.modCore e fun k => { k with stopReq := true, state := .stopping } else s).core g = s.core g := by
      intro s e h
      by_cases hg : g = e
      · subst hg
        simp [h]
      · split
        · exact State.core_modCore_ne _ _ hg
        · rfl
    induction l generalizing s with
    | nil => rfl
    | cons e l ih =>
      rw [List.foldl_cons, ih (by rw [step s e h]; exact h), step s e h]

/-- The cycles of a WAIT enter one counter of the core alone (R122). -/
theorem State.core_waitedCycles (s : State) (g : Nat) : (s.waitedCycles g).core g =
    { s.core g with waitCycles := ((s.waitedCycles g).core g).waitCycles } := by
  unfold State.waitedCycles
  split
  · rfl
  · dsimp only [State.draw]
    rw [State.core_modCore]
    rfl

/-- After a sequencer fault the core is faulted, its first fault stands recorded, and nothing else of it has changed but the
reasons for which it waited and the count of the cycles that it has. -/
theorem State.core_seqFault (s : State) (g cause kind index : Nat) : (s.seqFault g cause kind index).core g = { s.core g with
    waitCycles := ((s.waitedCycles g).core g).waitCycles
    seqErr := match (s.core g).seqErr with
      | some r => some r
      | none => some { cause := cause, kind := kind, index := index }
    state := .faulted, fenceWait := false, queueFull := false, wait := none } := by
  unfold State.seqFault
  dsimp only
  have h := s.core_waitedCycles g
  generalize s.waitedCycles g = t at h ⊢
  split
  · rw [State.core_modCore, h]
    all_goals (cases (s.core g).seqErr <;> rfl)
  · unfold State.stopContext
    dsimp only
    rw [State.core, State.cores_endLaunch, State.cores_modCtx, ← State.core]
    rw [State.core_stopCores (by simp), State.core_modCore, h]
    all_goals (cases (s.core g).seqErr <;> rfl)

/-- The link trains to a width, a rate and a flit mode of R319. -/
theorem trainedLink_allowed (free : Nat) : let l := trainedLink free
    l.lanes ∈ [4, 8, 16] ∧ l.rate ∈ [8, 16, 32, 64] ∧ (l.flit68 = true → l.rate ≤ 32) := by
  have a : field free 1 0 < 4 := by unfold field; omega
  have b : field free 3 2 < 4 := by unfold field; omega
  unfold trainedLink
  generalize field free 1 0 = x at a ⊢
  generalize field free 3 2 = y at b ⊢
  have ha : x = 0 ∨ x = 1 ∨ x = 2 ∨ x = 3 := by omega
  have hb : y = 0 ∨ y = 1 ∨ y = 2 ∨ y = 3 := by omega
  rcases ha with rfl | rfl | rfl | rfl <;> rcases hb with rfl | rfl | rfl | rfl <;> simp

end Sys2Proof.Machine
end

