-- ==== Sys2Proof/WellFormed.lean ====
section
/-! DEFINITION. Well-formed commands: the ranges of the operands that name a core, an engine, a queue, a die and the like
(R12, R248, R300, R321, R323, R345). A meaning leaves the state unchanged where a name is out of range. -/

namespace Sys2Proof

/-- The operands of a memory controller. -/
def MemCtl.wf : MemCtl → Bool
  | .hbm s => decide (s < 12)
  | .lp i => decide (i < 16)

/-- What a read meets. -/
def ReadError.wf : ReadError → Bool
  | .demand c _ => c.wf
  | _ => true

/-- The operands of a training interface. -/
def TrainIface.wf : TrainIface → Bool
  | .hbm s => decide (s < 12)
  | .lp i => decide (i < 16)
  | .vault c => decide (c < 8)

/-- The operands of a host read. -/
def HostRead.wf : HostRead → Bool
  | .fetch f q => decide (f < 18 ∧ q < 32)
  | .sample p => decide (p < 16)
  | .command _ => true
  | .firmware _ code => decide (code < 2 ^ 64)

/-- What a function-level reset names. -/
def ResetTarget.wf : ResetTarget → Bool
  | .vf k => decide (1 ≤ k ∧ k ≤ 16)
  | _ => true

/-- Well-formed operands of a command. -/
def Instr.wf : Instr → Bool
  | .sqDoorbell f q v => decide (f < 18 ∧ q < 32 ∧ v < 2 ^ 32)
  | .cqDoorbell f q v => decide (f < 18 ∧ q < 32 ∧ v < 2 ^ 32)
  | .queueEnable f q v => decide (f < 18 ∧ q < 32 ∧ v < 2 ^ 64)
  | .queueDisable f q v => decide (f < 18 ∧ q < 32 ∧ v < 2 ^ 64)
  | .commandFetchTimeout r => r.wf
  | .functionLevelReset t => t.wf
  | .busMasterDisable f => decide (f < 18)
  | .hostWindowAccess o d _ => decide (o < 2 ^ 38) && (match d with
    | some bs => bs.length == 64
    | none => true)
  | .tile g | .tileStart g | .replayStart g | .gather g | .gatherWaitBound g
  | .moveComplete g _ | .waitComplete g | .waitExpire g | .jump g | .stepMark g | .segBegin g
  | .segEnd g | .descriptorLineArrive g | .allReduce g | .reduceScatter g | .allGather g | .allToAll g
  | .normGather g | .collComplete g _ | .scrollPutContinue g _
  | .versionClaim g | .versionAdvance g | .quantumExpiry g | .reservedTypeDescriptor g =>
    decide (g < 256)
  | .epilogue g e | .vec g e | .move g e | .wait g e | .signal g e | .update g e | .scrollPut g e | .scrollGet g e =>
    decide (g < 256) && e.wf
  | .replayEntry c | .coreBoundaryReached c => decide (c.core < 256) && c.err.wf
  | .spillPoint g e h => decide (g < 256 ∧ e < 4 ∧ h < 2)
  | .tileDrain g e => decide (g < 256 ∧ e < 4)
  | .parityError g e h step _ => decide (g < 256 ∧ e < 4 ∧ h < 2 ∧ step < 2 ^ 14)
  | .scrollMigrate p | .scrollDemote p | .scrollPromote p | .mirrorApply p => decide (p < 16)
  | .stepFold p c => decide (p < 16 ∧ c < 64)
  | .swapCopyComplete p x _ => decide (p < 16 ∧ x < 2 ^ 22)
  | .fretboardWalk d k x => decide (d < 4 ∧ k < 32 ∧ x < 2 ^ 22)
  | .pageMoveComplete x _ => decide (x < 2 ^ 22)
  | .drainPageDone x => decide (x.page < 2 ^ 22)
  | .memoryUncorrectableError x o => decide (x < 2 ^ 22 ∧ o < 2 ^ 19)
  | .scrubRead c _ o _ => c.wf && decide (o < 2 ^ 19)
  | .stackFailed s => decide (s < 12)
  | .lpInterfaceFailed i => decide (i < 16)
  | .flitReceive c f => decide (c < 16 ∧ f.bytes.length = 256)
  | .linkControlFlit c _ => decide (c < 16)
  | .messageReceive c => decide (c ≤ 16)
  | .courseRetrain c _ => decide (c < 16)
  | .courseTrainingAttemptEnd c _ peer => decide (c < 16 ∧ peer < 2 ^ 12)
  | .sampleDecodeDone p _ => decide (p < 16)
  | .sampleEmit q => decide (q < 16)
  | .decodeTimeout p => decide (p < 16)
  | .unisonSetComplete g => decide (g < 4)
  | .capoMilestone j | .capoDeadline j => decide (j < 16)
  | .capoEnable j v => decide (j < 16 ∧ v < 2 ^ 64)
  | .sourceAssert b src => decide (b < 5 ∧ src < 1024)
  | .groupTimerRelease b g => decide (b < 5 ∧ g < 16)
  | .claim b t => decide (b < 4 ∧ t < 64 ∨ b = 4 ∧ t < 5)
  | .brgComplete b v | .brgCtrl b v => decide (b < 5 ∧ v < 2 ^ 32)
  | .brgPendSet b w v | .brgPendClr b w v | .brgMaskSet b w v | .brgMaskClr b w v =>
    decide (b < 5 ∧ w < 32 ∧ v < 2 ^ 32)
  | .registerReadRc f a => decide (f < 18 ∧ a < addrSpace)
  | .registerWrite f a v => decide (f < 18 ∧ a < addrSpace ∧ v < 2 ^ 64)
  | .retrain c v => decide (c < 16 ∧ v < 2 ^ 64)
  | .format v => decide (v < 2 ^ 32)
  | .grantPeriod ds ws => decide (ds.length = 6 ∧ ws.length = 4)
  | .gatingUpdate d _ => decide (d < 4)
  | .voltageConfirm d _ => decide (d < 4)
  | .rampUpdate d => decide (d < 4)
  | .droop d => decide (d < 4)
  | .droopRecover d => decide (d < 4)
  | .hotStep d => decide (d < 4)
  | .glideComplete d => decide (d < 4)
  | .thermalSample rs => decide (rs.length = 272)
  | .trainingAttemptEnd i _ _ => i.wf
  | .referenceClockLoss c => decide (c < 5)
  | .busMasterEnable f => decide (f < 18)
  | .identify _ | .getCaps _ | .partitionCreate _ | .partitionDestroy _ | .partitionReset _ | .contextCreate _
  | .contextDestroy _ | .mapPages _ | .unmapPages _ | .copy _ | .loadProgram _ | .launch _ | .preempt _ | .resume _
  | .stepBegin _ | .stepEnd _ | .submitSamples _ | .sensorConfig _ | .kvSeqOpen _ | .kvSeqClose _ | .kvFork _
  | .checkpointBegin _ | .checkpointCommit _ | .checkpointRestore _ | .vaultRead _ | .vaultWrite _ | .pairBind _
  | .adoptNode _ | .spareFill _ | .pairRelease _ | .setTime _ | .readLifeLog _ | .powerBudget _ | .fwStage _
  | .fwActivate _ | .attest _ | .debugUnlock _ | .debugReadAcc _ => true
  | .birsp _ | .spdmRequest _ | .sidebandMessage _ | .pipeDispatch | .luthierEvaluation | .thermtrip | .coldReset _ _
  | .warmReset _ _ _ | .powerLoss | .bringUpReady _ | .logRecordWrite _ | .lifeLogSummary | .vaultProgramFail | .vaultScrub _
  | .wearLevelMove | .vfEnable | .commitRecordDurable | .cxlLinkUp => true

end Sys2Proof
end

