-- ==== Sys2Proof/Tests/Slice0.lean ====
section
/-! SUPPORT. The model's own tests: an ill-formed command for each check of well-formedness, and for each clause of each
statement a small state that meets its hypotheses together, most of them with what the command then does. Every expected value is
worked out by hand from the rules named. -/


namespace Sys2Proof.Tests

set_option Elab.async false

open Machine

/-! ### Helpers -/

/-- The state after a command. -/
def after (i : Instr) (s : State) : State :=
  match exec i s with
  | .next t => t
  | .fault _ | .refused _ => s

/-- A number from its fields: byte offset, bytes, value. -/
def wordOf (fs : List (Nat × Nat × Nat)) : Nat := (fs.map fun (o, n, v) => v % 256 ^ n * 256 ^ o).sum
/-- A packet of 64 bytes from its fields. -/
def pkt (fs : List (Nat × Nat × Nat)) : List Byte := toLE 64 (wordOf fs)
/-- A descriptor of a type from its fields. -/
def desc (ty : Nat) (fs : List (Nat × Nat × Nat)) : Nat := wordOf ((0, 1, ty) :: fs)

/-- A context on granule 0 whose LAUNCH, command 90, runs on core 0. -/
def ctxA : Ctx := { gen := 1, gmask := 1, spUnits := 0x10000, lsMask := 0xFF, cores := [(0, { progBase := 2 ^ 21, progCount := 8, finished := false })]
                    launch := some { cmd := 90 }, step := 5, stepOpen := true }
/-- The handle of that context. -/
def hA : Nat := 0x10000
/-- The entry of a plain page of partition 0 in HBM3E tier 0. -/
def plainEntry (frame : Nat) : Nat := mkEntry 0 0 0 1 0 0 false false false frame
/-- Core 0 issues from a program of 8 descriptors at address `2^21`. -/
def coreA : Core := { ctx := some 0, state := .issuing, base := 2 ^ 21, count := 8 }

/-- A package in service: partition 0 has granule 0, context A runs on core 0, pages 1 to 15 (of 512 KiB) are mapped. -/
def sysA : State :=
  { boot := { stage := 5, granuleOk := 0xFFFF }, parts := [(0, { state := 1, gmask := 1, created := 1, ctxs := [(0, ctxA)] })]
    frt := { entry := (List.range 15).map fun i => (i + 1, plainEntry (i + 1)) }
    hub := { fns := [(0, { busMaster := true, queues := [(0, { enable := true, size := 8, cqBase := 0x1000 })] })], nextNumber := 50 }
    cores := [(0, coreA)] }

/-- The package with core 0 changed. -/
def core0 (s : State) (f : Core → Core) : State := s.modCore 0 f
/-- The package with descriptors at the start of the program of core 0, in device memory and in the descriptor cache. -/
def withDescs (s : State) (ds : List Nat) : State :=
  core0 (s.devPut (2 ^ 21) (ds.flatMap (toLE 64))) fun k => { k with cacheLines := [(0, ds.map .word)] }
/-- The package with a descriptor at the issue point of core 0. -/
def withDesc (s : State) (d : Nat) : State := withDescs s [d]
/-- The package with an accepted command 7 of PF0. -/
def withCmd (s : State) (p : List Byte) : State :=
  { s with hub := { s.hub with accepted := [{ number := 7, fn := 0, queue := 0, opcode := pkOpcode p, tag := 3, packet := p }] } }
/-- That command. -/
def cmdOf (p : List Byte) : Cmd := { number := 7, fn := 0, queue := 0, opcode := pkOpcode p, tag := 3, packet := p }

/-! ### Matrix engines (TileIssue, TileRuns) -/

/-- A TILE of one output: BF16 by BF16, one step, A at unit 0, B at unit 1, FP32 output at unit 2. -/
def tileF : List (Nat × Nat × Nat) := [(18, 2, 1), (20, 1, 1), (21, 1, 1), (22, 1, 0x11), (24, 1, 0x38), (28, 2, 0), (30, 2, 1), (32, 2, 2), (34, 2, 1), (36, 2, 1), (38, 2, 1), (52, 2, 0xFFFF)]
def tileD : Nat := desc 1 tileF
/-- The same as a template, bit 10. -/
def templateD : Nat := desc 1 ((1, 1, 4) :: tileF)
/-- With no rows. -/
def emptyD : Nat := tileD - 2 ^ 160
/-- With token counter 0 and row_base 0. -/
def tokenD : Nat := tileD - 0xFFFF * 2 ^ 416
/-- Core 0 with BF16 3.0 and 2.0 in its scratchpad. -/
def sysT : State := (sysA.spWrite 0 0 (toLE 2 0x4040)).spWrite 0 64 (toLE 2 0x4000)

theorem test_tile : let s := withDesc sysA tileD
    s.issues 0 (dType · == tyTile) false 0 16 tileD ∧ tileFaultCause tileD (s.classF 0) false false 0 = none
      ∧ dTemplate tileD = false ∧ T.tokCtr tileD = 0xFFFF ∧ T.m tileD ≠ 0 ∧ T.n tileD ≠ 0
      ∧ tileInRange tileD 0 1 (0, 1) (2, 1) = true ∧ ((after (.tile 0) s).core 0).tiles.length = 1 := by decide +kernel

theorem test_tile_template : let s := withDesc sysA templateD
    s.issues 0 (dType · == tyTile) false 0 16 templateD ∧ dTemplate templateD = true
      ∧ ((after (.tile 0) s).core 0).pc = 1 ∧ ((after (.tile 0) s).core 0).tiles = [] := by decide +kernel

theorem test_tile_empty : let s := withDesc sysA emptyD
    s.issues 0 (dType · == tyTile) false 0 16 emptyD ∧ tileFaultCause emptyD (s.classF 0) false false 0 = none
      ∧ T.tokCtr emptyD = 0xFFFF ∧ T.m emptyD = 0 ∧ dDoneEn emptyD = false ∧ ((after (.tile 0) s).core 0).empty = 1 := by decide +kernel

theorem test_tile_suppressed : let s := withDesc sysA tokenD
    s.issues 0 (dType · == tyTile) false 0 16 tokenD ∧ tileFaultCause tokenD (s.classF 0) false false 0 = none
      ∧ T.tokCtr tokenD = 0 ∧ s.clusterIn 0 (counterCluster (ownDie 0 0)) = true ∧ T.m tokenD ≠ 0 ∧ T.n tokenD ≠ 0
      ∧ tileInRange tokenD 0 1 (0, 1) (2, 1) = true ∧ (s.counter (ownDie 0 0)).toNat ≤ T.rowBase tokenD ∧ dDoneEn tokenD = false
      ∧ ((after (.tile 0) s).core 0).suppressed = 1 ∧ ((after (.tile 0) s).core 0).tiles = [] := by decide +kernel

/-- A GATHER of one row with the template that stands at index 1. -/
def gatherD : Nat := desc 7 [(8, 4, 1), (21, 1, 1), (24, 2, 1), (26, 2, 2), (28, 2, 1)]
def sysG : State := core0 ((withDesc sysA gatherD).devPut (2 ^ 21 + 64) (toLE 64 templateD)) fun k => { k with waitBound := 100 }

theorem test_gather : sysG.issues 0 (dType · == tyGather) false 0 64 gatherD ∧ sysG.descriptor 0 1 = .ok templateD
      ∧ dType templateD = tyTile ∧ dTemplate templateD = true ∧ G.template gatherD < (sysG.core 0).count
      ∧ tileFaultCause (dset templateD 20 6 0 (G.rows gatherD)) (sysG.classF 0) true false 0 = none ∧ G.rows gatherD ≠ 0 ∧ G.rows gatherD < 64
      ∧ tileInRange templateD 0 1 (0, 1) (2, 1) = true ∧ (sysG.core 0).gatherOpen = [] ∧ (sysG.core 0).gatherWait = [] ∧ (sysG.core 0).waitBound ≠ 0
      ∧ ((after (.gather 0) sysG).core 0).gatherOpen.length = 1 := by decide +kernel

theorem test_gather_wait_bound : let s := after (.gather 0) sysG
    s.dieOff (dieOf 0) = false ∧ (s.core 0).gatherOpen.map (fun q => (q.serial, T.n q.template)) = [(0, 1)] ∧ (s.core 0).gatherWait = []
      ∧ ((after (.gatherWaitBound 0) s).core 0).tiles.map (fun t => (t.m, t.index)) = [(1, 1)]
      ∧ ((after (.gatherWaitBound 0) s).core 0).gatherPartial = 1 := by decide +kernel

/-- Core 0 with the tile queued, at current-ramp stage 1. -/
def sysQ : State := after (.tile 0) (withDesc sysT tileD)
/-- The tile started on engine 0: three times two is 6. -/
def sysS : State := after (.tileStart 0) sysQ

theorem test_tile_start : (sysQ.core 0).tiles.find? (·.phase == .queued) = (sysQ.core 0).tiles.head?
      ∧ (sysQ.core 0).pickEngine [tileD] (sysQ.classF 0) [] = some 0 ∧ sysQ.rampAllows 0 = true
      ∧ ((sysQ.core 0).tiles.map fun t => ((sysQ.core 0).awaitsHalf t, ((sysQ.core 0).partner t).isSome)) = [(false, false)]
      ∧ (sysS.core 0).tiles.map (fun t => (t.phase, t.engine)) = [(.streaming, 0)] := by decide +kernel

/-- A sub-tile half 0 followed by its half 1, in a class F partition. -/
def halfD (h : Nat) : Nat := wordOf [(0, 1, 1), (18, 2, 1), (20, 1, 1), (21, 1, 1 + 128 * h), (22, 1, 0x11), (23, 1, 8), (24, 1, 0x38), (30, 2, 1), (32, 2, 2), (34, 2, 1), (36, 2, 1), (38, 2, 1), (52, 2, 0xFFFF)]
def sysH : State :=
  let s := (withDescs sysA [halfD 0, halfD 1]).modPart 0 fun p => { p with classF := true }
  after (.tile 0) (after (.tile 0) s)

theorem test_tile_pair : let s := (withDescs sysA [halfD 0, halfD 1]).modPart 0 fun p => { p with classF := true }
    s.pairFollows 0 (halfD 0) = true ∧ ((after (.tile 0) s).core 0).pairs = [(0, 0)]
      ∧ ((after (.tile 0) s).core 0).tiles.map ((after (.tile 0) s).core 0).awaitsHalf = [true]
      ∧ (sysH.core 0).tiles.map (·.pairWith) = [none, some 0] := by decide +kernel

theorem test_tile_start_pair : (sysH.core 0).tiles.map (sysH.core 0).awaitsHalf = [false, false]
      ∧ (sysH.core 0).pickEngine [halfD 0, halfD 1] (sysH.classF 0) [] = some 0
      ∧ sysH.rampAllows 0 = true ∧ (((sysH.core 0).tiles.head?.bind fun t => (sysH.core 0).partner t).map (·.serial)) = some 1
      ∧ ((after (.tileStart 0) sysH).core 0).tiles.map (·.phase) = [.streaming, .streaming] := by decide +kernel

theorem test_tile_start_ramp : let s := { sysQ with bow := { sysQ.bow with dies := [(0, { stage := 0 })] } }
    (s.core 0).tiles.find? (·.phase == .queued) = (s.core 0).tiles.head? ∧ s.rampAllows 0 = false := by decide +kernel

/-- The tile with a long-sum slot: ls_use, ls_first, slot 0, ls_last, and spill_code 0 over 300 steps. -/
def slotD : Nat := desc 1 [(18, 2, 300), (20, 1, 1), (21, 1, 1), (22, 1, 0x11), (24, 1, 0xC0), (25, 1, 8), (28, 2, 0), (30, 2, 64), (32, 2, 200), (34, 2, 1), (36, 2, 1), (38, 2, 1), (52, 2, 0xFFFF)]
def sysP : State := after (.tileStart 0) (after (.tile 0) (withDesc sysA slotD))

theorem test_spill_point : ((sysP.core 0).tiles.find? fun t => t.engine == 0 && t.phase == .streaming && t.inHalf 0 && !t.lastSegment)
        = (sysP.core 0).tiles.head? ∧ ((sysP.core 0).tiles.map (·.lastSegment)) = [false]
      ∧ ((sysP.core 0).freeUnits 0 slotD (sysP.classF 0)).isSome = true ∧ ((sysP.core 0).tiles.map (sysP.core 0).mayAdd) = [true]
      ∧ ((after (.spillPoint 0 0 0) sysP).core 0).tiles.map (fun t => (t.opened, decide (0 < t.at_))) = [(true, true)] := by decide +kernel

/-- The tile drained. -/
def sysD : State := after (.tileDrain 0 0) sysS

theorem test_tile_drain : ((sysS.core 0).tiles.find? fun t => t.engine == 0 && (t.phase == .finished || (t.phase == .streaming && t.lastSegment)) && (sysS.core 0).canDrain t)
        = (sysS.core 0).tiles.head? ∧ usesSlot tileD = false ∧ (sysD.core 0).tiles.map (fun t => (t.phase, t.block)) = [(.drained, [0x40C00000])] := by
  decide +kernel

theorem test_tile_drain_slot : let s := after (.spillPoint 0 0 0) sysP
    ((s.core 0).tiles.find? fun t => t.engine == 0 && (t.phase == .finished || (t.phase == .streaming && t.lastSegment)) && (s.core 0).canDrain t)
        = (s.core 0).tiles.head? ∧ usesSlot slotD = true ∧ (s.core 0).tiles.length = 1 := by decide +kernel

theorem test_epilogue : ((sysD.core 0).tiles.find? (·.phase == .drained)) = (sysD.core 0).tiles.head? ∧ (sysD.core 0).updating = false
      ∧ ((sysD.core 0).tiles.map (·.rows)) = [[]] ∧ (∀ i ∈ (sysD.core 0).issued, i.work ≠ .vec)
      ∧ (sysD.core 0).pc < (sysD.core 0).count ∧ (after (.epilogue 0 .none) sysD).spRead 0 128 4 = toLE 4 0x40C00000
      ∧ ((after (.epilogue 0 .none) sysD).core 0).issued = [] ∧ ((after (.epilogue 0 .none) sysD).core 0).completed = 1 := by decide +kernel

theorem test_parity_error : ((sysS.core 0).parityTarget 0 0 .accumulator) = (sysS.core 0).tiles.head?
      ∧ ((sysS.core 0).tiles.map fun t => decide (t.attempts < 3)) = [true]
      ∧ ((after (.parityError 0 0 0 0 .accumulator) sysS).core 0).tiles.map (·.phase) = [.replayWait] := by decide +kernel

/-- The tile after three failed attempts. -/
def sysF3 : State := core0 sysS fun k => { k with tiles := k.tiles.map fun t => { t with attempts := 3 } }

theorem test_parity_limit : ((sysF3.core 0).parityTarget 0 0 .accumulator).map (·.attempts) = some 3 ∧ (sysF3.core 0).engErr = none
      ∧ ((after (.parityError 0 0 0 9 .accumulator) sysF3).core 0).engErr.map (fun r => (r.cause, r.engine, r.step)) = some (1, 0, 9) := by
  decide +kernel

theorem test_parity_long_sum : ((sysP.core 0).parityTarget 0 0 .longSum).isSome = true ∧ (sysP.core 0).engErr = none
      ∧ ((after (.parityError 0 0 0 9 .longSum) sysP).core 0).engErr.map (fun r => (r.cause, r.engine, r.step)) = some (2, 0, 9) := by
  decide +kernel

theorem test_replay_start : let s := after (.parityError 0 0 0 0 .accumulator) sysS
    ((s.core 0).tiles.map (·.avoid)) = [[0]] ∧ (s.core 0).pickEngine [tileD] (s.classF 0) [0] = some 1 ∧ s.rampAllows 0 = true
      ∧ ((after (.replayStart 0) s).core 0).tiles.map (fun t => (t.phase, t.engine)) = [(.streaming, 1)] := by decide +kernel

/-! ### Vector unit and mover (VectorsAndMoves) -/

/-- A VEC of one FP32 element from unit 0 to unit 4, through activation 0. -/
def vecD : Nat := desc 2 [(20, 2, 1), (22, 2, 1), (24, 2, 0), (26, 2, 1), (36, 2, 4), (38, 2, 1), (43, 1, 1), (44, 1, 0x18)]
def sysV : State := (withDesc sysA vecD).spWrite 0 0 (toLE 4 0x3FC00000)

theorem test_vec : sysV.issues 0 (dType · == tyVec) false 0 16 vecD ∧ vecFault vecD = none ∧ (sysV.core 0).issued = [] ∧ (sysV.core 0).tiles = []
      ∧ (sysV.core 0).updating = false ∧ (sysV.core 0).blocksVec vecD = false ∧ (sysV.core 0).seqErr = none
      ∧ (after (.vec 0 .none) sysV).spRead 0 256 4 = toLE 4 0x3FC00000 ∧ ((after (.vec 0 .none) sysV).core 0).issued = [] := by decide +kernel

theorem test_vec_waits : let s := core0 sysV fun k => { k with issued := [{ serial := 9, index := 0, desc := 10, regs := [], work := .update { hyper := [0] } }] }
    s.issues 0 (dType · == tyVec) false 1 16 vecD ∧ (∀ i ∈ (s.core 0).issued, i.serial ≠ (s.core 0).serial) ∧ (s.core 0).updating = true
      ∧ ((after (.vec 0 .none) s).core 0).issued.length = 2 := by decide +kernel

theorem test_vec_error : ((after (.vec 0 .spHard) sysV).core 0).seqErr = some { cause := 9, kind := 2, index := 0 } := by decide +kernel

/-- A MOVE of 5 bytes from byte 0 to byte 64 of the scratchpad. -/
def moveD : Nat := desc 3 [(8, 6, 0), (14, 6, 64), (22, 2, 1), (24, 4, 5)]
def sysM : State := (withDesc sysA moveD).spWrite 0 0 [1, 2, 3, 4, 5, 6]

theorem test_move : sysM.issues 0 (dType · == tyMove) false 0 64 moveD ∧ sysM.moveFault 0 0 moveD .newest = none ∧ (sysM.core 0).sel = .newest ∧ (sysM.core 0).ctx = some 0
      ∧ M.srcSpace moveD = 0 ∧ M.dstSpace moveD = 0 ∧ M.cvt moveD = false ∧ M.rows moveD = 1 ∧ (sysM.core 0).protects 64 5 = false
      ∧ sysM.memsWf ∧ (after (.move 0 .none) sysM).spRead 0 64 6 = [1, 2, 3, 4, 5, 0] := by decide +kernel

theorem test_move_complete : let s := after (.move 0 .none) (withDesc sysM (moveD + 2 ^ 11))
    s.dieOff (dieOf 0) = false ∧ (s.core 0).issued.map (fun x => (x.serial, x.work, dDoneEn x.desc)) = [(0, .move true false, true)]
      ∧ M.dstSpace (moveD + 2 ^ 11) = 0 ∧ (s.core 0).descDone = 0
      ∧ (s.core 0).pc < (s.core 0).count ∧ s.memsWf ∧ (after (.moveComplete 0 0) s).counter 0 = 1
      ∧ ((after (.moveComplete 0 0) s).core 0).issued = [] := by decide +kernel

/-- A MOVE of 5 bytes from the scratchpad to page 8, no line of which is at the host. -/
theorem test_move_complete_memory : let d := desc 3 [(14, 6, 2 ^ 22), (20, 1, 8), (22, 2, 1), (24, 4, 5)]
    let s := after (.move 0 .none) (withDesc sysM d)
    M.dstSpace d = 2 ∧ (s.core 0).issued.map (fun x => (x.serial, x.work)) = [(0, .move true false)]
      ∧ (∀ e ∈ (s.moveRanges 0 0 d .newest).2, s.heldIn e.1 e.2 = false) ∧ s.mems.readLoc (locate 0 8 0) 5 = [1, 2, 3, 4, 5]
      ∧ ((after (.moveComplete 0 0) s).core 0).issued = [] := by decide +kernel

/-! ### The sequencer's own descriptors (WaitsAndSignals, JumpsMarksSegments) -/

/-- WAIT on counter 0 for 1, limit 10, result to register 3. -/
def waitD : Nat := desc 4 [(12, 8, 1), (20, 4, 10), (24, 1, 0x13)]
def sysW : State := withDesc sysA waitD

theorem test_wait : sysW.memsWf ∧ (sysW.core 0).sq.length = 16 ∧ sysW.issues 0 (dType · == tyWait) false 0 1 waitD
      ∧ counterCluster (C.counter waitD) / 8 = dieOf 0 ∧ sysW.clusterIn 0 (counterCluster (C.counter waitD)) = true
      ∧ sysW.waitHolds waitD = false ∧ ((after (.wait 0 .none) sysW).core 0).state = .waiting := by decide +kernel

theorem test_wait_holds : let s := sysW.setCounter 0 (2 ^ 63)
    s.issues 0 (dType · == tyWait) false 0 1 waitD ∧ s.waitHolds waitD = true ∧ dDoneEn waitD = false ∧ (s.core 0).seqErr = none
      ∧ ((after (.wait 0 .none) s).core 0).state = .issuing ∧ ((after (.wait 0 .none) s).core 0).pc = 1 := by decide +kernel

theorem test_wait_outside : let d := waitD + 2 * 2 ^ (64 + 12)
    let s := withDesc sysA d
    s.issues 0 (dType · == tyWait) false 0 1 d ∧ s.clusterIn 0 (counterCluster (C.counter d)) = false ∧ (s.core 0).seqErr = none
      ∧ ((after (.wait 0 .none) s).core 0).seqErr = some { cause := 2, kind := 4, index := 0 } := by decide +kernel

theorem test_wait_complete : let s := after (.wait 0 .none) sysW
    s.dieOff (dieOf 0) = false ∧ (s.core 0).wait = some { desc := waitD, index := 0 } ∧ (s.core 0).pc < (s.core 0).count
      ∧ s.waitHolds waitD = false ∧ (s.setCounter 0 1).waitHolds waitD = true
      ∧ ((after (.waitComplete 0) (s.setCounter 0 1)).core 0).wait = none := by decide +kernel

theorem test_wait_expire : let s := after (.wait 0 .none) sysW
    C.limit waitD ≠ 0 ∧ s.waitHolds waitD = false ∧ C.resEn waitD = true ∧ C.resReg waitD = 3
      ∧ ((after (.waitExpire 0) s).core 0).sq.getD 3 0 = 1 ∧ ((after (.waitExpire 0) s).core 0).expired = 1 := by decide +kernel

theorem test_wait_no_limit : let d := waitD - 10 * 2 ^ 160
    let s := after (.wait 0 .none) (withDesc sysA d)
    (s.core 0).wait = some { desc := d, index := 0 } ∧ (s.core 0).pc < (s.core 0).count ∧ C.limit d = 0 := by decide +kernel

/-- SIGNAL of 5 to counter 3 of cluster 1. -/
def signalD : Nat := desc 5 [(8, 4, 0x1003), (12, 8, 5)]

theorem test_signal : let s := (withDesc sysA signalD).setCounter 0x1003 (2 ^ 64 - 2)
    s.issues 0 (dType · == tySignal) true 0 1 signalD ∧ s.clusterIn 0 (counterCluster (C.counter signalD)) = true ∧ dDoneEn signalD = false
      ∧ s.memsWf ∧ (s.core 0).sq.length = 16 ∧ (after (.signal 0 .none) s).counter 0x1003 = 3 := by decide +kernel

theorem test_signal_outside : let d := desc 5 [(8, 4, 0x1F003)]
    let s := withDesc sysA d
    s.issues 0 (dType · == tySignal) true 0 1 d ∧ s.clusterIn 0 (counterCluster (C.counter d)) = false ∧ (s.core 0).seqErr = none
      ∧ ((after (.signal 0 .none) s).core 0).seqErr = some { cause := 2, kind := 5, index := 0 } := by decide +kernel

/-- JUMP to 7 when register 2, after 1 is added, equals 4. -/
def jumpD : Nat := desc 12 [(8, 4, 7), (12, 1, 0x22), (16, 8, 1), (24, 8, 4)]

theorem test_jump_taken : let s := core0 (withDesc sysA jumpD) fun k => { k with sq := k.sq.set 2 3 }
    (s.core 0).sq.length = 16 ∧ s.issues 0 (dType · == tyJump) false 0 1 jumpD ∧ C.cond jumpD < 6 ∧ jumpTaken jumpD 4 = true
      ∧ C.target jumpD < (s.core 0).count ∧ ((after (.jump 0) s).core 0).pc = 7 ∧ ((after (.jump 0) s).core 0).sq.getD 2 0 = 4 := by decide +kernel

theorem test_jump_past_end : let d := desc 12 [(8, 4, 8)]
    let s := withDesc sysA d
    s.issues 0 (dType · == tyJump) false 0 1 d ∧ C.cond d < 6 ∧ jumpTaken d 0 = true ∧ (s.core 0).count ≤ C.target d ∧ (s.core 0).seqErr = none
      ∧ ((after (.jump 0) s).core 0).seqErr = some { cause := 7, kind := 12, index := 0 } := by decide +kernel

/-- The return of a handler. -/
def returnD : Nat := desc 12 [(12, 1, 6)]

theorem test_jump_return : let s := core0 (withDesc sysA returnD) fun k => { k with inHandler := true, irqRet := 5, handlerSrc := some 3 }
    s.issues 0 (dType · == tyJump) false 0 1 returnD ∧ C.cond returnD = 6 ∧ (s.core 0).inHandler = true ∧ (s.core 0).irqRet < (s.core 0).count
      ∧ ((after (.jump 0) s).core 0).pc = 5 ∧ ((after (.jump 0) s).core 0).inHandler = false := by decide +kernel

theorem test_jump_no_handler : let s := withDesc sysA returnD
    s.issues 0 (dType · == tyJump) false 0 1 returnD ∧ C.cond returnD = 6 ∧ (s.core 0).inHandler = false ∧ (s.core 0).seqErr = none
      ∧ ((after (.jump 0) s).core 0).seqErr = some { cause := 7, kind := 12, index := 0 } := by decide +kernel

/-- STEP_MARK of step 5, with hold or without. -/
def markD (hold step : Nat) : Nat := desc 13 [(8, 8, step), (16, 1, hold)]

theorem test_step_mark : let s := withDesc sysA (markD 0 5)
    s.issues 0 (dType · == tyStepMark) true 0 1 (markD 0 5) ∧ (s.core 0).ctx = some 0 ∧ s.ctx 0 0 = some ctxA ∧ C.step (markD 0 5) = ctxA.step
      ∧ C.hold (markD 0 5) = false ∧ ((after (.stepMark 0) s).ctx 0 0).map (·.passed) = some [0] := by decide +kernel

theorem test_step_mark_hold : let s := withDesc sysA (markD 1 5)
    s.issues 0 (dType · == tyStepMark) true 0 1 (markD 1 5) ∧ C.step (markD 1 5) = ctxA.step ∧ C.hold (markD 1 5) = true
      ∧ ((after (.stepMark 0) s).core 0).lastStep = some 5 := by decide +kernel

theorem test_step_mark_wrong : let s := withDesc sysA (markD 0 6)
    s.issues 0 (dType · == tyStepMark) true 0 1 (markD 0 6) ∧ C.step (markD 0 6) ≠ ctxA.step ∧ (s.core 0).seqErr = none
      ∧ ((after (.stepMark 0) s).core 0).seqErr = some { cause := 6, kind := 13, index := 0 } := by decide +kernel

/-- SEG_BEGIN and SEG_END of segment 2; segment records start at `2^22`. -/
def segD (ty : Nat) : Nat := desc ty [(8, 4, 2), (12, 2, 1)]
def sysSeg (d : Nat) : State := (withDesc sysA d).modScr 0 fun q => { q with segSize := 1, segBase := 2 ^ 22 }

theorem test_seg_begin : let s := sysSeg (segD 8)
    s.issues 0 (dType · == tySegBegin) false 0 1 (segD 8) ∧ (s.core 0).seg = none ∧ s.segAddr 0 2 = some (2 ^ 22 + 512)
      ∧ (s.lookups 0 (2 ^ 22 + 512) 256).devWrite 0 .plain (2 ^ 22 + 512) (segRecord (segD 8) 0 hA 5 (s.core 0).sq)
        = .ok ((s.lookups 0 (2 ^ 22 + 512) 256).devPut (2 ^ 22 + 512) (segRecord (segD 8) 0 hA 5 (s.core 0).sq))
      ∧ ((after (.segBegin 0) s).core 0).seg = some { id := 2 } := by decide +kernel

theorem test_seg_end : let s := core0 (sysSeg (segD 9)) fun k => { k with seg := some { id := 2 } }
    let u := s.lookups 0 (2 ^ 22 + 512) 256
    let v := u.devPut (2 ^ 22 + 520) (toLE 4 0)
    s.issues 0 (dType · == tySegEnd) false 0 1 (segD 9) ∧ (s.core 0).seg.map OpenSeg.id = some 2 ∧ s.segAddr 0 2 = some (2 ^ 22 + 512)
      ∧ u.devWrite 0 .plain (2 ^ 22 + 520) (toLE 4 0) = .ok v
      ∧ v.devWrite 0 .plain (2 ^ 22 + 526) (toLE 1 2) = .ok (v.devPut (2 ^ 22 + 526) (toLE 1 2))
      ∧ ((after (.segEnd 0) s).core 0).seg = none := by decide +kernel

theorem test_descriptor_line_arrive : let s := core0 sysW fun k => { k with cacheLines := [], missing := true }
    s.dieOff (dieOf 0) = false ∧ (s.core 0).ctx = some 0 ∧ (s.core 0).state = .issuing ∧ (s.core 0).pc < (s.core 0).count
      ∧ (s.core 0).fetched (s.core 0).pc = none ∧ s.fetchAt 0 0 = .ok waitD
      ∧ ((List.range 8).all fun i => match s.fetchAt 0 i with | .wait _ => false | .ok _ | .bad _ _ => true) = true
      ∧ ((after (.descriptorLineArrive 0) s).core 0).fetched 0 = some (.word waitD) := by decide +kernel

theorem test_reserved_type : let s := withDesc sysA 14
    s.dieOff (dieOf 0) = false ∧ (s.core 0).seqErr = none ∧ s.gate 0 (fun d => dType d == 0 || decide (14 ≤ dType d)) false 0 1 = .go 14
      ∧ ((after (.reservedTypeDescriptor 0) s).core 0).seqErr = some { cause := 1, kind := 14, index := 0 } := by decide +kernel

/-! ### UPDATE and versions (Updates) -/

/-- An UPDATE of one FP32 element by rule 0: param in page 8, grad in page 9, the hyperparameter block in page 10. -/
def updD : Nat := desc 10 [(8, 6, 2 ^ 22), (14, 6, 2 ^ 22 + 2 ^ 19), (38, 6, 2 ^ 22 + 2 ^ 20), (44, 4, 1)]
/-- Its hyperparameter block: the learning rate 0.5, the gradient scale 1. -/
def hyperU : List Byte := toLE 64 (wordOf [(0, 4, 0x3F000000), (0x14, 4, 0x3F800000)])
/-- w is 3 and g is 2. -/
def withArrays (s : State) : State :=
  ((s.devPut (2 ^ 22) (toLE 4 0x40400000)).devPut (2 ^ 22 + 2 ^ 19) (toLE 4 0x40000000)).devPut (2 ^ 22 + 2 ^ 20) hyperU
def sysU : State := withArrays (withDesc sysA updD)

theorem test_update : (sysU.core 0).resumePoint = none
      ∧ sysU.issues 0 (dType · == tyUpdate) false ((sysU.core 0).outstanding tyVec + (sysU.core 0).outstanding tyUpdate) 16 updD
      ∧ (sysU.core 0).ctx = some 0 ∧ sysU.updFault (sysU.core 0).part 0 updD = none := by decide +kernel

/-- 3 − 0.5 · 2 is 2 (R211), in the step of the UPDATE. -/
theorem test_update_completes : (sysU.core 0).issued = [] ∧ (sysU.core 0).tiles = [] ∧ sysU.ships 0 0 = false
      ∧ sysU.devRead 0 .plain (sysU.core 0).sel (U.hyper updD) 64 = .ok hyperU ∧ hypOk updD hyperU = true ∧ U.clip updD = false
      ∧ U.count updD = 1 ∧ sysU.updVersioned 0 updD 0 = false ∧ (∀ x ∈ updPages updD 0, eDrain (sysU.entry x) = false)
      ∧ U.mask updD = 0 ∧ sysU.devRead 0 .plain (sysU.core 0).sel (U.grad updD) (updPart updD 0 * fmtBytes (U.gradFmt updD)) = .ok (toLE 4 0x40000000)
      ∧ sysU.updCompute 0 updD 0 { hyper := hyperU } (.ok (toLE 4 0x40000000)) (.ok []) = .ok ([[0x40000000]], 0)
      ∧ (match sysU.updWrite 0 updD 0 [[0x40000000]] with | .ok _ => true | .bad _ _ | .wait _ => false) = true
      ∧ (after (.update 0 .none) sysU).mems.readLoc (locate 0 8 0) 4 = toLE 4 0x40000000
      ∧ ((after (.update 0 .none) sysU).core 0).issued = [] ∧ ((after (.update 0 .none) sysU).core 0).updElements = 1 := by decide +kernel

theorem test_update_resume : let s := core0 sysU fun k => { k with resumePoint := some (0, 0), pc := 3 }
    (s.core 0).resumePoint = some (0, 0) ∧ (s.core 0).resumes = [] ∧ s.dieOff (dieOf 0) = false ∧ (s.core 0).ctx.isSome = true ∧ (s.core 0).state = .issuing
      ∧ (s.core 0).stopReq = false ∧ s.descriptor 0 0 = .ok updD ∧ dType updD = tyUpdate
      ∧ ((after (.update 0 .none) s).core 0).pc = 3 ∧ ((after (.update 0 .none) s).core 0).updPasses = 1 := by decide +kernel

/-- An UPDATE that stopped once its block had been read goes on with that block. -/
theorem test_update_resume_started : let j : Issued := { serial := 5, index := 0, desc := updD, regs := (sysU.core 0).sq, work := .update { hyper := hyperU } }
    let s := core0 sysU fun k => { k with resumePoint := some (0, 0), resumes := [(j, 0)], pc := 3 }
    s.dieOff (dieOf 0) = false ∧ (s.core 0).ctx.isSome = true ∧ (s.core 0).state = .issuing ∧ (s.core 0).stopReq = false
      ∧ ((after (.update 0 .none) s).core 0).resumes = [] ∧ ((after (.update 0 .none) s).core 0).updPasses = 1 := by decide +kernel

theorem test_version_idle : sysA.dieOff (dieOf 0) = false ∧ (sysA.core 0).issued = [] := by decide +kernel

/-- The writer is the UPDATE of index 0 in context 0 on core 0. -/
def writerA : Writer := { core := 0, ctx := 0, index := 0 }
/-- Whether the UPDATE that runs has its block and is not done, and the pages at which it waits. -/
def updAt (s : State) : Option (Bool × Bool × List (Nat × Bool)) :=
  (s.core 0).runningUpdate.map fun q =>
    (q.2.hyper != [], decide (q.2.k < U.count q.1.desc), (s.preparePages 0 writerA q.2.waiting (updPages q.1.desc q.2.k)).2)

/-- The UPDATE waits for the drain of page 8: bit 36 of its entry. -/
def sysVw : State := after (.update 0 .none) (sysU.modFrt fun f => { f with entry := Tab.set 0 f.entry 8 (plainEntry 8 + 2 ^ 36) })

theorem test_update_waits : sysVw.dieOff (dieOf 0) = false ∧ (sysVw.core 0).colls = [] ∧ (sysVw.core 0).ctx = some 0
      ∧ updAt sysVw = some (true, true, [(8, true)]) ∧ (sysVw.core 0).stopReq = false ∧ sysVw.crs.heldColl = []
      ∧ (sysVw.core 0).drainWaits = 1 ∧ (after (.versionClaim 0) sysVw).frt.claims = []
      ∧ (after (.versionAdvance 0) sysVw).mems = sysVw.mems := by decide +kernel

/-- A window of one page: primary page 8 of version 3, shadow page 9 of version 2, its entry with these bits. -/
def inWindow8 (s : State) (bits : Nat) : State :=
  (s.modPart 0 fun p => { p with vwinBase := 2 ^ 22, vwinPages := 1, vshdBase := 2 ^ 22 + 2 ^ 19 }).modFrt fun f =>
    { f with entry := Tab.set 0 (Tab.set 0 f.entry 8 (mkEntry 0 0 0 1 3 0 false false false 8)) 9 (mkEntry 0 0 0 1 2 0 false false false 9 + bits) }
def sysW2 : State := inWindow8 sysA 0

theorem test_version_claim : sysW2.inWindow 0 (8 * pageBytes) = true ∧ sysW2.claimTest 0 writerA 8 = .free 9
      ∧ ((sysW2.preparePage 0 writerA 8).1.frt.claims) = [(9, some writerA)] := by decide +kernel

theorem test_version_advance : sysW2.inWindow 0 (8 * pageBytes) = true ∧ sysW2.versions 0 8 = (8, 9, 3, true)
      ∧ eVersion ((sysW2.advancePage 0 8).entry 9) = 4 ∧ (sysW2.advancePage 0 8).versions 0 8 = (9, 8, 4, true) := by decide +kernel

/-- The UPDATE of the page in the window: grad in page 11. It waited for the drain of page 9, which has ended. -/
def updWD : Nat := desc 10 [(8, 6, 2 ^ 22), (14, 6, 2 ^ 22 + 3 * 2 ^ 19), (38, 6, 2 ^ 22 + 2 ^ 20), (44, 4, 1)]
def sysVf : State :=
  let s := (withArrays (inWindow8 (withDesc sysA updWD) (2 ^ 36))).devPut (2 ^ 22 + 3 * 2 ^ 19) (toLE 4 0x40000000)
  (after (.update 0 .none) s).modFrt fun f => { f with entry := Tab.set 0 f.entry 9 (mkEntry 0 0 0 1 2 0 false false false 9) }

theorem test_version_claim_completes : sysVf.dieOff (dieOf 0) = false ∧ (sysVf.core 0).colls = [] ∧ (sysVf.core 0).ctx = some 0
      ∧ updAt sysVf = some (true, true, []) ∧ (sysVf.core 0).stopReq = false ∧ sysVf.crs.heldColl = [] ∧ updPages updWD 0 = [8]
      ∧ sysVf.updVersioned 0 updWD 0 = true ∧ sysVf.inWindow 0 (8 * pageBytes) = true ∧ sysVf.claimTest 0 writerA 8 = .free 9
      ∧ (after (.versionClaim 0) sysVf).frt.claims = [(9, some writerA)] := by decide +kernel

/-- It has claimed page 9, so its part can be written. -/
theorem test_version_advance_completes : let s := after (.versionClaim 0) sysVf
    updAt s = some (true, true, []) ∧ (s.core 0).issued.length = 1 ∧ (s.core 0).pc < (s.core 0).count ∧ s.ships 0 0 = false
      ∧ (match s.updCompute 0 updWD 0 { hyper := hyperU } (.ok (toLE 4 0x40000000)) (.ok []) with
        | .ok r => (match s.updWrite 0 updWD 0 r.1 with | .ok _ => true | .bad _ _ | .wait _ => false) | .bad _ _ | .wait _ => false) = true := by decide +kernel

/-! ### Collectives -/

/-- A COLL over axis 5 of 32 FP32 elements, from page 8 to page 9; the context stands on die 0 alone. -/
def collD (op : Nat) : Nat := desc 11 [(8, 6, 2 ^ 22), (14, 6, 2 ^ 22 + 2 ^ 19), (20, 4, 32), (24, 1, 0x50 + op), (30, 2, 0xFFFF)]
def sysC (op : Nat) : State := withDesc sysA (collD op)

theorem test_coll_issue : ∀ op ∈ [0, 1, 2, 4], let s := sysC op
    s.dieOff (dieOf 0) = false ∧ (s.core 0).resumePoint = none
      ∧ s.issues 0 (fun d => dType d == tyColl && (L.op d == op || (op == 0 && decide (5 ≤ L.op d)))) false ((s.core 0).outstanding tyColl) 8 (collD op)
      ∧ collCodeOk (collD op) = true ∧ L.axis (collD op) = 5 ∧ (s.core 0).cseq.length < 480
      ∧ (match s.groupOf 0 0 (collD op) [] 0 with | .inl r => s.collFault 0 0 (collD op) r | .inr c => some c) = none := by decide +kernel

theorem test_coll_idle : (sysA.core 0).issued = [] ∧ (after (.collComplete 0 0) sysA) = sysA := by decide +kernel

theorem test_coll_sequence : ([(0, Instr.allReduce 0), (1, .reduceScatter 0), (2, .allGather 0), (4, .normGather 0)].map fun (op, i) =>
    let t := after i (sysC op); ((t.core 0).pc, Tab.get 0 (t.core 0).cseq (2 ^ 16))) = [(1, 1), (1, 1), (1, 1), (1, 1)] := by decide +kernel

/-- The one member of the group has its own part: the all-reduce is done, and completes. -/
theorem test_coll_complete : let s := after (.allReduce 0) (sysC 0)
    let u := (s.collStart 0 0).collSteps 0
    ((u.core 0).coll 0).map (fun q => (q.2.op, q.2.done, u.sentInFull 0 q.2,
        (collRanges q.1.desc q.2.members.length q.2.rank (q.2.bins * q.2.cap * q.2.rowBytes)).any fun e => u.heldIn e.1 e.2)) = some (0, true, true, false)
      ∧ ((after (.collComplete 0 0) s).core 0).issued = [] ∧ ((after (.collComplete 0 0) s).die 0).collCompleted = 1 := by decide +kernel

/-- An all-to-all over group 0, whose record on page 10 names this node alone: 2 bins of rows of 64 bytes, cap 1. The table on page 8 has
2 rows for bin 0 and 1 for bin 1; dst is page 9, and the counters are 5 and 6. -/
def a2aD : Nat := desc 11 [(8, 6, 2 ^ 22), (14, 6, 2 ^ 22 + 2 ^ 19), (20, 4, 3), (24, 1, 0x13), (30, 2, 5)]
def a2aTable : List Byte := pkt [(0, 4, 2), (4, 4, 1)]
def a2aRows : List Byte := List.replicate 64 1 ++ List.replicate 64 2 ++ List.replicate 64 3
def sysA2a : State :=
  let s := (withDesc sysA a2aD).modPart 0 fun p => { p with groups := 1, groupBase := 2 ^ 22 + 2 ^ 20 }
  (s.devPut (2 ^ 22 + 2 ^ 20) (pkt [(0, 2, 1), (4, 1, 2), (8, 4, 64), (12, 4, 1)])).devPut (2 ^ 22) (a2aTable ++ a2aRows)

theorem test_all_to_all_issue : sysA2a.issues 0 (fun d => dType d == tyColl && L.op d == 3) false ((sysA2a.core 0).outstanding tyColl) 8 a2aD
      ∧ (sysA2a.core 0).ctx = some 0 ∧ collCodeOk a2aD = true ∧ L.axis a2aD = 1 ∧ L.op a2aD = 3 ∧ L.group a2aD < (sysA2a.part 0).groups
      ∧ (sysA2a.core 0).cseq.length < 480
      ∧ (match sysA2a.devRead 0 .plain .newest ((sysA2a.part 0).groupBase + 0x1000 * L.group a2aD) 0x840 with
        | .ok r => (match sysA2a.groupOf 0 0 a2aD r 0 with
          | .inl r => sysA2a.collFault 0 0 a2aD r == none && r.members == [0] && r.bins == 2 && r.rowBytes == 64 && r.cap == 1
          | .inr _ => false)
        | .bad _ _ | .wait _ => false) = true := by decide +kernel

/-- The second row of bin 0 is dropped. -/
theorem test_all_to_all : let t := after (.allToAll 0) sysA2a
    (sysA2a.core 0).issued = [] ∧ (sysA2a.core 0).colls = [] ∧ sysA2a.crs.heldColl = [] ∧ (sysA2a.core 0).sel = .newest
      ∧ sysA2a.devRead 0 .plain .newest (L.src a2aD) 256 = .ok (a2aTable ++ a2aRows)
      ∧ sysA2a.devRead 0 .plain .newest (L.src a2aD) 64 = .ok a2aTable ∧ sysA2a.devRead 0 .plain .newest (L.src a2aD + 64) 192 = .ok a2aRows
      ∧ (match sysA2a.devWrite 0 .plain (L.dst a2aD) (List.replicate 64 1) with
        | .ok t => (match t.devWrite 0 .plain (L.dst a2aD + 64) (List.replicate 64 3) with | .ok _ => true | .bad _ _ | .wait _ => false)
        | .bad _ _ | .wait _ => false) = true
      ∧ ((t.core 0).coll 0).map (fun q => q.2.done) = some true ∧ Tab.get 0 (t.core 0).cseq 0 = 1
      ∧ t.mems.readLoc (locate 0 9 0) 129 = List.replicate 64 1 ++ List.replicate 64 3 ++ [0] ∧ (t.die 0).a2aOverflow = 1
      ∧ (t.counter 5).toNat = 1 ∧ (t.counter 6).toNat = 1 ∧ ((after (.collComplete 0 0) t).core 0).issued = [] := by decide +kernel

/-- Only one of the context's cores has issued its NORM_GATHER. -/
theorem test_coll_not_done : let s := after (.normGather 0) (sysC 4)
    let u := (s.collStart 0 0).collSteps 0
    ((u.core 0).coll 0).map (fun q => (q.2.op, q.2.done)) = some (4, false)
      ∧ ((after (.collComplete 0 0) s).core 0).issued.length = 1 := by decide +kernel

/-! ### The Scroll (ScrollDirectives, ScrollPages) -/

/-- A SCROLL of the piece whose record is the first of the table: 64 bytes of BF16 at unit 1. -/
def scrollD (disp : Nat) : Nat := desc 6 [(12, 6, 2 ^ 22), (18, 2, 1), (20, 4, 1), (24, 1, disp), (26, 1, 0x10)]
def sysR (d : Nat) (r : Piece) : State :=
  let s := (withDesc sysA d).modScr 0 fun q => { q with ptBase := 2 ^ 22, ptSize := 1, segBase := 2 ^ 22 + 2 ^ 19, segSize := 1 }
  { s.devPut (2 ^ 22) r.encode with scr := { s.scr with enable := true } }
/-- The Scroll is off. -/
def scrOff (s : State) : State := { s with scr := { s.scr with enable := false } }
/-- The record of the table's first piece. -/
def pieceOf (s : State) : Nat := match s.readPiece 0 (2 ^ 22) with | .ok r => r.state | _ => 99

theorem test_scroll_put : ∀ disp ∈ [0, 3], let d := scrollD disp
    let s := sysR d {}
    (∀ j ∈ (s.core 0).issued, j.serial ≠ (s.core 0).serial) ∧ scrollFormats d = true ∧ Scl.length d = 1 ∧ (s.recordIndex 0 (Scl.dev d)).isSome = true
      ∧ Scl.sp d + Scl.length d ≤ 0x10000 ∧ s.meetsProgram 0 (Scl.dev d) 64 = false ∧ Scl.disp d = disp
      ∧ s.issues 0 (fun d => dType d == tyScroll && !Scl.get d) false (s.scrollLoad 0) 8 d ∧ Scl.get d = false
      ∧ (s.core 0).ctx = some 0 ∧ s.ctx 0 0 = some ctxA ∧ (s.scrPart 0).live (2 ^ 22) = false ∧ s.scr.enable = true
      ∧ pieceOf (after (.scrollPut 0 .none) s) = (if disp = 0 then 4 else 3) ∧ ((after (.scrollPut 0 .none) s).core 0).issued = [] := by decide +kernel

theorem test_scroll_put_off : let s := scrOff (sysR (scrollD 0) {})
    s.scr.enable = false ∧ s.issues 0 (fun d => dType d == tyScroll && !Scl.get d) false (s.scrollLoad 0) 8 (scrollD 0)
      ∧ pieceOf (after (.scrollPut 0 .none) s) = 1 ∧ ((after (.scrollPut 0 .none) s).core 0).issued.length = 1 := by decide +kernel

theorem test_scroll_get : ([1, 4, 3, 0].map fun st => let d := scrollD 4
    let s := sysR d { state := st }
    let t := after (.scrollGet 0 .none) s
    (decide (s.issues 0 (fun d => dType d == tyScroll && Scl.get d) false (s.scrollLoad 0) 8 d), Scl.get d, pieceOf s,
      (t.core 0).issued.map (·.work), (t.core 0).seqErr.map (·.cause)))
    = [(true, true, 1, [.scroll .putOf], none), (true, true, 4, [], none), (true, true, 3, [.scroll .replay], none), (true, true, 0, [], some 3)] := by decide +kernel

/-- Core 0 waits in a get of a piece that its put still writes; then the record says that the piece is kept. -/
def sysK : State := (after (.scrollGet 0 .none) (sysR (scrollD 4) { state := 1 })).devPut (2 ^ 22) (toLE 1 4)

theorem test_scroll_continue : sysK.dieOff (dieOf 0) = false
      ∧ ((sysK.core 0).issued.find? (·.serial == 0)).map (·.work) = some (.scroll .putOf) ∧ pieceOf sysK = 4
      ∧ ((after (.scrollPutContinue 0 0) sysK).core 0).issued = [] := by decide +kernel

/-- A get of a dropped piece waits for its replay by helper 1. Segment 0 closed: SEG_BEGIN at 0, the put at 1, SEG_END at 2. -/
def sysY (closed : Nat) : State :=
  let s := sysR (scrollD 4) { state := 3, uses := 3 }
  let s := (s.devPut (2 ^ 21 + 64) (toLE 64 (scrollD 3))).devPut (2 ^ 22 + 2 ^ 19) (toLE 256 (wordOf [(8, 4, 2), (14, 1, closed)]))
  (after (.scrollGet 0 .none) s).spWrite 1 64 (toLE 2 0x4040)

theorem test_replay_entry : let s := sysY 2
    let r : ReplayRun := { requester := 0, serial := 0, record := 2 ^ 22, helper := some 1 }
    s.dieOff (dieOf 1) = false ∧ (s.scr.parts.findSome? fun e => (e.2.replays.find? (·.helper == some 1)).map fun r => (e.1, r)) = some (0, r)
      ∧ ((s.core 0).issued.find? (fun i => i.serial == 0 && i.work == .scroll .replay)).isSome = true ∧ (s.core 0).ctx = some 0 ∧ (s.ctx 0 0).isSome = true
      ∧ (s.core 1).tiles = [] ∧ (s.core 1).updating = false ∧ (s.core 1).gatherOpen = [] ∧ (s.core 1).gatherWait = []
      ∧ s.unitsAway 0 0 1 ctxA.replayBase ctxA.replayUnits = false
      ∧ (match (s.modCore 1 fun k => { k with part := 0, issued := [] }).replay 0 1 0 (2 ^ 22) ctxA with
          | .deliver _ v => v.length | .go _ | .wait | .fail _ _ => 0) = 64
      ∧ (after (.replayEntry ⟨1, .none⟩) s).spRead 0 64 2 = toLE 2 0x4040 ∧ ((after (.replayEntry ⟨1, .none⟩) s).core 0).issued = [] := by decide +kernel

theorem test_replay_fails : let s := sysY 1
    (match (s.modCore 1 fun k => { k with part := 0, issued := [] }).replay 0 1 0 (2 ^ 22) ctxA with
      | .fail _ _ => true | .deliver _ _ | .go _ | .wait => false) = true
      ∧ (after (.replayEntry ⟨1, .none⟩) s).scr.err = some (5, 0, 0, 0) := by decide +kernel

/-- The segment's first descriptor gets a piece that its put still writes. -/
theorem test_replay_waits : let d := desc 6 [(12, 6, 2 ^ 22 + 64), (18, 2, 1), (20, 4, 1), (24, 1, 4), (26, 1, 0x10)]
    let s := ((sysY 2).devPut (2 ^ 21 + 64) (toLE 64 d)).devPut (2 ^ 22 + 64) (toLE 1 1)
    (match (s.modCore 1 fun k => { k with part := 0, issued := [] }).replay 0 1 0 (2 ^ 22) ctxA with
      | .wait => true | .deliver _ _ | .go _ | .fail _ _ => false) = true := by decide +kernel

/-! ScrollPages. -/

/-- Scroll pages 8 and 9 of the part with HBM4 expanders (tier 4), in tiers 0 and `tier`, with one piece of next_use 5 and 7. -/
def sysScr (level tier : Nat) : State :=
  let page := fun (x a : Nat) => ({ page := x, tier := if x = 8 then 0 else tier, cluster := 0, droppable := true, pieces := [a] } : ScrPage)
  let s := (sysR 0 {}).modScr 0 fun q => { q with
    quotaHbm := 2, quotaSec := 2, level := level, pages := [page 8 (2 ^ 22 + 2 ^ 20), page 9 (2 ^ 22 + 2 ^ 20 + 64)]
    ptBase := 2 ^ 22 + 2 ^ 20, pieces := [(2 ^ 22 + 2 ^ 20, 0), (2 ^ 22 + 2 ^ 20 + 64, 0)] }
  let s := { s with scr := { s.scr with promote := true, enable := true } }
  let s := s.modFrt fun f => { f with entry := Tab.set 0 f.entry 9 (mkEntry tier 0 0 1 0 0 false false false 9)
                                      pools := (List.range 40).map fun i => (i, { live := true, frames := 8 }) }
  (s.devPut (2 ^ 22 + 2 ^ 20) ({ state := 2, droppable := true, compiled := 1, nextUse := 5, addr := 2 ^ 22 } : Piece).encode).devPut (2 ^ 22 + 2 ^ 20 + 64)
    ({ state := 2, droppable := true, compiled := 1, nextUse := 7, addr := 2 ^ 22 + 2 ^ 19 } : Piece).encode

theorem test_migrate : let s := sysScr 1 0
    let q := s.scrPart 0
    s.off = false ∧ q.level = 1 ∧ q.hbmLow * q.quotaHbm < 256 * (q.hbmPages - s.leaving 0 true)
      ∧ ((q.pages.filter fun p => decide (p.tier < 4) && s.movable p).map fun p => (p.page, s.nextUses 0 p)) = [(8, [5]), (9, [7])]
      ∧ (after (.scrollMigrate 0) s).frt.moves.map (fun m => (m.page, m.tier)) = [(9, 4)] := by decide +kernel

/-- Both pages are pinned. -/
theorem test_migrate_none : let s := (sysScr 1 0).modFrt fun f =>
      { f with entry := Tab.set 0 (Tab.set 0 f.entry 8 (mkEntry 0 0 0 1 0 0 true false false 8)) 9 (mkEntry 0 0 0 1 0 0 true false false 9) }
    let q := s.scrPart 0
    q.level = 1 ∧ q.hbmLow * q.quotaHbm < 256 * (q.hbmPages - s.leaving 0 true)
      ∧ (q.pages.filter fun p => decide (p.tier < 4) && s.movable p) = [] ∧ (sysScr 0 0).off = false ∧ ((sysScr 0 0).scrPart 0).level ≠ 1 := by decide +kernel

theorem test_promote : let s := sysScr 0 4
    let q := s.scrPart 0
    s.off = false ∧ s.scr.promote = true ∧ q.level = 0 ∧ 256 * (q.hbmPages + s.leaving 0 false) < q.hbmLow * q.quotaHbm
      ∧ (q.pages.filter fun p => decide (4 ≤ p.tier) && s.movable p).map (·.page) = [9]
      ∧ (after (.scrollPromote 0) s).frt.moves.map (fun m => (m.page, m.tier)) = [(9, 0)] ∧ sysA.scr.promote = false := by decide +kernel

theorem test_demote : let s := (sysScr 2 4).modScr 0 fun q => { q with quotaSec := 1 }
    let q := s.scrPart 0
    s.off = false ∧ q.level = 2 ∧ q.quotaSec ≠ 0 ∧ q.secLow * q.quotaSec < 256 * q.secPages
      ∧ (s.nextDemotion 0).map (fun r => (r.1, r.2.nextUse)) = some (2 ^ 22 + 2 ^ 20 + 64, 7)
      ∧ ((after (.scrollDemote 0) s).scrPart 0).demoted = 1 := by decide +kernel

theorem test_begin_move : let s := sysScr 1 0
    s.quotaRoom 0 4 = true ∧ (s.scrFrame 0 4).isSome = true ∧ eState ((s.beginMove 0 9 4).entry 9) = 1
      ∧ eFrame ((s.beginMove 0 9 4).entry 9) = 9 := by decide +kernel

/-- Page 9 moves to tier 4. -/
def sysN : State := (after (.scrollMigrate 0) (sysScr 1 0)).modScr 0 fun q => { q with pages := q.pages.map fun p => { p with pieces := [] } }

theorem test_page_move : (sysN.frt.moves.find? (·.page == 9)).map (·.tier) = some 4 ∧ eValid (sysN.entry 9) = true ∧ eTier (sysN.entry 9) ≤ 5
      ∧ (sysN.scr.parts.all fun e => e.2.pages.all fun p => p.page != 9 || p.pieces.isEmpty) = true ∧ eState (sysN.entry 9) = 1 ∧ sysN.memsWf
      ∧ sysN.frt.late = [] ∧ sysN.pagePoisoned 9 = false
      ∧ ((sysN.frt.moves.find? (·.page == 9)).map fun m => (sysN.pool (poolOf m.tier m.frame)).live) = some true := by decide +kernel

theorem test_page_move_source_failed : let t := after (.pageMoveComplete 9 .sourceFailed) sysN
    eState (t.entry 9) = 3 ∧ eTier (t.entry 9) = 0 ∧ t.frt.poisonPages = 1 := by decide +kernel

theorem test_page_move_destination_failed : let t := after (.pageMoveComplete 9 .destinationFailed) sysN
    eState (t.entry 9) = 3 ∧ eTier (t.entry 9) = 4 ∧ t.frt.poisonPages = 1 := by decide +kernel

/-! ### Reset, power, bring-up -/

theorem test_queue_front : (step { State.reset with pending := [.powerLoss, .thermtrip] }) = exec .powerLoss { State.reset with pending := [.thermtrip] } := rfl

theorem test_queue_kept : (after .powerLoss { State.reset with pending := [.thermtrip] }).pending = [.thermtrip] ∧ State.reset.pending = [] := by decide +kernel

theorem test_invariants : State.reset.memsWf ∧ State.reset.partOk ∧ sysU.memsWf ∧ (after .powerLoss sysU).mems.hbm = [] ∧ sysU.mems.hbm ≠ [] := by decide +kernel

theorem test_stopped : let s := after .thermtrip sysA
    sysA.off = false ∧ s.off = true ∧ s.pins.thermtrip = true ∧ after (.thermtrip) s = s := by decide +kernel

theorem test_clock_loss : sysA.boot.stage = 5 ∧ (after (.referenceClockLoss 2) sysA).dieOff 2 = true ∧ (after (.referenceClockLoss 2) sysA).dieOff 1 = false
      ∧ (after (.referenceClockLoss 2) sysA).pins.fault = true ∧ (after (.referenceClockLoss 4) sysA).off = true := by decide +kernel

/-- R427: after THERMTRIP_N a cold reset changes nothing. -/
theorem test_cold_reset_thermtrip : let s := after .thermtrip sysA
    s.pins.thermtrip = true ∧ after (.coldReset true true) s = s := by decide +kernel

theorem test_cold_reset : sysA.pins.thermtrip = false ∧ (after (.coldReset true true) sysA).parts = []
      ∧ ((after (.coldReset false true) sysA).boot.stage, (after (.coldReset false true) sysA).boot.haltCause) = (7, 1)
      ∧ (after (.coldReset true true) sysA).boot.stage = 6 := by decide +kernel

/-- A package in service that has a record and must activate an image. -/
def sysB : State := { sysA with boot := { sysA.boot with activate := some (0, 0), census := 5 } }

theorem test_warm_reset : sysB.off = false ∧ sysB.boot.stage = 5 ∧ sysB.boot.dead = [] ∧ sysB.activateDue = true ∧ sysB.boot.clockLost = false ∧ sysA.activateDue = false
      ∧ (after (.warmReset .firmware true true) sysB).boot.census = 5 ∧ (after (.warmReset .firmware true true) sysB).boot.activate = none
      ∧ after (.warmReset .firmware true true) sysA = sysA ∧ (sysA.hub.accepted.any fun q => q.opcode == 0xC0) = false := by decide +kernel

/-- FW_ACTIVATE's OK is the queue's next status, which is not yet written. -/
theorem test_warm_reset_not_due : let s := { sysA with boot := { sysA.boot with activate := some (0, 1) } }
    s.activateDue = false ∧ after (.warmReset .firmware true true) s = s := by decide +kernel

/-- R461: after a course clock lost in service only a cold reset recovers the package. -/
theorem test_warm_reset_clock_lost : let s := after (.referenceClockLoss 2) sysA
    s.boot.clockLost = true ∧ s.off = false ∧ s.boot.stage = 5 ∧ after (.warmReset .perst true true) s = s := by decide +kernel

/-- A retraining of stack 1 in service ends. -/
theorem test_retraining : let s := { sysA with hbms := [(1, { state := 1 })] }
    s.off = false ∧ s.boot.dead = [] ∧ s.boot.stage = 5 ∧ (s.stackReg 1).state = 1
      ∧ (after (.trainingAttemptEnd (.hbm 1) true 0) s).flash.retrains = 1 := by decide +kernel

/-- Stage 4 of a bring-up: stack 1 has tried twice, stack 2 three times. -/
def sysL : State := { sysA with boot := { stage := 2, attempts := [(1, 1), (2, 2)] } }

theorem test_training : sysL.off = false ∧ sysL.boot.dead = [] ∧ sysL.boot.stage = 2 ∧ (sysL.stackReg 1).state = 0 ∧ Tab.get 0 sysL.boot.attempts 1 = 1
      ∧ ((after (.trainingAttemptEnd (.hbm 1) true 0) sysL).stackReg 1).state = 1 ∧ (after (.trainingAttemptEnd (.hbm 1) true 0) sysL).boot.hbmLive = 2
      ∧ Tab.get 0 (after (.trainingAttemptEnd (.hbm 1) false 0) sysL).boot.attempts 1 = 2 := by decide +kernel

theorem test_training_lost : (sysL.stackReg 2).state = 0 ∧ Tab.get 0 sysL.boot.attempts 2 = 2
      ∧ ((after (.trainingAttemptEnd (.hbm 2) false 0) sysL).stackReg 2).state = 2 ∧ (after (.trainingAttemptEnd (.hbm 2) false 0) sysL).boot.hbmLost = 4
      ∧ sysL.hasLpddr = true ∧ bit sysL.board.lps 3 = true ∧ (sysL.lpReg 3).state = 0 ∧ ((after (.trainingAttemptEnd (.lp 3) true 2) sysL).lpReg 3).usable = 2 := by decide +kernel

/-- Every interface and course has trained. -/
def sysZ : State := { sysL with
  boot := { stage := 2, vaultLive := 0xFF, fullTest := true, path := 1 }
  hbms := (List.range 12).map fun i => (i, { state := 1 }), lps := (List.range 16).map fun i => (i, { state := 1, usable := 1 })
  crs := { sysL.crs with ports := (List.range 16).map fun i => (i, { state := 1 }) } }
/-- What the self-tests find, with or without a fault of the hub. -/
def testedR (ok : Bool) : SelfTest := { granules := 0, pipes := 0, hbms := 0, interfaces := 0, crcFails := [], hubOk := ok }

theorem test_bring_up_ready : sysZ.off = false ∧ sysZ.boot.stage = 2 ∧ sysZ.trained = true ∧ sysZ.fastPath = false
      ∧ (after (.bringUpReady (testedR true)) sysZ).boot.stage = 5 ∧ (after (.bringUpReady (testedR true)) sysZ).boot.fullTest = false := by decide +kernel

/-- Of two sequencers whose check failed, the one whose second copy failed too disables its granule. -/
theorem test_bring_up_crc : let r : SelfTest := { testedR true with crcFails := [(17, false), (34, true)] }
    crcGranules r = 4 := by decide +kernel

theorem test_bring_up_halts : (after (.bringUpReady (testedR false)) sysZ).boot.stage = 7 ∧ (after (.bringUpReady (testedR false)) sysZ).boot.haltCause = 2
      ∧ (testedR false).hubOk = false := by decide +kernel

/-! ### The command path and host commands -/

/-- A packet of an opcode with its fields. -/
def hp (op : Nat) (fs : List (Nat × Nat × Nat)) : List Byte := pkt ((0, 2, op) :: fs)
/-- A packet with the handle of context A. -/
def hq (op : Nat) (fs : List (Nat × Nat × Nat)) : List Byte := hp op ((8, 8, hA) :: fs)
/-- Command 7 is ready with the packet. -/
abbrev rdy (s : State) (p : List Byte) : Prop := (withCmd s p).ready 7 (pkOpcode p) (cmdOf p)
/-- The state after the command's row. -/
def ran (i : Nat → Instr) (s : State) (p : List Byte) : State := after (i 7) (withCmd s p)
/-- No command is left, and one status has been written. -/
abbrev ended (t : State) : Prop := t.hub.accepted = [] ∧ (t.queue 0 0).count = 1

/-- A reserved bit of the class: the queue's class is 0. -/
theorem test_command_refused : let p := hp 1 [(3, 1, 1)]
    let s := withCmd sysA p
    (1, Instr.identify) ∈ (hostRows [] 0).take 1 ∧ s.off = false ∧ s.cmd 7 = some (cmdOf p) ∧ (cmdOf p).opcode = 1 ∧ s.check 0 0 7 p = some (stBadParam, 3)
      ∧ ended (ran .identify sysA p) := ⟨by simp [hostRows], by decide +kernel⟩

theorem test_entry_taken : let s := sysA.hostWrite 0 (hp 1 [(4, 4, 9)])
    let t := s.takeOne 0 0
    s.nextEntry 0 0 = hp 1 [(4, 4, 9)] ∧ s.check 0 0 50 (hp 1 [(4, 4, 9)]) = none ∧ pkOpcode (hp 1 [(4, 4, 9)]) ∉ hasInterim
      ∧ (t.queue 0 0).sqHead = 1 ∧ t.hub.nextNumber = 51 ∧ t.hub.accepted.map (fun c => (c.number, c.tag)) = [(50, 9)] := by decide +kernel

theorem test_entry_refused : let s := sysA.hostWrite 0 (hp 0xFF [])
    s.check 0 0 50 (hp 0xFF []) = some (stBadOpcode, 0) ∧ (s.takeOne 0 0).hub.nextNumber = 50 ∧ ((s.takeOne 0 0).fn 0).rejected = 1 := by decide +kernel

theorem test_status : sysA.memsWf ∧ (statusPacket 3 0 0 0 true).length = 16 ∧ (sysA.fn 0).busMaster = true ∧ (sysA.queue 0 0).waiting = []
      ∧ (sysA.queue 0 0).cqFull = false ∧ (sysA.queue 0 0).cqTail < (sysA.queue 0 0).size
      ∧ ((sysA.status 0 0 (statusPacket 3 0 0 0 true)).queue 0 0).cqTail = 1 := by decide +kernel

theorem test_identify : rdy sysA (hp 1 [(16, 8, 0x4000)]) ∧ ended (ran .identify sysA (hp 1 [(16, 8, 0x4000)])) := by decide +kernel

theorem test_get_caps : rdy sysA (hp 2 [(16, 8, 0x4000)]) ∧ ended (ran .getCaps sysA (hp 2 [(16, 8, 0x4000)])) := by decide +kernel

theorem test_partition_create : let p := hp 0x10 [(16, 1, 1), (18, 2, 2)]
    rdy sysA p ∧ (withCmd sysA p).memsWf ∧ ((ran .partitionCreate sysA p).part 1).gmask = 2 := by decide +kernel

theorem test_partition_reset : let p := hp 0x12 [(16, 1, 0)]
    let s := ran .partitionReset sysT p
    rdy sysT p ∧ (withCmd sysT p).memsWf ∧ s.mems.sp = [] ∧ sysT.mems.sp ≠ [] ∧ (s.part 0).gmask = 1 ∧ (s.part 0).state = 2
      ∧ s.resetting 7 0x12 = some 0 ∧ ((after (.partitionReset 7) s).part 0).state = 1
      ∧ ended (after (.partitionReset 7) s) := by decide +kernel

theorem test_partition_destroy : let p := hp 0x11 [(16, 1, 0)]
    let s := ran .partitionDestroy sysT p
    rdy sysT p ∧ s.resetting 7 0x11 = some 0 ∧ s.frt.snoop = [] ∧ s.frt.moves = [] ∧ (∀ e ∈ s.frt.entry, eDrain e.2 = false)
      ∧ (after (.partitionDestroy 7) s).part 0 = {} ∧ (after (.partitionDestroy 7) s).entry 8 = 0 := by decide +kernel

theorem test_context_create : let p := hp 0x20 [(17, 1, 1), (18, 2, 1)]
    rdy sysA p ∧ ((ran .contextCreate sysA p).ctx 0 1).map (fun x => (x.gen, x.gmask, x.spUnits)) = some (2, 1, 0x10000) := by decide +kernel

/-- Context A with no LAUNCH. -/
def sysI : State := (core0 sysA fun _ => {}).modCtx 0 0 fun x => { x with launch := none }

theorem test_context_destroy : let p := hq 0x21 []
    let s := withCmd sysI p
    rdy sysI p ∧ (s.ctx 0 0).map (fun x => (x.launch, x.abandon, x.coreList.any fun g => s.stillRuns 0 0 g)) = some (none, none, false)
      ∧ (ran .contextDestroy sysI p).ctx 0 0 = none := by decide +kernel

/-- Launch table at page 8, one register image at page 9. -/
def launchP (fl : Nat) : List Byte := hq 0x41 [(16, 6, 2 ^ 22), (22, 6, 2 ^ 22 + 2 ^ 19), (28, 1, fl)]

/-- The table gives core 0 a program of one descriptor, and the other cores none. -/
def sysI1 : State := sysI.devPut (2 ^ 22) (toLE 16 (wordOf [(0, 6, 2 ^ 21), (8, 4, 1)]))

theorem test_launch : let p := launchP 1
    let s := withCmd sysI1 p
    let x := (s.ctx 0 0).getD ctxA
    rdy sysI1 p ∧ (match (s.begun 7).readImages 0 x (2 ^ 22) (2 ^ 22 + 2 ^ 19) true with | .inr (.ok im) => if im.sound then im.length else 0 | _ => 0) = 16
      ∧ ((ran .launch sysI1 p).ctx 0 0).map (fun x => (x.launch.isSome, x.cores.length)) = some (true, 16) := by decide +kernel

/-- Capo job 0 of context A, whose full image, 48 bytes of page 10, names the same table and registers. -/
def sysJ : State := (sysI.modJob 0 fun b => { b with enable := true, part := 0, ctx := 0, rec_ := { b.rec_ with fullImg := 2 ^ 22 + 2 ^ 20 } }).devPut
  (2 ^ 22 + 2 ^ 20) (toLE 48 (wordOf [(0, 6, 2 ^ 22), (6, 6, 2 ^ 22 + 2 ^ 19), (12, 1, 1)]))

theorem test_launch_unsound : let p := launchP 1
    let t := sysI1.devPut (2 ^ 22) (toLE 16 (wordOf [(0, 6, 2 ^ 21 + 32), (8, 4, 1)]))
    let s := withCmd t p
    rdy t p ∧ (match (s.begun 7).readImages 0 ((s.ctx 0 0).getD ctxA) (2 ^ 22) (2 ^ 22 + 2 ^ 19) true with
      | .inr (.ok im) => im.sound | _ => true) = false ∧ ended (ran .launch t p) := by decide +kernel

theorem test_launch_frame : let p := launchP 2
    let s := (withCmd sysJ p)
    let u := (s.begun 7).capoRelease 0 7
    rdy sysJ p ∧ s.jobOf 0 0 = some 0 ∧ (match u.capoImages 0 0 ((s.ctx 0 0).getD ctxA) (u.job 0).cheap with | .inr (.ok im) => if im.sound then im.length else 0 | _ => 0) = 16
      ∧ ((ran .launch sysJ p).job 0).frames = 1 := by decide +kernel

theorem test_preempt_abandon : let p := hq 0x42 [(16, 1, 1)]
    rdy sysI p ∧ ((withCmd sysI p).ctx 0 0).map (fun x => (x.launch, x.abandon)) = some (none, none) ∧ ended (ran .preempt sysI p) := by decide +kernel

theorem test_preempt : let p := hq 0x42 []
    let s := withCmd sysI p
    rdy sysI p ∧ (s.ctx 0 0).map (fun x => x.coreList.any fun g => s.stillRuns 0 0 g) = some false
      ∧ ((ran .preempt sysI p).ctx 0 0).map (·.preempted) = some true := by decide +kernel

theorem test_resume : let s := sysI.modCtx 0 0 fun x => { x with preempted := true }
    rdy s (hq 0x43 []) ∧ ((ran .resume s (hq 0x43 [])).ctx 0 0).map (·.preempted) = some false := by decide +kernel

/-- Context A with no step open. -/
def sysO : State := sysI.modCtx 0 0 fun x => { x with stepOpen := false }
def stepP (op n : Nat) : List Byte := hq op [(16, 8, n), (24, 8, 77)]

theorem test_step_begin : rdy sysO (stepP 0x50 6)
      ∧ ((ran .stepBegin sysO (stepP 0x50 6)).ctx 0 0).map (fun x => (x.step.toNat, x.seed.toNat, x.stepOpen)) = some (6, 77, true) := by decide +kernel

theorem test_step_end : let s := sysI.modCtx 0 0 fun x => { x with passed := List.range 16 }
    rdy s (stepP 0x51 5) ∧ ((withCmd s (stepP 0x51 5)).ctx 0 0).map (fun x => (x.stepPassed, x.step.toNat)) = some (true, 5) ∧ s.hasSeqs 0 0 = false
      ∧ (((withCmd s (stepP 0x51 5)).begun 7).openCkpt 0 0).isNone = true
      ∧ ((ran .stepEnd s (stepP 0x51 5)).ctx 0 0).map (·.stepOpen) = some false := by decide +kernel

theorem test_step_end_waits : rdy sysI (stepP 0x51 5) ∧ ((withCmd sysI (stepP 0x51 5)).ctx 0 0).map (·.stepPassed) = some false
      ∧ (ran .stepEnd sysI (stepP 0x51 5)).hub.accepted.length = 1 := by decide +kernel

/-- Frames of every pool, and PF0 is a bus master. -/
def sysF : State := sysA.modFrt fun f => { f with pools := (List.range 40).map fun i => (i, { live := true, frames := 64 }) }
def mapP (op tier fl : Nat) : List Byte := hp op [(16, 1, 0), (17, 1, tier), (18, 1, fl), (20, 6, 2 ^ 24), (26, 4, 1), (32, 8, 0x8000)]

theorem test_map_pages : rdy sysF (mapP 0x30 0 0) ∧ (withCmd sysF (mapP 0x30 0 0)).memsWf
      ∧ (let e := (sysF.mapPage (mapP 0x30 0 0) 0 0 32).entry 32; (eValid e, ePart e, eTier e, eShare e)) = (true, 0, 0, 1) := by decide +kernel

theorem test_map_host_pages : rdy (sysF.hostWrite 0x8000 (toLE 8 (5 * 2 ^ 19))) (mapP 0x30 5 0) ∧ sysF.inWindow 0 (32 * pageBytes) = false ∧ (sysF.fn 0).busMaster = true
      ∧ (let e := (sysF.mapHost (mapP 0x30 5 0) 0 [32] [5 * 2 ^ 19]).entry 32; (eValid e, eTier e, eFrame e)) = (true, 5, 5) := by decide +kernel

theorem test_map_window : rdy sysF (mapP 0x30 0 1) ∧ sysF.frt.poisoning = [] ∧ (ran .mapPages sysF (mapP 0x30 0 1)).frt.hwinPages = 1 := by decide +kernel

theorem test_unmap_pages : let p := hp 0x31 [(20, 6, 2 ^ 22), (26, 4, 1)]
    rdy sysA p ∧ sysA.frt.moves = [] ∧ sysA.frt.snoop = [] ∧ (∀ e ∈ sysA.frt.entry, eDrain e.2 = false)
      ∧ (ran .unmapPages sysA p).entry 8 = 0 ∧ eValid ((ran .unmapPages sysA p).entry 9) = true := by decide +kernel

/-- A write is allowed where it answers, and then the memories that it leaves are these. -/
def okState (r : Acc State) : Option Mems := match r with | .ok t => some t.mems | .bad _ _ | .wait _ => none

theorem test_device_write : sysA.memsWf ∧ sysA.frt.snoop = [] ∧ sysA.frt.poisoning.contains (pageOf (2 ^ 22)) = false ∧ 2 ^ 22 % pageBytes + 2 ≤ pageBytes
      ∧ okState (sysA.devWrite 0 .plain (2 ^ 22) [1, 2]) = some { hbm := [(2 ^ 22, 1), (2 ^ 22 + 1, 2)] } := by decide +kernel

/-! ### Host window, queues and functions -/

/-- The host window covers page 8. -/
def sysX : State := (sysA.devPut (2 ^ 22) [7]).modFrt fun f => { f with hwinPages := 1, hwinBase := 2 ^ 22 }
def okEntry (r : Acc Nat) : Option Nat := match r with | .ok e => some e | .bad _ _ | .wait _ => none

theorem test_window : sysX.off = false ∧ sysX.memsWf ∧ 0 < sysX.frt.hwinPages * pageBytes ∧ okEntry (sysX.translateRead 0 (2 ^ 22) .plain .newest) = some (plainEntry 8)
      ∧ okEntry (sysX.translateWrite 0 (2 ^ 22) .plain) = some (plainEntry 8) ∧ eTier (plainEntry 8) ≠ 5 ∧ sysX.frt.snoop = []
      ∧ (after (.hostWindowAccess 0 none true) sysX).rdata = 7 ∧ (after (.hostWindowAccess 0 none true) sysX).frt.snoop = [0] := by decide +kernel

/-- A filter of `n` lines, none of them line 0. -/
theorem window_full (n : Nat) (h : n = 262144) : let s := sysX.modFrt fun f => { f with snoop := List.replicate n 1 }
    s.frt.snoop.length = 262144 ∧ 0 / 64 ∉ s.frt.snoop ∧ s.off = false ∧ okEntry (s.translateRead 0 (2 ^ 22) .plain .newest) = some (plainEntry 8) :=
  ⟨(List.length_replicate ..).trans h, by simp [State.modFrt, List.mem_replicate], rfl, by subst h; decide +kernel⟩

/-- The filter is full: the read waits, and the line that entered first is taken back. -/
theorem test_window_full : let s := sysX.modFrt fun f => { f with snoop := List.replicate 262144 1 }
    s.frt.snoop.length = 262144 ∧ 0 / 64 ∉ s.frt.snoop ∧ s.off = false ∧ okEntry (s.translateRead 0 (2 ^ 22) .plain .newest) = some (plainEntry 8) :=
  window_full 262144 rfl

/-- A write to line 0 is held for the answer to its back-invalidation. -/
theorem test_birsp : let h : HeldWrite := { line := 0, entry := plainEntry 8, addr := 2 ^ 22, bytes := [9] }
    let s := sysX.modFrt fun f => { f with snoop := [0, 5], held := [h] }
    s.frt.held = [h] ∧ s.frt.hostReads = [] ∧ sysX.frt.held = [] ∧ sysX.frt.hostReads = [] ∧ sysX.frt.poisoning = [] ∧ (after (.birsp 0) s).frt.snoop = [5] ∧ (after (.birsp 0) s).mems.hbm = [(2 ^ 22, 9)] := by decide +kernel

theorem test_doorbells : sysA.off = false ∧ sysA.queueExists 0 0 = true ∧ (sysA.queue 0 0).enable = true ∧ (sysA.queue 0 0).size = 8 ∧ (sysA.queue 0 0).error = 0
      ∧ (sysA.queue 0 0).waiting = [] ∧ (sysA.bridge 4).isActive 0 = false
      ∧ ((after (.cqDoorbell 0 0 3) sysA).queue 0 0).cqHead = 3 ∧ ((after (.sqDoorbell 0 0 8) sysA).queue 0 0).error = 1 := by decide +kernel

theorem test_queue_enable : sysA.queueExists 0 1 = true ∧ (sysA.queue 0 1).enable = false ∧ sysA.mayEnable 0 = true
      ∧ ((after (.queueEnable 0 1 (2 ^ 31 + 64)) sysA).queue 0 1).size = 64 ∧ ((after (.queueEnable 0 0 (2 ^ 31 + 64)) sysA).queue 0 0).enable = true ∧ ((after (.queueDisable 0 0 0) sysA).queue 0 0).enable = false := by decide +kernel

/-- An entry waits in the queue of PF0. -/
def sysE : State := sysA.modQueue 0 0 fun q => { q with sqTail := 1 }

theorem test_functions : sysE.off = false ∧ sysE.readable 0 0 = true ∧ ((after (.commandFetchTimeout (.fetch 0 0)) sysE).queue 0 0).error = 2
      ∧ ((after (.busMasterDisable 0) sysE).fn 0).busMaster = false ∧ (after .vfEnable sysE).hub.vfEnable = true
      ∧ sysE.frt.silent = false ∧ (after .cxlLinkUp sysE).boot.cxl.isSome = true := by decide +kernel

theorem test_link_returns : let s := sysE.modFrt fun f => { f with silent := true }
    s.frt.silent = true ∧ (after .cxlLinkUp s).frt.silent = false := by decide +kernel

theorem test_host_read_timeout : let p := hq 0x40 []
    (withCmd sysA p).cmd 7 = some (cmdOf p) ∧ readsHost p = true ∧ (after (.commandFetchTimeout (.command 7)) (withCmd sysA p)).hub.accepted = [] := by decide +kernel

theorem test_function_reset : sysA.boot.stage = 5 ∧ (after (.functionLevelReset .pf0) sysL).hub = sysL.hub ∧ sysL.boot.stage ≠ 5 ∧ (sysA.part 0).state ≠ 0 ∧ ((after (.functionLevelReset (.vf 1)) sysA).part 0).ctxs = []
      ∧ ((after (.functionLevelReset .pf1) sysA).part 0).ctxs = [] ∧ (after (.functionLevelReset .pf0) sysA).parts = sysA.parts := by decide +kernel

/-! ### COPY and LOAD_PROGRAM -/

def copyP (fl : Nat) : List Byte := hp 0x32 [(20, 8, 2 ^ 22), (28, 8, 2 ^ 23), (36, 4, 2), (40, 1, fl)]

theorem test_copy : rdy sysX (copyP 0) ∧ rdy sysX (copyP 1) ∧ rdy sysX (copyP 2) ∧ (sysX.fn 0).busMaster = true
      ∧ (cmdOf (copyP 0)).offset = 0 ∧ sysX.heldIn (2 ^ 23) 2 = false
      ∧ (ran .copy (sysX.modFrt fun f => { f with entry := Tab.set 0 f.entry 16 (plainEntry 16) }) (copyP 0)).mems.hbm = [(2 ^ 22, 7), (2 ^ 23, 7)] := by decide +kernel

theorem test_copy_refused : let p := hp 0x32 [(20, 8, 2 ^ 30), (28, 8, 2 ^ 22), (36, 4, 2)]
    rdy sysX p ∧ (match sysX.devRead 0 .plain .newest (2 ^ 30) 2 with | .bad a q => some (a, q) | .ok _ | .wait _ => none) = some (2 ^ 30, false)
      ∧ (ran .copy sysX p).frt.faultValid = true := by decide +kernel

theorem test_load_program : let p := hq 0x40 [(16, 8, 0x8000), (24, 4, 1), (28, 6, 2 ^ 22)]
    rdy sysI p ∧ (sysI.fn 0).busMaster = true ∧ okState ((withCmd sysI p).devWrite 0 .plain (2 ^ 22) (fill 64 0)) = some {}
      ∧ (ran .loadProgram (sysI.hostWrite 0x8000 [5]) p).mems.hbm = [(2 ^ 22, 5)] := by decide +kernel

/-! ### Checkpoints, vault, life log -/

/-- The vault with no generation, in three areas of 1 GiB. -/
def sysVt : State := { sysO with vault := { sysO.vault with enable := true, areas := 3, areaGib := 1, dies := 1, dieBlocks := 60, scrubGap := 1 } }

/-- A CRC-64 has 64 bits. -/
theorem crc64Bits_lt (k : Nat) {r : Nat} (h : r < 2 ^ 64) : crc64Bits k r < 2 ^ 64 := by
  induction k generalizing r with
  | zero => exact h
  | succ k ih =>
    unfold crc64Bits
    split
    · exact ih (Nat.xor_lt_two_pow (by omega) (by decide))
    · exact ih (by omega)

theorem crc64_lt (bs : List Byte) : crc64 bs < 2 ^ 64 := by
  suffices h : ∀ (bs : List Byte) (r : Nat), r < 2 ^ 64 → bs.foldl (fun r b => crc64Bits 8 (Nat.xor r b.toNat)) r < 2 ^ 64 from h bs 0 (by decide)
  intro bs
  induction bs with
  | nil => exact fun r h => h
  | cons b t ih => exact fun r h => ih _ (crc64Bits_lt 8 (Nat.xor_lt_two_pow h (by have := b.isLt; omega)))

/-- A committed generation of partition 0 with id 4, step 9 and no pages in area 0: the head of its commit record (R411). -/
def genHead : Mem := Mem.write [] 0 (toLE 0x40 (wordOf [(0, 4, 0x56410001), (8, 8, 1), (0x10, 4, 4), (0x18, 8, 9)]))
/-- The vault that holds it. -/
def vaultG : Vault := { sysVt.vault with media := genHead.setNum 0xFF8 8 (crc64 (genHead.read 0 0xFF8)) }
def sysGn : State := { sysVt with vault := vaultG }
/-- That generation. -/
def genA : GenInfo := { area := 0, seq := 1, id := 4, step := 9, part := 0, node := 0, dirBytes := 0, dataBytes := 0 }

theorem genHead_wf : genHead.wf = true := by decide +kernel

/-- A field of its head. -/
theorem test_generation_field (off n : Nat) (h : off + n ≤ 0xFF8) : vaultG.recField 0 off n = genHead.num off n := by
  have e : vaultG.recField 0 off n = vaultG.media.num off n := by
    simp [Vault.recField, Vault.bytes, Mem.num]
  rw [e]
  exact Mem.num_setNum_out _ _ _ genHead_wf (.inl h)

theorem test_recorded : vaultG.recorded 0 = some genA := by
  have c : vaultG.recField 0 0xFF8 8 = crc64 (vaultG.bytes 0 0 0xFF8) := by
    have e : vaultG.recField 0 0xFF8 8 = vaultG.media.num 0xFF8 8 := by simp [Vault.recField, Vault.bytes, Mem.num]
    have b : vaultG.bytes 0 0 0xFF8 = genHead.read 0 0xFF8 := by
      simp only [Vault.bytes, Nat.zero_mul, Nat.zero_add]
      exact Mem.read_write_out _ _ genHead_wf (.inl (by decide))
    rw [e, b]
    refine (Mem.num_setNum _ _ _ genHead_wf).trans (Nat.mod_eq_of_lt ?_)
    exact crc64_lt _
  have f : ∀ p ∈ ([(0, 4, 0x56410001), (8, 8, 1), (0x10, 4, 4), (0x18, 8, 9), (0x20, 2, 0), (0x28, 8, 0), (0x30, 8, 0), (0x38, 8, 0)] : List (Nat × Nat × Nat)),
      genHead.num p.1 p.2.1 = p.2.2 := by decide +kernel
  have g := fun p hp hb => (test_generation_field p.1 p.2.1 hb).trans (f p hp)
  have g0 := g (0, 4, 0x56410001) (by simp) (by decide)
  have g1 := g (8, 8, 1) (by simp) (by decide)
  have g2 := g (0x10, 4, 4) (by simp) (by decide)
  have g3 := g (0x18, 8, 9) (by simp) (by decide)
  have g4 := g (0x20, 2, 0) (by simp) (by decide)
  have g5 := g (0x28, 8, 0) (by simp) (by decide)
  have g6 := g (0x30, 8, 0) (by simp) (by decide)
  have y : vaultG.areaBytes = 2 ^ 30 := by decide +kernel
  have w : field 0 15 12 = 0 ∧ field 0 11 0 = 0 := by decide
  simp [Vault.recorded, g0, g1, g2, g3, g4, g5, g6, c, y, w, genA]

theorem test_data_valid : vaultG.dataValid genA = true := by
  have z : crc64 (vaultG.bytes 0 0x1000 0) = 0 := by decide +kernel
  have d : vaultG.dataValid genA = (vaultG.recField 0 0x38 8 == crc64 (vaultG.bytes 0 0x1000 0)) := rfl
  rw [d, test_generation_field 0x38 8 (by decide), z]
  decide +kernel

theorem test_generation : vaultG.generation 0 = some genA := by
  rw [Vault.generation, test_recorded]
  simp [Option.filter, test_data_valid]

/-- The other areas hold none. -/
theorem test_generations : vaultG.generations = [genA] := by
  have h : ∀ i ∈ [1, 2], vaultG.generation i = none := by
    intro i hi
    have e : vaultG.recField i 0 4 = 0 := by
      have w : vaultG.bytes i 0 4 = genHead.read (i * 2 ^ 30) 4 := by
        simp only [Vault.bytes, Nat.add_zero]
        refine Mem.read_write_out _ _ genHead_wf (.inr ?_)
        rw [length_toLE]
        simp at hi
        rcases hi with rfl | rfl <;> decide
      have : ofLE (genHead.read (i * 2 ^ 30) 4) = 0 := by
        simp at hi
        rcases hi with rfl | rfl <;> decide +kernel
      rw [Vault.recField, w, this]
    simp [Vault.generation, Vault.recorded, e]
  have a : vaultG.areas = 3 := rfl
  simp [Vault.generations, a, List.range_succ, test_generation, h 1, h 2]
/-- CHECKPOINT_RESTORE of id 4. -/
def restoreP : List Byte := hq 0x82 [(16, 4, 4)]

theorem restore_id : pk restoreP 16 4 = 4 := by decide +kernel

/-- The id names the one committed generation. -/
theorem restore_named (v : Vault) (h : v.generations = [genA]) : v.named 0 4 = [genA] := by simp [Vault.named, h, genA]

theorem restore_check (v : Vault) (h : v.named 0 4 = [genA]) : (withCmd { sysO with vault := v } restoreP).stateCheck 0 7 restoreP = none := by
  have e : (withCmd { sysO with vault := v } restoreP).stateCheck 0 7 restoreP
      = if (v.named 0 (pk restoreP 16 4)).isEmpty = true then badParam 16 else none := by
    have h1 : pkOpcode restoreP = 0x82 := by decide +kernel
    have h2 : (withCmd { sysO with vault := v } restoreP).handleCtx (pkHandle restoreP) = some (0, 0, { ctxA with launch := none, stepOpen := false }) := rfl
    have h3 : State.cmdPart (withCmd { sysO with vault := v } restoreP) restoreP = some 0 := rfl
    have h6 : ((withCmd { sysO with vault := v } restoreP).part 0).state = 1 := rfl
    have h9 : (withCmd { sysO with vault := v } restoreP).jobs.fills = [] := rfl
    have h10 : (withCmd { sysO with vault := v } restoreP).stepIsOpen { ctxA with launch := none, stepOpen := false } (pkHandle restoreP) 7 = false := rfl
    have h11 : ((withCmd { sysO with vault := v } restoreP).pair 0).state = 0 := rfl
    have h12 : (withCmd { sysO with vault := v } restoreP).vault = v := rfl
    simp [State.stateCheck, State.rules, State.restoreRules, h1, h2, h3, h6, h9, h10, h11, h12, usesHandle]
  rw [e, restore_id, h]
  rfl

theorem test_restore : rdy sysGn restoreP ∧ sysGn.vault.enable = true ∧ sysGn.vault.chosen 0 (pk restoreP 16 4) = some genA ∧ sysGn.vault.savedPages genA = []
      ∧ sysGn.vault.dataValid genA = true ∧ sysGn.plan 0 = 0 := by
  refine ⟨⟨by decide +kernel, by decide +kernel, by decide +kernel, by decide +kernel, restore_check vaultG (restore_named vaultG test_generations)⟩, by decide +kernel, ?_,
    by decide +kernel, test_data_valid, by decide +kernel⟩
  have hd : vaultG.isDamaged genA = false := by decide +kernel
  show vaultG.chosen 0 (pk restoreP 16 4) = some genA
  rw [restore_id, Vault.chosen, restore_named vaultG test_generations]
  simp [hd, newestGen]

theorem test_restore_damaged : let s := { sysGn with vault := { vaultG with damaged := [0] } }
    rdy s restoreP ∧ s.vault.enable = true ∧ s.vault.chosen 0 (pk restoreP 16 4) = none := by
  have hn := restore_named { vaultG with damaged := [0] } test_generations
  refine ⟨⟨by decide +kernel, by decide +kernel, by decide +kernel, by decide +kernel, restore_check _ hn⟩, by decide +kernel, ?_⟩
  have hd : ({ vaultG with damaged := [0] } : Vault).isDamaged genA = true := by decide +kernel
  show ({ vaultG with damaged := [0] } : Vault).chosen 0 (pk restoreP 16 4) = none
  rw [restore_id, Vault.chosen, hn]
  simp [hd, newestGen]

/-- An uncorrectable codeword that the read itself meets lies in the generation: w of the statement is 0. -/
theorem test_restore_lost : genA.area * vaultG.areaBytes / 0x1000 ≤ 0
    ∧ 0 < (genA.area * vaultG.areaBytes + 0x1000 + genA.dirBytes + genA.dataBytes) / 0x1000 := by decide +kernel

theorem test_scrub : sysGn.off = false ∧ sysGn.hasVault = true ∧ sysGn.vault.scrubEn = true ∧ sysGn.vault.scrubGap ≠ 0
      ∧ patrolAt sysGn.vault sysGn.vault.scrubAt = some 0 := by
  refine ⟨by decide +kernel, by decide +kernel, by decide +kernel, by decide +kernel, ?_⟩
  have c : vaultG.codewords genA = (0, 1) := by decide +kernel
  show patrolAt vaultG 0 = some 0
  simp [patrolAt, test_generations, c]

/-- The plan of partition 0 lies in page 8 and names context A. -/
def sysPl : State := { (sysVt.devPut (2 ^ 22) (toLE 8 hA)) with jobs := { sysVt.jobs with plans := [(0, 2 ^ 22)] } }

theorem test_checkpoint_begin : let p := hq 0x80 [(16, 4, 5)]
    rdy sysPl p ∧ (ran .checkpointBegin sysPl p).jobs.ckpts.map (fun k => (k.id, k.captured)) = [(5, false)] := by decide +kernel

/-- Checkpoint 5 of context A is open, captured, and drains into area 1: page 8 is left. -/
def ckptA (todo : List GenPage) (cmd failed : Option Nat) : State := { sysPl with
  jobs := { sysPl.jobs with captures := [(0, 0)], ckpts := [{ part := 0, ctx := 0, id := 5, captured := true, todo := todo, area := some 1, cmds := cmd.toList, failed := failed }] } }
def pageG : GenPage := { page := 8, entry := 8, kind := 0, version := 0 }

theorem test_commit_failed : let p := hq 0x81 [(16, 4, 5)]
    let s := ckptA [] none (some stVaultFull)
    rdy s p ∧ (s.openCkpt 0 0).map (·.failed) = some (some stVaultFull) ∧ (ran .checkpointCommit s p).jobs.ckpts = [] := by decide +kernel

theorem test_commit_waits : let p := hq 0x81 [(16, 4, 5)]
    let s := { ckptA [pageG] none none with vault := { sysVt.vault with enable := false } }
    rdy s p ∧ (s.openCkpt 0 0).map (·.failed) = some none ∧ s.vault.enable = false ∧ s.frt.late = []
      ∧ (ran .checkpointCommit s p).jobs.ckpts.map (·.cmds) = [[7]] := by decide +kernel

theorem test_drain : let s := ckptA [pageG] none none
    s.off = false ∧ s.vault.enable = true ∧ s.drainingCkpt.map (fun k => (k.area, k.todo, k.orphan)) = some (some 1, [pageG], false) ∧ s.frt.late = [] ∧ eValid (s.entry 8) = true
      ∧ eState (s.entry 8) ≠ 3 ∧ eTier (s.entry 8) ≤ 5 ∧ s.vault.media.wf = true := by decide +kernel

theorem test_commit_record : let s := withCmd (ckptA [] (some 7) none) (hq 0x81 [(16, 4, 5)])
    s.committingCkpt.map (fun k => (k.area, k.todo, k.auto, k.cmds)) = some (some 1, [], false, [7]) ∧ s.frt.late = [] ∧ s.vault.media.wf = true
      ∧ (after .commitRecordDurable s).vault.lastId = 5 ∧ (after .commitRecordDurable s).jobs.ckpts = [] := by decide +kernel

/-- The metadata with a CRC of its own. -/
def tbl (t : NandTable) : List NandTable := [{ t with crc := crc64 t.body }]
/-- Segment 64 lies in block 3, which is open; block 50 is a spare, and block 7 is worn. -/
def sysNd : State := { sysVt with vault := { sysVt.vault with progAt := 2 ^ 30 + 1, tables := tbl { map := [(64, 3)], spares := [50], erases := [(3, 1), (7, 300)] } } }

theorem test_program_fail : sysNd.off = false ∧ sysNd.hasVault = true ∧ sysNd.vault.segOf (sysNd.vault.progAt - 1) = 64
      ∧ sysNd.vault.freshest sysNd.vault.table.spares = some 50 ∧ (after .vaultProgramFail sysNd).vault.table.map = [(64, 50)]
      ∧ (after .vaultProgramFail sysNd).vault.table.bad = [3] ∧ (after .vaultProgramFail sysNd).vault.table.spares = [] := by decide +kernel

def vaultP (op : Nat) : List Byte := hp op [(16, 8, 0x8000), (24, 8, 2 ^ 30), (32, 4, 0x1000)]

theorem test_vault_access : rdy sysVt (vaultP 0x83) ∧ rdy sysVt (vaultP 0x84) ∧ sysVt.vault.unreadable (2 ^ 30) 0x1000 = false ∧ (sysVt.fn 0).busMaster = true
      ∧ (ran (fun n => .vaultWrite ⟨n, 0⟩) (sysVt.hostWrite 0x8000 [5]) (vaultP 0x84)).vault.media.byte (2 ^ 30) = 5 := by decide +kernel

theorem test_vault_read_damaged : let s := { sysVt with vault := { sysVt.vault with damaged := [2 ^ 18] } }
    rdy s (vaultP 0x83) ∧ s.vault.unreadable (2 ^ 30) 0x1000 = true ∧ (ran (fun n => .vaultRead ⟨n, []⟩) s (vaultP 0x83)).vault.evMedia = true := by decide +kernel

/-- R406: the read itself meets a retry, and a codeword that no offset corrects. -/
theorem test_vault_read_meets : (ran (fun n => .vaultRead ⟨n, [(2 ^ 18, .retried)]⟩) sysVt (vaultP 0x83)).vault.readRetries = 1
      ∧ 2 ^ 30 / 0x1000 ≤ 2 ^ 18 ∧ 2 ^ 18 < (2 ^ 30 + 0x1000) / 0x1000
      ∧ (ran (fun n => .vaultRead ⟨n, [(2 ^ 18, .uncorrectable)]⟩) sysVt (vaultP 0x83)).vault.damaged = [2 ^ 18] := by decide +kernel

theorem test_format : let s := { sysVt with vault := { sysVt.vault with usableGib := 9, genGib := 2 } }
    s.off = false ∧ s.hasVault = true ∧ bit 5 2 = true ∧ s.vault.state = 0 ∧ s.jobs.captures = []
      ∧ (after (.format 5) s).vault.areas = 4 ∧ (after (.format 5) s).vault.media = [] := by decide +kernel

theorem test_wear_level : sysNd.vault.state = 0 ∧ 200 < sysNd.vault.maxErase - sysNd.vault.minErase ∧ sysNd.vault.coldest = some 64
      ∧ sysNd.vault.freshest sysNd.vault.freeBlocks = some 0 ∧ (after .wearLevelMove sysNd).vault.table.map = [(64, 0)] := by decide +kernel

theorem test_set_time : let p := hp 0xA0 [(16, 8, 1234), (24, 4, 2)]
    rdy sysA p ∧ sysA.flash.queue.length < 64 ∧ (ran .setTime sysA p).flash.wall = 1234 ∧ (ran .setTime sysA p).flash.queue.length = 1 := by decide +kernel

theorem test_read_life_log : rdy sysA (hp 0xA1 [(16, 8, 0x8000), (24, 4, 64)]) ∧ (sysA.fn 0).busMaster = true := by decide +kernel

/-- A record waits, and slot 3 is next. -/
def sysLg : State := { sysA with flash := { sysA.flash with queue := [fill 64 1], at_ := 3, nextSeq := 9 } }

theorem test_log_record : sysLg.off = false ∧ 0 < sysLg.flash.at_ % 1024 ∧ sysLg.flash.at_ % 1024 < 1023 ∧ (∀ r ∈ sysA.flash.queue, leAt r 0 1 ≠ 1)
      ∧ (after (.logRecordWrite true) sysLg).flash.queue = [] ∧ (after (.logRecordWrite true) sysLg).flash.nextSeq = 10
      ∧ Tab.find (after (.logRecordWrite false) sysLg).flash.log 3 = some (fill 64 0)
      ∧ (after .lifeLogSummary sysA).flash.queue.length = 1 := by decide +kernel

/-! ### Security, power and heat -/

theorem test_firmware : rdy sysA (hp 0xC0 [(16, 8, 0x8000), (24, 4, 4096)]) ∧ sysA.targetSlot = 1
      ∧ (let s := { sysA with sec := { sysA.sec with stageValid := true, stageSlot := 1 } }
        rdy s (hp 0xC1 [(16, 1, 1)]) ∧ (ran .fwActivate s (hp 0xC1 [(16, 1, 1)])).boot.activate = some (0, 1)) := by decide +kernel

/-- The identity key is there. -/
def sysKey : State := { sysA with sec := { sysA.sec with keyOk := true, aliasOk := true, negotiated := true } }
def debugP (op : Nat) : List Byte := hp 0xD1 [(16, 1, op), (24, 8, 0x8000), (32, 4, 64)]

theorem test_attest : rdy sysKey (hp 0xD0 [(16, 8, 0x8000), (24, 4, 512)]) ∧ (ran .attest sysKey (hp 0xD0 [(16, 8, 0x8000), (24, 4, 512)])).sec.attests = 1 := by decide +kernel

theorem test_debug : (∀ op ∈ [0, 1, 2], rdy sysKey (debugP op)) ∧ (ran .debugUnlock sysKey (debugP 0)).sec.challenge.isSome = true
      ∧ (∀ q ∈ (withCmd sysKey (debugP 2)).hub.accepted, q.opcode ≠ 0xE0) ∧ (ran .debugUnlock sysKey (debugP 2)).sec.debug = 0 := by decide +kernel

/-- A response with no challenge open is bad; the third locks debug out. -/
theorem test_debug_locks : let s := { sysKey with sec := { sysKey.sec with failures := 2 } }
    (ran .debugUnlock s (debugP 1)).sec.debug = 2 ∧ (ran .debugUnlock s (debugP 1)).sec.failures = 3 := by decide +kernel

theorem test_debug_read : let s := { sysKey with sec := { sysKey.sec with debug := 1 } }
    rdy s (hp 0xE0 [(16, 2, 3), (24, 8, 0x8000)]) ∧ ended (ran .debugReadAcc s (hp 0xE0 [(16, 2, 3), (24, 8, 0x8000)])) := by decide +kernel

theorem test_mailbox : sysA.off = false ∧ sysA.sec.negotiated = false ∧ sysA.sec.keyOk = false ∧ (after (.spdmRequest .malformed) sysA).sec.spdmErrors = 1
      ∧ sysKey.sec.sessions + sysKey.sec.handshakes < 2 ∧ (after (.spdmRequest .keyExchange) sysKey).sec.handshakes = 1
      ∧ (after (.spdmRequest (.finish true)) (after (.spdmRequest .keyExchange) sysKey)).sec.sessions = 1 := by decide +kernel

theorem test_mailbox_measurements : sysKey.sec.negotiated = true ∧ sysKey.sec.keyOk = true ∧ sysKey.sec.aliasOk = true
      ∧ (after (.spdmRequest (.measurements false)) sysKey).sec.answer.length = 100 ∧ sysKey.sec.sessions = 0
      ∧ (after (.spdmRequest .heartbeat) sysKey).sec.spdmErrors = 1 := by decide +kernel

theorem test_mailbox_full : let s := { sysKey with sec := { sysKey.sec with handshakes := 1, sessions := 1 } }
    2 ≤ s.sec.sessions + s.sec.handshakes ∧ (after (.spdmRequest .keyExchange) s).sec.spdmErrors = 1 ∧ (after (.spdmRequest .endSession) s).sec.sessions = 0
      ∧ after (.spdmRequest (.ideKey 2 .setGo)) s = after (.spdmRequest .malformed) s := by decide +kernel

/-- R443: a key of 256 bits comes into use with KEY_SET_GO, on CXL.cachemem in containment mode only. -/
theorem test_ide : let s := { sysKey with sec := { sysKey.sec with sessions := 1 } }
    let key := List.replicate 32 7
    ((after (.spdmRequest (.ideKey 0 .setGo)) (after (.spdmRequest (.ideKey 0 (.program false key))) s)).sec.ideStream 0).active = some key
      ∧ (after (.spdmRequest (.ideKey 1 (.program false key))) s).sec.spdmErrors = 1 := by decide +kernel

/-- R442: a negotiation needs each algorithm; slot 0 holds the chain. -/
theorem test_negotiation : (after (.spdmRequest (.algorithms spdmAlgs)) sysA).sec.negotiated = true
      ∧ (after (.spdmRequest (.algorithms [.sm2Signature])) sysA).sec.spdmErrors = 1 := by decide +kernel

/-- R463: the device answers at its dynamic address. -/
theorem test_sideband : let s := after (.sidebandMessage (.assign 9)) sysA
    s.sec.sbDynamic = some 9 ∧ (after (.sidebandMessage (.mctp 9 [])) s).sec.sbAnswers = 1 ∧ after (.sidebandMessage (.mctp s.sec.sbAddr [])) s = s := by decide +kernel

/-- A budget of 900 W waits, with floors of 4 · 80 + 90 + 60. -/
def sysBd : State := withCmd (let b := sysA.bow; { sysA with bow := { b with enable := true } }) (hp 0xB0 [(16, 2, 900)])

theorem test_budget : sysBd.ready 7 0xB0 (cmdOf (hp 0xB0 [(16, 2, 900)])) ∧ (after (.powerBudget 7) sysBd).hub.accepted.length = 1
      ∧ (after (.grantPeriod [100, 100, 100, 100, 100, 100] []) sysBd).bow.watts = 900 ∧ (after (.grantPeriod [] []) sysBd).bow.belowFloor = false
      ∧ 4 * sysBd.bow.dieFloor + sysBd.bow.hubFloor + sysBd.bow.memFloor ≤ 900 := by decide +kernel

/-- Die 0 is hot at step 2 and asks for step 3's voltage. -/
def sysHt (gliding : Bool) : State := { sysA with bow := { sysA.bow with enable := true, dies := [(0, { hot := true, step := 2, goal := 3, asking := true, gliding := gliding })] } }

theorem test_die_power : (sysHt false).dieOff 0 = false ∧ ((sysHt false).bowDie 0).asking = true ∧ ((sysHt false).bowDie 0).halved = false
      ∧ ((after (.voltageConfirm 0 (stepVolts 3)) (sysHt false)).bowDie 0).gliding = true
      ∧ ((after (.glideComplete 0) (sysHt true)).bowDie 0).step = 3 ∧ ((after (.hotStep 0) (sysHt false)).bowDie 0).goal = 3
      ∧ ((after (.droop 0) (sysHt false)).bowDie 0).halved = true ∧ (after (.droop 0) (sysHt false)).lth.droops = 1 := by decide +kernel

theorem test_heat : ((after (.thermalSample (List.replicate 256 0)) (sysHt false)).bowDie 0).hot = false
      ∧ ((after (.thermalSample (List.replicate 256 4000)) sysA).bowDie 1).hot = true ∧ (after (.thermalSample (List.replicate 256 4000)) sysA).pins.alert = true := by decide +kernel

/-! ### The Resonator -/

/-- The Resonator is on. -/
def sysRes : State := { sysI with res := { sysI.res with enable := true } }
/-- KV_SEQ_OPEN of key 5: one layer, one head of 16 elements in E4M3, decay 1, window 1 and budget 1. -/
def openP : List Byte := hq 0x70 [(16, 4, 5), (20, 2, 1), (22, 1, 1), (23, 1, 1), (24, 1, 3), (36, 4, 0x3F800000), (40, 2, 1), (42, 2, 1)]

theorem test_kv_open : rdy sysRes openP ∧ (ran .kvSeqOpen sysRes openP).res.seqs.map (fun q => (q.key, q.status, q.cmd)) = [(5, 0, some 7)] := by decide +kernel

/-- Sequence 5 of context A is faulted; its step is 5, and every core has passed it. -/
def sysSq : State :=
  let s := sysRes.modCtx 0 0 fun x => { x with passed := List.range 16 }
  { s with res := { s.res with seqs := [{ part := 0, ctx := 0, key := 5, params := fill 48 0, status := 4 }] } }

theorem test_kv_close_fork : rdy sysSq (hq 0x71 [(16, 4, 5)]) ∧ rdy sysSq (hq 0x72 [(16, 4, 5), (20, 4, 6)])
      ∧ (ran .kvSeqClose sysSq (hq 0x71 [(16, 4, 5)])).hub.accepted.length = 1
      ∧ (ran .kvFork sysSq (hq 0x72 [(16, 4, 5), (20, 4, 6)])).hub.accepted.length = 1 := by decide +kernel

theorem test_step_fold : let s := withCmd sysSq (stepP 0x51 5)
    s.frt.silent = false ∧ (s.ctx 0 0).map (fun x => (x.stepPassed, s.stepEnding 0 0 x, decide ((s.resPart 0).folded.find 0 ≠ some x.step))) = some (true, true, true)
      ∧ (s.resPart 0).fold = none ∧ s.hasSeqs 0 0 = true := by decide +kernel

/-- With no sequence but a fork of it that waits for a fold, there is no sequence of status other than 0. -/
theorem test_step_fold_ends : let s := { withCmd sysSq (stepP 0x51 5) with res := { sysSq.res with seqs := [] }, jobs := { sysSq.jobs with reopen := [{ part := 0, ctx := 0, key := 5, params := fill 48 0 }] } }
    s.hasSeqs 0 0 = true ∧ (∀ q ∈ s.res.seqs, q.part = 0 → q.ctx = 0 → q.status = 0) := by decide +kernel

theorem test_step_fold_waits : (sysRes.ctx 0 0).map (·.stepPassed) = some false ∧ (sysRes.resPart 0).fold = none ∧ sysRes.off = false
      ∧ after (.stepFold 0 0) sysRes = sysRes := by decide +kernel

/-- The host leaves requests unanswered, and page 8 of the partition is in host memory. -/
theorem test_step_fold_silent : let s := sysSq.modFrt fun f => { f with silent := true, entry := [(8, mkEntry 5 0 0 1 0 0 false false false 8)] }
    s.off = false ∧ s.frt.silent = true ∧ (∀ e ∈ s.frt.entry, eValid e.2 = true ∧ ePart e.2 = 0 ∧ eTier e.2 = 5)
      ∧ ((after (.stepFold 0 0) s).resPart 0).fold = none := by decide +kernel

theorem test_swap : let s := sysSq.modRes 0 fun r => { r with swapping := [(5, 8, 9)] }
    (s.resPart 0).swapping.find? (fun w => w.2.1 == 8) = some (5, 8, 9) ∧ s.frt.pageSnooped 8 = false ∧ s.frt.pageSnooped 9 = false ∧ s.frt.silent = false
      ∧ ((after (.swapCopyComplete 0 8 .destinationFailed) s).resPart 0).swapping = [] := by decide +kernel

/-! ### Pegbox and Unison -/

/-- A raw sample of 2 records of U8 (codec 5): one record is kept, and its output goes to page 8. -/
def rawDesc : List Byte := pkt [(6, 1, 5), (8, 8, 0x9000), (16, 4, 2), (20, 2, 0), (22, 2, 1), (24, 1, 1), (25, 1, 0), (26, 2, 2), (32, 6, 2 ^ 22)]
/-- Its parameters: BF16 output of one value. -/
def rawParams : List Byte := toLE 192 (wordOf [(0, 1, 1), (16, 2, 1), (18, 2, 1), (0x1C, 1, 1)])
def sysPq : State := let s := sysA.modPegQueue 0 fun q => { q with enable := true, timeout := 5 }
  { s with peg := { s.peg with pipeEn := 1 }, boot := { s.boot with pipeOk := 1 } }
def submitP : List Byte := hq 0x60 [(18, 2, 1), (20, 8, 0x8000), (28, 8, 0x8800), (44, 6, 2 ^ 22)]

theorem test_submit : let s := (sysPq.hostWrite 0x8000 rawDesc).hostWrite 0x8800 rawParams
    rdy s submitP ∧ (s.fn 0).busMaster = true ∧ sampleOk rawDesc = true ∧ paramsOk rawParams = true ∧ ended (ran .submitSamples s submitP) := by decide +kernel

theorem test_submit_bad : let s := sysPq.hostWrite 0x8000 (pkt [(6, 1, 9)])
    rdy s submitP ∧ sampleOk (pkt [(6, 1, 9)]) = false ∧ ended (ran .submitSamples s submitP) ∧ ((ran .submitSamples s submitP).pegQueue 0).samples = [] := by decide +kernel

/-- Group 1 of queues 0 and 1, whose reference is the first. -/
def sensorP (op : Nat) : List Byte := hp 0x61 [(16, 1, 1), (17, 1, op), (18, 1, 2), (24, 2, 2), (34, 2, 1)]
def sysUn : State := ran .sensorConfig sysPq (sensorP 0)

theorem test_sensor_config : rdy sysPq (sensorP 0) ∧ (Tab.get ({} : UniGroup) sysUn.uni.groups 1).streams.map (·.1) = [0, 1] := by decide +kernel

/-- The group formed, without the command's traces in the queue. -/
def sysU1 : State := { sysPq with uni := { sysPq.uni with groups := [(1, { active := true, streams := [(0, false), (1, false)], samples := [[], []] })] } }

theorem test_sensor_ended : rdy sysU1 (sensorP 1) ∧ (Tab.get ({} : UniGroup) (ran .sensorConfig sysU1 (sensorP 1)).uni.groups 1).ended = 2
      ∧ rdy sysU1 (sensorP 2) ∧ (Tab.get ({} : UniGroup) (ran .sensorConfig sysU1 (sensorP 2)).uni.groups 1).active = false := by decide +kernel

/-- Queue 0 holds sample 4 of a batch of two, in a state. -/
def sysSm (st : SampleState) : State := (sysU1.modPegQueue 0 fun q => { q with
  samples := [{ serial := 4, desc := rawDesc, state := st }], cursor := 4
  batches := [{ first := 4, count := 2, record := 2 ^ 22 + 2 ^ 20, params := rawParams, seed := 0, fn := 0 }] })

theorem test_pipe_dispatch : let s := sysSm .window
    s.off = false ∧ ((List.range 16).find? fun p => bit s.peg.pipeEn p && bit s.boot.pipeOk p && (s.inPipe p).isNone) = some 0
      ∧ (((rangeFrom (Tab.get 15 s.peg.lastQueue 0 + 1) 16).map (· % 16)).find? fun q => (s.pegQueue q).samples.any (·.state == .window)) = some 0
      ∧ ((s.pegQueue 0).batchOf 4).map (·.fn) = some 0 ∧ (s.fn 0).busMaster = true
      ∧ ((after .pipeDispatch s).pegQueue 0).samples.map (·.state) = [.pipe 0] := by decide +kernel

/-- A pipe that failed its test takes no sample. -/
theorem test_pipe_failed : let s := { sysSm .window with boot := { (sysSm .window).boot with pipeOk := 2 } }
    ((after .pipeDispatch s).pegQueue 0).samples.map (·.state) = [.window] := by decide +kernel

theorem test_decode_void : let s := sysSm (.pipe 0)
    (s.inPipe 0).map (·.1) = some 0 ∧ (s.pegQueue 0).timeout ≠ 0
      ∧ (((s.inPipe 0).bind fun x => ((s.pegQueue 0).batchOf 4).map fun b => (s.sampleOut b x.2 .unsupported).1)) = some 2
      ∧ ((after (.sampleDecodeDone 0 .unsupported) s).pegQueue 0).samples.map (fun x => (x.state, x.reason)) = [(.ready, 2)]
      ∧ ((after (.decodeTimeout 0) s).pegQueue 0).samples.map (·.reason) = [3] := by decide +kernel

theorem test_decode_done : let s := (sysSm (.pipe 0)).hostWrite 0x9000 [3, 4]
    ((s.inPipe 0).bind fun x => ((s.pegQueue 0).batchOf 4).map fun b => ((s.sampleOut b x.2 (.decoded { w := 0, h := 0, depth := 8, chroma := 0, frames := [] })).1,
        (okState (s.devWrite 0 .plain x.2.outAddr (s.sampleOut b x.2 (.decoded { w := 0, h := 0, depth := 8, chroma := 0, frames := [] })).2)).isSome)) = some (0, true) := by decide +kernel

/-- Its output page moves: the sample waits in its pipe. -/
theorem test_decode_waits : let s := ((sysSm (.pipe 0)).hostWrite 0x9000 [3, 4]).modFrt fun f => { f with entry := Tab.set 0 f.entry 8 (mkEntry 0 1 0 1 0 0 false false false 8) }
    ((s.inPipe 0).bind fun x => ((s.pegQueue 0).batchOf 4).map fun b => match s.devWrite 0 .plain x.2.outAddr
        (s.sampleOut b x.2 (.decoded { w := 0, h := 0, depth := 8, chroma := 0, frames := [] })).2 with | .wait _ => true | .ok _ | .bad _ _ => false) = some true
      ∧ ((after (.sampleDecodeDone 0 (.decoded { w := 0, h := 0, depth := 8, chroma := 0, frames := [] })) s).pegQueue 0).samples.map (·.state) = [.pipe 0] := by decide +kernel

theorem test_emit : let s := { sysSm .ready with uni := {} }
    ((s.pegQueue 0).samples.map fun x => (x.serial, s.emittable 0 x)) = [(4, true)] ∧ (s.pegQueue 0).failBatch = false
      ∧ ((after (.sampleEmit 0) s).pegQueue 0).cursor = 5 := by decide +kernel

/-- The other stream has ended: the set is missing one. -/
theorem test_set : let s := (sysSm .ready).modGroup 1 fun u => { u with ended := 2 }
    let u := Tab.get ({} : UniGroup) s.uni.groups 1
    u.active = true ∧ ((s.pegQueue 0).samples.find? fun x => !x.set).map (·.state) = some .ready
      ∧ matchStream (u.samples.getD 1 []) (bit u.ended 1) false 0 u.tol = .missing
      ∧ (Tab.get ({} : UniGroup) (after (.unisonSetComplete 1) s).uni.groups 1).sets = 1 := by decide +kernel

/-! ### Pairs and courses -/

/-- Course 14 is up, and its peer is node 3. -/
def sysCr : State := sysO.modPort 14 fun p => { p with state := 1, peer := 3 }
def bindP : List Byte := hq 0x90 [(16, 2, 0x2003)]

theorem test_pair_bind : rdy sysCr bindP ∧ sysCr.crs.hands = [] ∧ ((ran .pairBind sysCr bindP).pair 0).state = 1 ∧ ((ran .pairBind sysCr bindP).pair 0).npart = 2 := by decide +kernel

theorem test_pair_release : let s := sysCr.modPair 0 fun p => { p with state := 4, valid := true, step := 6 }
    rdy s (hq 0x93 []) ∧ ((ran .pairRelease s (hq 0x93 [])).pair 0).state = 0 ∧ ((ran .pairRelease s (hq 0x93 [])).pair 0).step = 6 := by decide +kernel

theorem test_spare_fill : let s := { sysCr with jobs := { sysCr.jobs with plans := [(0, 2 ^ 22)] } }
    rdy s (hq 0x92 [(16, 2, 3), (18, 1, 1)]) ∧ s.crs.hands = [] ∧ (ran .spareFill s (hq 0x92 [(16, 2, 3), (18, 1, 1)])).jobs.fills.map (·.receiver) = [true] := by decide +kernel

theorem test_adopt_node : let s := { sysO with crs := { sysO.crs with ports := [] } }
    rdy s (hp 0x91 [(16, 2, 9)]) ∧ (∀ k ∈ List.range 16, (s.port k).state ≠ 1 ∧ (s.port k).state ≠ 2) ∧ (ran .adoptNode s (hp 0x91 [(16, 2, 9)])).crs.nodeId = 9 := by decide +kernel

/-- A bound pair whose oldest step record says 2 records. -/
def sysMr (applied crc : Nat) (landed : List Landed) : State := sysCr.modPair 0 fun p =>
  { p with state := 2, landedSteps := [(8, 2, 77)], applied := applied, applyCrc := crc, landed := landed }

theorem test_mirror_confirm : let s := sysMr 2 77 []
    s.off = false ∧ (s.pair 0).state = 2 ∧ (s.pair 0).landedSteps = [(8, 2, 77)] ∧ 2 ≤ (s.pair 0).applied ∧ (s.pair 0).applyCrc = 77
      ∧ ((after (.mirrorApply 0) s).pair 0).step = 8 := by decide +kernel

theorem test_mirror_diverge : let s := sysMr 2 78 []
    (s.pair 0).applyCrc ≠ 77 ∧ ((after (.mirrorApply 0) s).pair 0).state = 3 ∧ (((sysMr 0 0 []).pair 0).recordsOf 8).length < 2 - 0 := by decide +kernel

/-- A record of the next step has overtaken one of this step's two. -/
theorem test_mirror_overtaken : let r := fun (step i : Nat) => ({ step := step, core := 4, index := i, bytes := fill 144 0 } : Landed)
    let s := sysMr 0 0 [r 8 1, r 9 0]
    ((s.pair 0).recordsOf 8).length < 2 - (s.pair 0).applied ∧ ((after (.mirrorApply 0) s).pair 0).landed.length = 2 := by decide +kernel

theorem test_mirror_record : let r := fun (i : Nat) => ({ step := 8, core := 4, index := i, bytes := fill 144 0 } : Landed)
    let s := sysMr 0 0 [r 1, r 0]
    (s.pair 0).applied < 2 ∧ 2 - (s.pair 0).applied ≤ ((s.pair 0).recordsOf 8).length ∧ leastRecord ((s.pair 0).recordsOf 8) = some (r 0) := by decide +kernel

/-- A message of 8 bytes as one flit with sequence number 5. -/
def msgA : Msg := { src := 3, mkind := 2, data := fill 8 1 }
def flitA : List Byte := ((msgA.flits 5).map (·.2)).headD []
/-- Course 14 expects a number. -/
def sysFl (n : Nat) : State := sysCr.modPort 14 fun p => { p with rxSeq := n }

theorem test_flit : let s := sysFl 5
    s.dieOff (14 % 4) = false ∧ (s.port 14).state = 1 ∧ flitA.length = 256 ∧ leAt flitA 252 4 = crc32 (flitA.take 252) ∧ field (leAt flitA 0 4) 3 2 < 2
      ∧ field (leAt flitA 0 4) 14 4 = (s.port 14).rxSeq ∧ bit (leAt flitA 0 4) 16 = true
      ∧ ((after (.flitReceive 14 ⟨flitA, {}⟩) s).port 14).rxSeq = 6 ∧ ((after (.flitReceive 14 ⟨flitA, {}⟩) s).port 14).arrived.map (fun m => (m.src, m.data.length)) = [(3, 8)] := by decide +kernel

theorem test_flit_out_of_sequence : let s := sysFl 4
    field (leAt flitA 0 4) 14 4 ≠ (s.port 14).rxSeq ∧ (s.port 14).rxDrop = false ∧ ((after (.flitReceive 14 ⟨flitA, {}⟩) s).port 14).naks = 1 := by decide +kernel

theorem test_flit_crc : ((after (.flitReceive 14 ⟨fill 256 0, { corrected := 2 }⟩) (sysFl 5)).port 14).crcErrors = 1
      ∧ ((after (.flitReceive 14 ⟨fill 256 0, { corrected := 2 }⟩) (sysFl 5)).port 14).fecCorrected = 2 := by decide +kernel

theorem test_message_flits : msgA.vc < 4 ∧ msgA.data.length < 2 ^ 32 ∧ Msg.ofFlits ((msgA.flits 5).map (·.2)) = msgA := by decide +kernel

/-- A message for node `d` has arrived at course 14. -/
def sysIn (d : Nat) : State := sysCr.modPort 14 fun p => { p with arrived := [{ msgA with dst := d }] }

theorem test_course_events : (sysCr.port 14).queue = [] ∧ (sysCr.port 14).held = [] ∧ (sysCr.port 14).nakRuns < 8 ∧ (sysCr.port 14).mayRetrain .fecErrors = false
      ∧ Tab.get 0 ((after (.linkControlFlit 14 (.credit 1 0 40)) sysCr).port 14).freed 2 = 40
      ∧ ((after (.courseRetrain 14 .fecLock) sysCr).port 14).state = 2 ∧ (after (.courseRetrain 14 .naks) sysCr).port 14 = sysCr.port 14
      ∧ ((after (.retrain 14 (2 ^ 31)) sysCr).port 14).state = 2 ∧ ((after (.retrain 14 (2 ^ 17)) sysCr).port 14).fecLimit = 2 := by decide +kernel

theorem test_message_receive : (sysIn 0).landDue msgA.dstPart { msgA with dst := 0 } = false ∧ ((sysIn 0).port 14).arrived.map (·.dst) = [(sysIn 0).crs.nodeId] ∧ ((after (.messageReceive 14) (sysIn 0)).port 14).arrived = []
      ∧ ((sysIn 3).modPort 14 (fun p => { p with arrived := [] })).send { msgA with dst := 3 } (some (14, 0)) [] = none
      ∧ ((after (.messageReceive 14) (sysIn 3)).port 14).arrived = [] := by decide +kernel

/-- A part of a bind copy for a page that moves waits at its course. -/
theorem test_message_waits : let m : Msg := { msgA with mkind := 5, op := 0, count := 8, dst := 0 }
    let s := ((sysCr.modPort 14 fun p => { p with arrived := [m] }).modPair 0 fun p => { p with state := 1, node := 3, mirrorPages := 16 }).modFrt fun f =>
      { f with entry := Tab.set 0 f.entry 8 (mkEntry 0 1 0 1 0 0 false false false 8) }
    s.landDue 0 m = true ∧ s.landWaits 0 m = true ∧ after (.messageReceive 14) s = s := by decide +kernel

/-- A route to node 3 over course 14. -/
theorem test_message_forward : let s := { sysIn 3 with crs := { (sysIn 3).crs with routes := [(3, 2 ^ 31 + 2 ^ 14)] } }
    ((s.modPort 14 (fun p => { p with arrived := [] })).send { msgA with dst := 3 } (some (14, 0)) []).isSome = true := by decide +kernel

/-- Course 15 trains. -/
theorem test_course_training : (sysCr.port 15).state = 0 ∧ sysCr.trainingStarted = true ∧ (sysCr.port 15).queue = [] ∧ (sysCr.port 15).options[0]? = some (0, 0xFF, 4)
      ∧ 1 < (sysCr.port 15).options.length ∧ ((after (.courseTrainingAttemptEnd 15 true 9) sysCr).port 15).peer = 9
      ∧ ((after (.courseTrainingAttemptEnd 15 false 9) sysCr).port 15).attempt = 1 := by decide +kernel

theorem test_course_down : let s := sysCr.modPort 15 fun p => { p with attempt := 29 }
    (s.port 15).options.length ≤ 30 ∧ ((s.port 15).options[29]?).isSome = true ∧ ((after (.courseTrainingAttemptEnd 15 false 9) s).port 15).state = 3 := by decide +kernel

/-! ### Memory events, scheduling, Capo, Bridges, registers, Luthier -/

/-- A walk for page 8 by cluster 2 of die 0, and stack 1 and interface 3 in use. -/
def sysMe : State := { sysA.modFrt (fun f => { f with walks := [(0, 2, 8)] }) with
  hbms := [(0, { state := 1 }), (1, { state := 1, gap := 5, scrubAt := 603979775 }), (2, { state := 1, gap := 5 })], lps := [(3, { state := 1, usable := 1 })]
  boot := { sysA.boot with hbmLive := 2, lpGroups := 1, lpLive := 8 } }

theorem test_walk : sysMe.off = false ∧ sysMe.boot.dead = [] ∧ (0, 2, 8) ∈ sysMe.frt.walks ∧ Tab.get [] (after (.fretboardWalk 0 2 8) sysMe).frt.clCache 2 = [8] := by decide +kernel

theorem test_uncorrectable : eValid (sysMe.entry 8) = true ∧ eTier (sysMe.entry 8) ≤ 5 ∧ eState (sysMe.entry 8) ≠ 3 ∧ (sysMe.ctl (ctlOf 0 8 0)).uncorrectable < 15 ∧ sysMe.frt.pageSnooped 8 = false
      ∧ eState ((after (.memoryUncorrectableError 8 0) sysMe).entry 8) = 3 ∧ (after (.memoryUncorrectableError 8 0) sysMe).boot.census = 1
      ∧ eValid (sysMe.entry 99) = false := by decide +kernel

/-- The host holds line 0 of its window, page 8, which is in host memory: the page is poisoned once it has given it up. -/
theorem test_uncorrectable_snooped : let s := sysX.modFrt fun f => { f with entry := [(8, mkEntry 5 0 0 1 0 0 false false false 8)], snoop := [0] }
    eValid (s.entry 8) = true ∧ eTier (s.entry 8) = 5 ∧ eState (s.entry 8) ≠ 3 ∧ s.frt.pageSnooped 8 = true ∧ 8 ∉ s.frt.poisoning
      ∧ (after (.memoryUncorrectableError 8 0) s).frt.poisoning = [8] ∧ eState ((after (.birsp 0) (after (.memoryUncorrectableError 8 0) s)).entry 8) = 3 := by decide +kernel

theorem test_scrub_read : (sysMe.stackReg 1).state = 1 ∧ (sysMe.stackReg 1).gap ≠ 0 ∧ 603979776 ≤ (sysMe.stackReg 1).scrubAt + 1 ∧ (sysMe.stackReg 2).scrubAt + 1 < 603979776
      ∧ scrubLine (.hbm 1) (sysMe.stackReg 1).scrubAt = (73727, 516288) ∧ scrubLine (.hbm 2) (sysMe.stackReg 2).scrubAt = (0, 0)
      ∧ ((after (.scrubRead (.hbm 1) 73727 516288 {}) sysMe).stackReg 1).passes = 1 ∧ ((after (.scrubRead (.hbm 2) 0 0 { scrub := .corrected }) sysMe).stackReg 2).corrected = 1
      ∧ ((after (.scrubRead (.hbm 2) 5 0 { demand := [.corrected] }) sysMe).stackReg 2).corrected = 1 := by decide +kernel

theorem test_memory_failures : (sysMe.lpReg 3).state = 1 ∧ ((after (.stackFailed 1) sysMe).stackReg 1).state = 3 ∧ (after (.stackFailed 1) sysMe).boot.hbmLive = 0
      ∧ ((after (.lpInterfaceFailed 3) sysMe).lpReg 3).state = 3 ∧ (after (.lpInterfaceFailed 3) sysMe).boot.lpGroups = 0 := by decide +kernel

/-- Contexts 0 and 1 have the same rank, and both have a LAUNCH. -/
def sysTwo : State := (sysA.modPart 0 fun p => { p with ctxs := [(0, { ctxA with quantum := 5 }), (1, ctxA)] })

theorem test_quantum : (sysTwo.core 0).ctx = some 0 ∧ (sysTwo.ctx 0 0).map (·.quantum) = some 5 ∧ sysTwo.runsReady 0 = true ∧ (sysTwo.core 0).stopReq = false
      ∧ ((sysTwo.part 0).ctxs.any fun e => e.1 != 0 && e.2.ready 0 && e.2.rank == ctxA.rank) = true
      ∧ ((after (.quantumExpiry 0) sysTwo).core 0).stopReq = true
      ∧ ((sysA.part 0).ctxs.any fun e => e.1 != 0 && e.2.ready 0 && e.2.rank == ctxA.rank) = false := by decide +kernel

theorem test_boundary_idle : (sysA.core 5).ctx = none ∧ sysA.boundary 5 = true ∧ (sysA.core 5).stopReq = false ∧ (sysA.core 5).state ≠ .faulted := by decide +kernel

/-- Core 0 stands at its boundary and has to stop. -/
def sysStop : State := core0 (sysA.modCtx 0 0 fun x => { x with preempted := true }) fun k => { k with stopReq := true, switching := true }

theorem test_boundary_stops : (sysStop.core 0).stopReq = true ∧ (sysStop.core 0).atBoundary = true ∧ sysStop.helping 0 = false ∧ sysStop.runDown 0 = sysStop
      ∧ sysStop.finishProgram 0 = sysStop
      ∧ (sysStop.ctx 0 0).map (fun x => (x.abandon, x.preempted, x.stopped, x.launch.isSome, (x.core 0).finished)) = some (none, true, false, true, false)
      ∧ sysStop.occupied 0 = true ∧ ((after (.coreBoundaryReached ⟨0, .none⟩) sysStop).core 0).stopReq = false := by decide +kernel

/-- Job 0's frame: one milestone of 3 of counter 0. -/
def sysCp (count : Nat) (cheap : Bool) : State := (sysA.modJob 0 fun b => { b with
  enable := true, cheap := cheap, rec_ := { b.rec_ with milestones := [(3, 65536)], budget := 100 }, frame := some { number := 0, cmd := 90, c0 := 0 } }).setCounter 0 (BitVec.ofNat 64 count)

theorem test_capo_enable : bit (2 ^ 63 + 2 ^ 22) 63 = true ∧ (sysA.job 0).enable = false ∧ (sysA.job 0).frame = none
      ∧ (match sysA.devRead (field (2 ^ 63 + 2 ^ 22) 61 58) .plain .newest (alignDown (field (2 ^ 63 + 2 ^ 22) 40 0) 64) 256 with | .ok bs => bs.length | .bad _ _ | .wait _ => 0) = 256
      ∧ ((after (.capoEnable 0 (2 ^ 63 + 2 ^ 22)) sysA).job 0).enable = true ∧ bit 0 63 = false := by decide +kernel

theorem test_capo_milestone : let b := (sysCp 3 true).job 0
    b.frame.map (·.reached) = some 0 ∧ b.rec_.milestones[0]? = some (3, 65536) ∧ (3 : Int) ≤ ((sysCp 3 true).counter b.rec_.mctr - 0).toInt ∧ b.cheap = true
      ∧ ((sysCp 2 true).counter b.rec_.mctr - 0).toInt < (3 : Int) ∧ (after (.capoMilestone 0) (sysCp 2 true)).capo = (sysCp 2 true).capo := by decide +kernel

theorem test_capo_deadline : (((sysCp 0 true).job 0).frame.map (·.late)) = some false ∧ ((after (.capoDeadline 0) (sysCp 0 true)).job 0).frame.map (·.late) = some true
      ∧ ((sysCp 0 false).job 0).cheap = false ∧ ((sysCp 0 false).job 0).frame.map (·.cheap) = some false := by decide +kernel

/-- Source 0 of die 0, a descriptor that is done at core 0, is unmasked, and its target is core 0. -/
def sysBr : State := { core0 sysA (fun k => { k with descDone := 1 }) with
  bridges := [(0, { enable := true, mask := 0, targets := [(0, 1)] })] }

theorem test_claim : sysBr.dieOff 0 = false ∧ sysBr.available 0 0 = true ∧ sysBr.claimed 0 0 = some 0 ∧ (sysBr.core 0).wait = none
      ∧ ((after (.claim 0 0) sysBr).bridge 0).isActive 0 = true ∧ ((after (.claim 0 0) sysBr).core 0).handlerSrc = some 0 := by decide +kernel

/-- Core 0 waits in the WAIT at index 1. -/
theorem test_claim_waiting : let s := core0 sysBr fun k => { k with state := .waiting, wait := some { index := 1, desc := 0 } }
    s.available 0 0 = true ∧ s.claimed 0 0 = some 0 ∧ (s.core 0).wait.map (·.index) = some 1 ∧ ((after (.claim 0 0) s).core 0).irqRet = 1 := by decide +kernel

theorem test_claim_spurious : let s := { sysA with bridges := [(0, { enable := true, lost := [0] })] }
    s.available 0 0 = true ∧ s.claimed 0 0 = none ∧ 0 ∈ (s.bridge 0).lost ∧ ((after (.claim 0 0) s).bridge 0).spurious = 1
      ∧ sysA.claimed 0 0 = none ∧ 0 ∉ (sysA.bridge 0).lost := by decide +kernel

/-- Pair 0 of PF0 asks for its interrupt at the hub's Bridge. -/
def sysHb : State := { sysE with
  hub := { sysE.hub with fns := [(0, { queues := [(0, { enable := true, irqEn := true, size := 8, cqTail := 1 })] })] }
  bridges := [(4, { enable := true, mask := 0 })] }

theorem test_claim_hub : sysHb.available 4 4 = true ∧ sysHb.claimed 4 4 = some 0 ∧ ((after (.claim 4 4) sysHb).bridge 4).isActive 0 = true := by decide +kernel

theorem test_complete : let s := after (.claim 0 0) sysBr
    (s.bridge 0).isActive (field 0 9 0) = true ∧ ((after (.brgComplete 0 0) s).bridge 0).isActive 0 = false ∧ ((after (.brgComplete 0 0) s).core 0).descDone = 0
      ∧ (s.bridge 0).isActive (field 5 9 0) = false ∧ ((after (.brgComplete 0 5) s).bridge 0).stray = 1 := by decide +kernel

theorem test_bridge_words : (sysBr.bridge 0).maskMode = false ∧ ((after (.brgPendSet 0 1 4) sysBr).bridge 0).soft = 2 ^ 34
      ∧ ((after (.brgPendClr 0 1 4) (after (.brgPendSet 0 1 4) sysBr)).bridge 0).soft = 0 ∧ ((after (.brgMaskSet 0 0 2) sysBr).bridge 0).mask = 2
      ∧ ((after (.brgCtrl 0 0) sysBr).bridge 0).enable = false := by decide +kernel

theorem test_bridge_mask_mode : let s := { sysA with bridges := [(0, { maskMode := true, mask := 5 })] }
    (s.bridge 0).maskMode = true ∧ ((after (.brgMaskSet 0 0 2) s).bridge 0).mask = 5 ∧ ((after (.brgMaskClr 0 0 1) s).bridge 0).mask = 5 := by decide +kernel

/-- Group 0 of die 0's Bridge counts to 2. -/
theorem test_group : let s := { sysBr with bridges := [(0, { enable := true, mask := 0, targets := [(0, 1)], groups := [(0, { countThr := 2, timeThr := 9 })] })] }
    let t := after (.sourceAssert 0 0) s
    s.pendingSrc 0 0 = true ∧ 0 ∉ (s.bridge 0).seen ∧ bit (s.bridge 0).mask 0 = false ∧ (s.bridge 0).isActive 0 = false ∧ s.routed 0 0 = false
      ∧ ((s.bridge 0).group 0).state = 0 ∧ 2 ≤ ((s.bridge 0).group 0).countThr ∧ ((t.bridge 0).group 0).state = 1 ∧ ((t.bridge 0).group 0).arrivals = 1 ∧ ((t.bridge 0).group 0).timeThr ≠ 0
      ∧ ((rangeFrom 0 64).any fun src => !t.routed 0 src && ((t.pendingSrc 0 src && !bit (t.bridge 0).mask src) || (t.bridge 0).isActive src)) = true
      ∧ (((after (.groupTimerRelease 0 0) t).bridge 0).group 0).state = 2 := by decide +kernel

theorem test_registers : sysA.regOf 0 0x20 = some .boot ∧ sysA.regOf 0 0x40 = none ∧ sysA.regOf 0 0x80018 = some (.queue (.sqTail 0))
      ∧ sysA.regOf 0 0x10000 = some (.bridge 4 .ctrl) ∧ sysA.regOf 0 0x28 = some .bootCtrl := by decide +kernel

theorem test_register_fields : bit (2 ^ 31) 31 = true ∧ bit (2 ^ 31) 30 = false ∧ bit (2 ^ 63) 63 = true
      ∧ (sysA.writeReg 0 (.scrWin 2) (2 ^ 20 + 5)).readReg 0 (.scrWin 2) = 2 ^ 20 ∧ (sysA.writeReg 0 .bowWeight (2 ^ 32 + 9)).readReg 0 .bowWeight = 9
      ∧ (sysA.writeReg 0 .lthWeight 7).readReg 0 .lthWeight = 7 := by decide +kernel

/-- Luthier: weights 32, 64, 96 and 6 · 16, one correction (score 32), four droops (score 64). -/
def sysLt : State := { sysA with lth := { sysA.lth with enable := true, corrections := 2, droops := 4 } }

theorem test_luthier : sysLt.off = false ∧ sysLt.lth.enable = true ∧ sysLt.lth.secureNow = false ∧ sysLt.lth.decay = 4
      ∧ (after .luthierEvaluation sysLt).lth.sD = 64 ∧ (after .luthierEvaluation { sysLt with lth := { sysLt.lth with retrains := 1 } }).lth.sC = 64
      ∧ (after .luthierEvaluation sysLt).lth.droops = 0 := by decide +kernel

theorem test_luthier_secures : let s := { sysLt with lth := { sysLt.lth with secureNow := true, risk := 250 } }
    s.lth.secureNow = true ∧ (after .luthierEvaluation s).lth.secureNow = true := by decide +kernel

/-! ### An ill-formed term for each check of well-formedness -/

/-- Host reads and what a function-level reset names. -/
theorem test_ill_formed_functions : ([.sqDoorbell 18 0 0, .sqDoorbell 0 32 0, .cqDoorbell 0 0 (2 ^ 32), .queueEnable 0 32 0, .queueDisable 18 0 0,
    .commandFetchTimeout (.fetch 18 0), .commandFetchTimeout (.sample 16), .functionLevelReset (.vf 0), .functionLevelReset (.vf 17), .busMasterDisable 18,
    .busMasterEnable 18, .hostWindowAccess (2 ^ 38) none false, .hostWindowAccess 0 (some []) false] : List Instr).map Instr.wf
    = List.replicate 13 false := by decide +kernel

/-- Cores, engines and halves. -/
theorem test_ill_formed_cores : ([.tile 256, .tileStart 256, .epilogue 256 .none, .replayStart 256, .gather 256, .gatherWaitBound 256, .vec 256 .none,
    .move 256 .none, .moveComplete 256 0, .wait 256 .none, .waitComplete 256, .waitExpire 256, .signal 256 .none, .jump 256, .stepMark 256, .segBegin 256,
    .segEnd 256, .descriptorLineArrive 256, .update 256 .none, .allReduce 256] : List Instr).map Instr.wf = List.replicate 20 false := by decide +kernel

theorem test_ill_formed_cores_2 : ([.reduceScatter 256, .allGather 256, .allToAll 256, .normGather 256, .collComplete 256 0, .scrollPut 256 .none, .scrollGet 256 .none,
    .scrollPutContinue 256 0, .replayEntry ⟨256, .none⟩, .versionClaim 256, .versionAdvance 256, .quantumExpiry 256, .coreBoundaryReached ⟨256, .none⟩, .reservedTypeDescriptor 256,
    .spillPoint 256 0 0, .spillPoint 0 4 0, .spillPoint 0 0 2, .tileDrain 0 4, .parityError 0 0 0 (2 ^ 14) .operand] : List Instr).map Instr.wf
    = List.replicate 19 false := by decide +kernel

/-- Partitions, contexts, pages and memory interfaces. -/
theorem test_ill_formed_memory : ([.scrollMigrate 16, .scrollDemote 16, .scrollPromote 16, .mirrorApply 16, .stepFold 16 0, .stepFold 0 64, .swapCopyComplete 16 0 .done,
    .fretboardWalk 4 0 0, .fretboardWalk 0 32 0, .fretboardWalk 0 0 (2 ^ 22), .pageMoveComplete (2 ^ 22) .done, .drainPageDone ⟨2 ^ 22, 0⟩, .memoryUncorrectableError 0 (2 ^ 19),
    .scrubRead (.hbm 12) 0 0 {}, .scrubRead (.lp 16) 0 0 {}, .scrubRead (.lp 0) 0 (2 ^ 19) {}, .stackFailed 12, .lpInterfaceFailed 16] : List Instr).map Instr.wf
    = List.replicate 18 false := by decide +kernel

/-- Courses, pipes, groups and jobs. -/
theorem test_ill_formed_links : ([.flitReceive 16 ⟨List.replicate 256 0, {}⟩, .flitReceive 0 ⟨[], {}⟩, .linkControlFlit 16 (.ack 0), .messageReceive 17, .courseRetrain 16 .naks,
    .courseTrainingAttemptEnd 0 true (2 ^ 12), .sampleDecodeDone 16 .bitstream, .sampleEmit 16, .decodeTimeout 16, .unisonSetComplete 4, .capoMilestone 16, .capoDeadline 16,
    .capoEnable 0 (2 ^ 64), .retrain 16 0] : List Instr).map Instr.wf = List.replicate 14 false := by decide +kernel

/-- Bridges, registers, power and bring-up. -/
theorem test_ill_formed_others : ([.sourceAssert 5 0, .sourceAssert 0 1024, .groupTimerRelease 0 16, .claim 0 64, .claim 4 5, .brgComplete 5 0, .brgCtrl 0 (2 ^ 32), .brgPendSet 0 32 0,
    .brgPendClr 5 0 0, .brgMaskSet 0 0 (2 ^ 32), .brgMaskClr 0 32 0, .registerReadRc 18 0, .registerWrite 0 addrSpace 0, .format (2 ^ 32), .grantPeriod [] [], .gatingUpdate 4 0,
    .voltageConfirm 4 0, .rampUpdate 4, .droop 4, .droopRecover 4, .hotStep 4, .glideComplete 4, .thermalSample [], .trainingAttemptEnd (.hbm 12) true 0,
    .trainingAttemptEnd (.lp 16) true 0, .trainingAttemptEnd (.vault 8) true 0, .referenceClockLoss 5] : List Instr).map Instr.wf = List.replicate 27 false := by decide +kernel

/-- Boundary values that are well formed. -/
theorem test_well_formed : ([.sqDoorbell 17 31 (2 ^ 32 - 1), .functionLevelReset (.vf 16), .tile 255, .spillPoint 255 3 1, .claim 3 63, .claim 4 4, .sourceAssert 4 1023,
    .messageReceive 16, .registerWrite 17 (addrSpace - 1) (2 ^ 64 - 1), .referenceClockLoss 4, .identify 0, .birsp 0, .pipeDispatch] : List Instr).map Instr.wf
    = List.replicate 13 true := by decide +kernel

end Sys2Proof.Tests
end

section
/-! Steps of a context (R18, R336): what the operations of STEP_BEGIN and STEP_END leave of the partitions and of the contexts,
and the two commands themselves. -/

namespace Sys2Proof.Machine

/-! ### Operations that leave every partition, and so every context, as it is -/

/-- A fold of operations that leave the partitions leaves them. -/
theorem State.foldl_parts {β : Type} {f : State → β → State} (h : ∀ s b, (f s b).parts = s.parts) (l : List β) (s : State) :
    (l.foldl f s).parts = s.parts :=
  foldl_rel (fun s t : State => t.parts = s.parts) (fun _ => rfl) (fun _ _ _ h k => k.trans h) f h l s

@[simp] theorem State.noteFault_parts (s : State) (p source a : Nat) (poison : Bool) :
    (s.noteFault p source a poison).parts = s.parts := by
  unfold State.noteFault
  split <;> rfl

@[simp] theorem State.noteBad_parts {α : Type} (s : State) (p source : Nat) (r : Acc α) :
    (s.noteBad p source r).parts = s.parts := by
  unfold State.noteBad
  split
  · exact s.noteFault_parts ..
  · rfl

/-- A write of device memory leaves the partitions. -/
theorem State.devWrite_parts {s t : State} {p a : Nat} {who : Who} {bs : List Byte} (h : s.devWrite p who a bs = .ok t) :
    t.parts = s.parts := by
  have hst : t = { s with mems := t.mems, frt := t.frt } := State.devWrite_sameBut h
  rw [hst]

@[simp] theorem State.hubWrite_parts (s : State) (p source : Nat) (who : Who) (a : Nat) (bs : List Byte) :
    (s.hubWrite p source who a bs).parts = s.parts := by
  unfold State.hubWrite
  split
  · next t h => exact State.devWrite_parts h
  · exact s.noteFault_parts ..
  · rfl

@[simp] theorem State.setEntry_parts (s : State) (x e : Nat) : (s.setEntry x e).parts = s.parts := by
  simp only [State.setEntry]
  split
  · exact s.modFrt_parts _
  · simp only [State.foldl_parts fun s d => s.modDie_parts d _, State.modFrt_parts]

/-! #### Frames and pages of the Scroll (R172, R226) -/

@[simp] theorem State.freeEntryFrame_parts (s : State) (e : Nat) : (s.freeEntryFrame e).parts = s.parts := by
  unfold State.freeEntryFrame State.retireFrame State.releaseFrame
  split
  · split <;> rfl
  · split <;> rfl

@[simp] theorem State.scrFreeFrame_parts (s : State) (n e : Nat) : (s.scrFreeFrame n e).parts = s.parts := by
  unfold State.scrFreeFrame
  split
  · split <;> rfl
  · exact s.freeEntryFrame_parts e

theorem State.foldl_scrFreeFrame_parts {β : Type} (n : Nat) (e : β → Nat) (l : List β) (s : State) :
    (l.foldl (fun s b => s.scrFreeFrame n (e b)) s).parts = s.parts :=
  State.foldl_parts (fun s b => s.scrFreeFrame_parts n (e b)) l s

@[simp] theorem State.closeEmpty_parts (s : State) (n x : Nat) : (s.closeEmpty n x).parts = s.parts := by
  simp only [State.closeEmpty]
  split
  · rfl
  · split
    · rfl
    · rw [State.scrLevel, State.modScr_parts, State.modScr_parts, State.setEntry_parts, State.scrFreeFrame_parts,
        State.modFrt_parts]
      exact State.foldl_scrFreeFrame_parts n _ _ _

@[simp] theorem State.freeBytes_parts (s : State) (n a : Nat) (r : Piece) (demoted : Bool) :
    (s.freeBytes n a r demoted).parts = s.parts := by
  simp [State.freeBytes]

@[simp] theorem State.sweepChain_parts (s : State) (n a : Nat) : (s.sweepChain n a).parts = s.parts := by
  unfold State.sweepChain
  refine State.foldl_parts (fun s j => ?_) _ s
  dsimp only
  split
  · rfl
  · split
    · split <;> simp
    · simp

/-! #### Marks and the capture of a checkpoint (R220, R366) -/

@[simp] theorem State.tryFree_parts (s : State) (n x : Nat) : (s.tryFree n x).parts = s.parts := by
  simp only [State.tryFree]
  split
  · rfl
  · split
    · rw [State.modRes_parts, State.setEntry_parts]
    · rw [State.modRes_parts]

@[simp] theorem State.markDrain_parts (s : State) (g : GenPage) (on : Bool) : (s.markDrain g on).parts = s.parts := by
  simp only [State.markDrain]
  split
  · rfl
  · split <;> simp

@[simp] theorem State.capture_parts (s : State) (n c : Nat) (k : Ckpt) : (s.capture n c k).parts = s.parts := by
  unfold State.capture
  split
  · rfl
  · simp [State.modCkpt, State.foldl_parts fun (s : State) (g : GenPage) => s.markDrain_parts g true]

/-! #### Messages to the partner (R253, R273) -/

@[simp] theorem State.settleOwed_parts (s : State) (q : Queued) : (s.settleOwed q).parts = s.parts := by
  unfold State.settleOwed State.returnCredits
  split
  · split
    · split <;> rfl
    · rfl
  · rfl

@[simp] theorem State.enqueue_parts (s : State) (c : Nat) (q : Queued) : (s.enqueue c q).parts = s.parts := by
  simp [State.enqueue, State.pump, State.foldl_parts State.settleOwed_parts]

/-- A message to the partner, sent or not, leaves the partitions. -/
@[simp] theorem State.sendPair_parts (s : State) (m : Msg) : ((s.sendPair m).getD s).parts = s.parts := by
  unfold State.sendPair
  split
  · rfl
  · exact s.enqueue_parts ..

@[simp] theorem State.shipStep_parts (s : State) (n c : Nat) : (s.shipStep n c).parts = s.parts := by
  unfold State.shipStep
  split
  · rfl
  · split
    · rfl
    · dsimp only
      split <;> simp

/-! ### Contexts after a change of one -/

/-- Looking a key up in a table with every entry changed. -/
theorem Tab.find_map {α β : Type} (f : α → β) (t : Tab α) (k : Nat) :
    Tab.find (t.map fun e => (e.1, f e.2)) k = (Tab.find t k).map f := by
  induction t with
  | nil => rfl
  | cons e t ih =>
    obtain ⟨i, v⟩ := e
    simp only [List.map_cons, Tab.find]
    split
    · rfl
    · exact ih

theorem State.ctx_of_parts {s t : State} (h : t.parts = s.parts) (n c : Nat) : t.ctx n c = s.ctx n c := by
  simp only [State.ctx, State.part, h]

theorem State.ctx_modCtx {s : State} {n c : Nat} {x : Ctx} (f : Ctx → Ctx) (h : s.ctx n c = some x) :
    (s.modCtx n c f).ctx n c = some (f x) := by
  have hm : s.modCtx n c f = s.modPart n fun p => { p with ctxs := Tab.insert c (f x) p.ctxs } := by
    simp only [State.modCtx, h]
  simp only [hm, State.ctx, State.part_modPart]
  exact Tab.find_insert_same _ _ _

theorem State.ctx_modCtx_ne (s : State) {n c m k : Nat} (f : Ctx → Ctx) (h : m ≠ n ∨ k ≠ c) :
    (s.modCtx n c f).ctx m k = s.ctx m k := by
  unfold State.modCtx
  split
  · rfl
  · by_cases hm : m = n
    · subst hm
      simp only [State.ctx, State.part_modPart]
      exact Tab.find_insert_ne _ _ (h.resolve_left fun hn => hn rfl)
    · simp only [State.ctx, State.part_modPart_ne _ _ hm]

/-! ### What the units keep with a context, while its step, its LAUNCH and its placement stay -/

/-- Two contexts differ in what is kept for their cores and in their segment pins alone. -/
def Ctx.sameStep (x y : Ctx) : Prop := y = { x with cores := y.cores, segPins := y.segPins }

theorem Ctx.sameStep_with (x : Ctx) (cores : Tab CtxCore) (pins : List SegPin) :
    x.sameStep { x with cores := cores, segPins := pins } := rfl

theorem Ctx.sameStep_trans {x y z : Ctx} (h : x.sameStep y) (k : y.sameStep z) : x.sameStep z := by
  unfold Ctx.sameStep at *
  rw [k, h]

/-- Context `c` of partition `n`, where it exists in `s`, stays in `t`, with its step, its LAUNCH and its placement. -/
structure State.KeepsStep (n c : Nat) (s t : State) : Prop where
  ctx : ∀ x, s.ctx n c = some x → ∃ y, t.ctx n c = some y ∧ x.sameStep y

namespace State.KeepsStep

variable {n c : Nat} {s t u : State}

theorem of_parts (h : t.parts = s.parts) : KeepsStep n c s t :=
  ⟨fun x hx => ⟨x, (State.ctx_of_parts h n c).trans hx, x.sameStep_with _ _⟩⟩

theorem refl (s : State) : KeepsStep n c s s := of_parts rfl

theorem trans (h : KeepsStep n c s t) (k : KeepsStep n c t u) : KeepsStep n c s u := by
  refine ⟨fun x hx => ?_⟩
  obtain ⟨y, hy, hxy⟩ := h.ctx x hx
  obtain ⟨z, hz, hyz⟩ := k.ctx y hy
  exact ⟨z, hz, Ctx.sameStep_trans hxy hyz⟩

theorem ite {p : Prop} [Decidable p] (h : KeepsStep n c s t) (k : KeepsStep n c s u) :
    KeepsStep n c s (if p then t else u) := by
  split
  · exact h
  · exact k

theorem foldl {β : Type} {f : State → β → State} (h : ∀ s b, KeepsStep n c s (f s b)) (l : List β) (s : State) :
    KeepsStep n c s (l.foldl f s) :=
  foldl_rel (KeepsStep n c) refl (fun _ _ _ => trans) f h l s

/-- A change of a context in what is kept for its cores and in its segment pins keeps every context's step. -/
theorem modCtx {f : Ctx → Ctx} (h : ∀ x : Ctx, x.sameStep (f x)) (s : State) (m k : Nat) : KeepsStep n c s (s.modCtx m k f) := by
  refine ⟨fun x hx => ?_⟩
  by_cases hk : n = m ∧ c = k
  · obtain ⟨rfl, rfl⟩ := hk
    exact ⟨f x, State.ctx_modCtx f hx, h x⟩
  · exact ⟨x, (s.ctx_modCtx_ne f (by omega)).trans hx, x.sameStep_with _ _⟩

theorem modCtxCore (s : State) (m k g : Nat) (f : CtxCore → CtxCore) : KeepsStep n c s (s.modCtxCore m k g f) :=
  modCtx (fun x => x.sameStep_with _ _) s m k

theorem restartRecords (s : State) (m k : Nat) : KeepsStep n c s (s.restartRecords m k) :=
  .ite ((of_parts (s.modPair_parts m _)).trans (modCtx (fun x => x.sameStep_with _ _) _ m k)) (refl s)

/-! #### Release of the pieces of a step (R172) -/

theorem releaseSegPin (s : State) (m seg : Nat) : KeepsStep n c s (s.releaseSegPin m seg) := by
  refine ⟨fun x hx => ?_⟩
  unfold State.releaseSegPin
  by_cases hm : n = m
  · subst hm
    refine ⟨{ x with segPins := x.segPins.filter fun q => !(q.seg == seg && q.closed) }, ?_, x.sameStep_with _ _⟩
    simp only [State.ctx, State.part_modPart]
    exact (Tab.find_map (fun y : Ctx => { y with segPins := y.segPins.filter fun q => !(q.seg == seg && q.closed) })
      (s.part n).ctxs c).trans (congrArg (Option.map _) hx)
  · refine ⟨x, ?_, x.sameStep_with _ _⟩
    simp only [State.ctx, State.part_modPart_ne _ _ hm]
    exact hx

theorem countPiece (s : State) (m seg : Nat) (up : Bool) : KeepsStep n c s (s.countPiece m seg up) := by
  unfold State.countPiece
  split
  · exact refl s
  · exact (of_parts (s.hubWrite_parts ..)).trans (.ite (releaseSegPin ..) (refl _))

theorem releasePiece (s : State) (m a : Nat) : KeepsStep n c s (s.releasePiece m a) := by
  refine .trans (of_parts (s.modScr_parts m fun q => { q with pieces := q.pieces.filter (·.1 != a) })) ?_
  unfold State.releasePiece
  generalize (s.modScr m fun q => { q with pieces := q.pieces.filter (·.1 != a) }) = s
  dsimp only
  split
  · have hput (r : Piece) : KeepsStep n c s (s.putPiece m a r) := of_parts (s.hubWrite_parts ..)
    have hcount (r : Piece) (s : State) : KeepsStep n c s (if r.names then s.countPiece m r.seg false else s) :=
      .ite (countPiece ..) (refl s)
    exact (hput _).trans ((hcount _ _).trans
      (.ite (refl _) (.ite (of_parts (State.sweepChain_parts ..)) (of_parts (State.freeBytes_parts ..)))))
  · exact of_parts ((State.foldl_parts (fun s x => s.freeBytes_parts m a _ false) _ _).trans (s.noteFault_parts ..))
  · exact refl s

theorem scrStepEnd (s : State) (m k : Nat) (step : W64) : KeepsStep n c s (s.scrStepEnd m k step) := by
  refine foldl (fun s e => ?_) _ s
  split
  · exact .ite (releasePiece ..) (refl s)
  · exact releasePiece ..

end State.KeepsStep

/-! ### STEP_BEGIN (R113, R336) -/

/-- What STEP_BEGIN does to context `c` of partition `m`, found as `x`, before it receives its status. -/
def State.openStep (s : State) (m c : Nat) (num seed : W64) (x : Ctx) : State :=
  x.coreList.foldl (fun (s : State) g =>
    let s := s.modCtxCore m c g fun y => { y with held := if y.held.any (· + 1 == num) then none else y.held }
    let k := s.core g
    if k.part = m && k.ctx = some c && k.lastStep.any (· + 1 == num) then
      s.modCore g fun k => { k with lastStep := none, state := if k.state = .held then .issuing else k.state }
    else s)
    (((s.modCtx m c fun x => { x with step := num, seed := seed, stepOpen := true, passed := [] }).modRes m fun r =>
      { r with folded := r.folded.erase c, foldPre := r.foldPre.erase c }).restartRecords m c)

theorem State.exec_stepBegin {s : State} {n m k : Nat} {c : Cmd} {x : Ctx} (h : s.ready n 0x50 c) (hm : pkPart c.packet = m)
    (hk : pkCtx c.packet = k) (hx : s.ctx m k = some x) :
    exec (.stepBegin n) s = .next ((((((s.begun n).openStep m k (BitVec.ofNat 64 (pk c.packet 16 8))
      (BitVec.ofNat 64 (pk c.packet 24 8)) x).finish n stOk 0).settleAll x.coreList).settleBridges).hubFetch) := by
  subst hm hk
  have hb : (s.begun n).ctx (pkPart c.packet) (pkCtx c.packet) = some x := hx
  change execStepBegin n s = _
  rw [execStepBegin, State.hostCommand_ready _ h]
  simp only [hb]
  rfl

/-- The context of a STEP_BEGIN has its new step open, with no core that has passed it. -/
theorem State.ctx_openStep {s : State} {m c : Nat} {x : Ctx} (num seed : W64) (hx : s.ctx m c = some x) :
    ∃ y, (s.openStep m c num seed x).ctx m c = some y
      ∧ { x with step := num, seed := seed, stepOpen := true, passed := [] }.sameStep y := by
  have hcore (s : State) (g : Nat) (f : Core → Core) : State.KeepsStep m c s (s.modCore g f) := .of_parts (s.modCore_parts g f)
  have hopen := State.ctx_modCtx (fun x => { x with step := num, seed := seed, stepOpen := true, passed := [] }) hx
  refine State.KeepsStep.ctx ?_ _ hopen
  unfold State.openStep
  refine .trans (.trans (.of_parts (State.modRes_parts _ m _)) (.restartRecords _ m c)) (.foldl (fun s g => ?_) _ _)
  exact (State.KeepsStep.modCtxCore s m c g _).trans (.ite (hcore ..) (.refl _))

/-! ### STEP_END (R18, R156, R172) -/

/-- The checkpoint that a STEP_END captures, where there is one, is captured (R366). -/
def State.captureDue (s : State) (m c : Nat) (due : Option Ckpt) : State :=
  match due with
  | some k => s.capture m c k
  | none => s

@[simp] theorem State.captureDue_parts (s : State) (m c : Nat) (due : Option Ckpt) : (s.captureDue m c due).parts = s.parts := by
  cases due with
  | none => rfl
  | some k => exact s.capture_parts m c k

/-- What STEP_END does to context `c` of partition `m`, found as `x`, before it receives its status; `due` is the checkpoint that it
captures. -/
def State.closeStep (s : State) (m c : Nat) (x : Ctx) (due : Option Ckpt) : State :=
  ((((s.captureDue m c due).shipStep m c).restartRecords m c).scrStepEnd m c x.step).modCtx m c fun x =>
    { x with stepOpen := false, segPins := x.segPins.filter fun p => p.step != x.step }

/-- The checkpoint that a STEP_END of number `n` captures (R366). -/
def State.dueCkpt (s : State) (n m c : Nat) : Option Ckpt :=
  (s.openCkpt m c).filter fun k => !k.captured && decide (k.openedAt ≤ n)

/-- Whether a command has begun does not count for what the context has waiting for its fold. -/
theorem State.hasSeqs_begun (s : State) (n m c : Nat) : (s.begun n).hasSeqs m c = s.hasSeqs m c := by
  have hkv (op : Nat) : ((s.begun n).kvCmds op m c).isEmpty = (s.kvCmds op m c).isEmpty := by
    have hsame : ∀ q : Cmd, ((fun q : Cmd => q.opcode == op && pkPart q.packet == m && pkCtx q.packet == c)
        ∘ fun q => if q.number = n then { q with started := true } else q) q
        = (q.opcode == op && pkPart q.packet == m && pkCtx q.packet == c) := by
      intro q
      dsimp only [Function.comp]
      split <;> rfl
    simp only [State.kvCmds, State.begun, State.modCmd, List.filter_map, List.isEmpty_map, funext hsame]
  simp only [State.hasSeqs, hkv]
  rfl

/-- A STEP_END whose step some core has not passed yet waits. -/
theorem State.exec_stepEnd_waits {s : State} {n : Nat} {c : Cmd} {x : Ctx} (h : s.ready n 0x51 c)
    (hx : s.ctx (pkPart c.packet) (pkCtx c.packet) = some x) (hp : x.stepPassed = false) :
    exec (.stepEnd n) s = .next (((s.begun n).unstart n).hubFetch) := by
  have hb : (s.begun n).ctx (pkPart c.packet) (pkCtx c.packet) = some x := hx
  change execStepEnd n s = _
  rw [execStepEnd, State.hostCommand_ready _ h]
  simp [hb, hp]

/-- A STEP_END of a context without sequences, for which nothing waits, ends. -/
theorem State.exec_stepEnd {s : State} {n m k : Nat} {c : Cmd} {x : Ctx} (h : s.ready n 0x51 c) (hm : pkPart c.packet = m)
    (hk : pkCtx c.packet = k) (hx : s.ctx m k = some x) (hp : x.stepPassed = true) (hn : x.step.toNat = pk c.packet 16 8)
    (hs : s.hasSeqs m k = false) (hv : (s.begun n).viewsPending m k = false) (ha : (s.begun n).scrAway m k = false)
    (hd : ((s.begun n).dueCkpt n m k).any ((s.begun n).captureWaits m k x) = false) :
    ∃ pre, exec (.stepEnd n) s
      = .next (((((s.begun n).closeStep m k x ((s.begun n).dueCkpt n m k)).finish n stOk pre).settleDrain).hubFetch) := by
  subst hm hk
  have hb : (s.begun n).ctx (pkPart c.packet) (pkCtx c.packet) = some x := hx
  have hs' : (s.begun n).hasSeqs (pkPart c.packet) (pkCtx c.packet) = false := (s.hasSeqs_begun ..).trans hs
  rw [State.dueCkpt] at hd
  apply Exists.intro
  change execStepEnd n s = _
  rw [execStepEnd, State.hostCommand_ready _ h]
  simp only [hb, hp, hn, hs', hv, ha, hd, bne_self_eq_false, Bool.not_true, Bool.or_false, Bool.false_and,
    Bool.false_eq_true, if_false]
  rfl

/-- The context of a STEP_END that ends has no step open, keeps the step's number, and holds no pin of the step's segments. -/
theorem State.ctx_closeStep {s : State} {m c : Nat} {x : Ctx} (due : Option Ckpt) (hx : s.ctx m c = some x) :
    ∃ y, (s.closeStep m c x due).ctx m c = some y ∧ y.stepOpen = false ∧ y.step = x.step ∧ ∀ q ∈ y.segPins, q.step ≠ x.step := by
  have hships : ((s.captureDue m c due).shipStep m c).parts = s.parts := by simp
  have hkeeps := (State.KeepsStep.of_parts (n := m) (c := c) hships).trans
    ((State.KeepsStep.restartRecords _ m c).trans (State.KeepsStep.scrStepEnd _ m c x.step))
  obtain ⟨y, hy, hxy⟩ := hkeeps.ctx x hx
  have hstep : y.step = x.step := by rw [hxy]
  refine ⟨_, State.ctx_modCtx _ hy, rfl, hstep, fun q hq => ?_⟩
  simpa [hstep] using (List.mem_filter.1 hq).2

/-- Settles O20: STEP_BEGIN opens its step on the context, which nothing else that it does touches; STEP_END, where nothing makes it
wait, closes it after the capture, the shipping and the releases, none of which touches the context's step. -/
theorem stepsBeginAndEnd : Obligations.StepsBeginAndEnd := by
  intro s n c x p m cx hx
  refine ⟨fun h => ?_, fun h hp hn hs hv ha hd => ?_, fun h hp => State.exec_stepEnd_waits h hx hp⟩
  · obtain ⟨y, hy, hxy⟩ := State.ctx_openStep (s := s.begun n) (BitVec.ofNat 64 (pk p 16 8)) (BitVec.ofNat 64 (pk p 24 8)) hx
    exact ⟨_, State.exec_stepBegin h rfl rfl hx, y, hy, by rw [hxy]; exact ⟨rfl, rfl, rfl, rfl, rfl, rfl⟩⟩
  · obtain ⟨pre, he⟩ := State.exec_stepEnd h rfl rfl hx hp hn hs hv ha hd
    exact ⟨_, pre, he, State.ctx_closeStep (s := s.begun n) _ hx⟩

end Sys2Proof.Machine
end

section
/-! Frames of a core's operations: what a change of one core, an issue and a completion leave as it was (R92 to R97, R103). -/

namespace Sys2Proof.Machine

variable {s : State} {g d d0 : Nat}

/-! ### Cores -/

theorem State.core_census (s : State) (n g : Nat) : (s.census n).core g = s.core g := rfl

theorem State.core_addCounter (s : State) (c : Nat) (v : W64) (g : Nat) : (s.addCounter c v).core g = s.core g := rfl

theorem State.core_spWrite (s : State) (h o : Nat) (bs : List Byte) (g : Nat) : (s.spWrite h o bs).core g = s.core g := rfl

/-- A fold of operations that leave the cores leaves them. -/
theorem State.foldl_cores {β : Type} {f : State → β → State} (h : ∀ s b, (f s b).cores = s.cores) (l : List β) (s : State) :
    (l.foldl f s).cores = s.cores :=
  foldl_rel (fun s t : State => t.cores = s.cores) (fun _ => rfl) (fun _ _ _ h k => k.trans h) f h l s

theorem State.core_of_cores {t : State} (h : t.cores = s.cores) (g : Nat) : t.core g = s.core g := by
  rw [State.core, h, State.core]

/-- A change of a core is the value that it gives there. -/
theorem State.modCore_congr {f f' : Core → Core} (h : f (s.core g) = f' (s.core g)) : s.modCore g f = s.modCore g f' := by
  unfold State.core at h
  simp only [State.modCore, Tab.update, h]

/-- Two states differ in the cores alone. -/
def State.coresOnly (s t : State) : Prop := t = { s with cores := t.cores }

theorem State.coresOnly.modCore (s : State) (g : Nat) (f : Core → Core) : s.coresOnly (s.modCore g f) := rfl

theorem State.coresOnly.trans {s t u : State} (h : s.coresOnly t) (k : t.coresOnly u) : s.coresOnly u := by
  unfold State.coresOnly at *
  rw [k, h]

/-! ### Issue (R94) -/

/-- A core that issues has descriptors left after the one at its pc. -/
theorem State.issues_lt {sel : Nat → Bool} {fenced : Bool} {load depth : Nat} (h : s.issues g sel fenced load depth d0) :
    (s.core g).pc + 1 < (s.core g).count := by
  obtain ⟨-, -, -, hlt⟩ := h
  exact hlt

/-- The entry of a descriptor that a core issues now. -/
abbrev Core.item (k : Core) (d : Nat) (w : Work) : Issued := { serial := k.serial, index := k.pc, desc := d, regs := k.sq, work := w }

/-- A descriptor handed to its unit: the core goes on to the next one and lists it. -/
theorem State.core_issue (s : State) (g d : Nat) (w : Work) : (s.issue g d w).core g = { (s.advance g).core g with
    issued := (s.core g).issued ++ [(s.core g).item d w] } := by
  unfold State.issue
  rw [State.core_modCore]
  simp only [State.core_advance]

theorem State.coresOnly.issue (s : State) (g d : Nat) (w : Work) : s.coresOnly (s.issue g d w) :=
  State.coresOnly.trans (State.coresOnly.modCore s g _) (State.coresOnly.modCore ..)

/-- The entry of a descriptor that has just been issued is found by its serial, which no entry before it has. -/
theorem State.find_issue (hs : ∀ i ∈ (s.core g).issued, i.serial ≠ (s.core g).serial) (w : Work) :
    ((s.issue g d w).core g).issued.find? (·.serial == (s.core g).serial) = some ((s.core g).item d w) := by
  have hnone : (s.core g).issued.find? (·.serial == (s.core g).serial) = none := by simpa using hs
  rw [State.core_issue]
  simp [List.find?_append, hnone]

/-! ### Completion of an issued descriptor (R103) -/

section
variable {n : Nat} {i : Issued} (hi : (s.core g).issued.find? (·.serial == n) = some i) (h : (s.core g).pc < (s.core g).count)
include hi h

/-- An issued descriptor that completes while descriptors are left: it leaves the core, its done counter counts, and its interrupt
counts. -/
theorem State.complete_of_lt : s.complete g n =
    let t := s.modCore g fun k => { k with issued := k.issued.filter (·.serial != n) }
    let t := if dDoneEn i.desc then t.addCounter (ownDie g (dDoneCtr i.desc)) 1 else t
    if dIrq i.desc then t.modCore g fun k => { k with descDone := satAdd 16 k.descDone 1 } else t := by
  simp only [State.complete, hi]
  apply State.finishProgram_of_lt
  cases dDoneEn i.desc <;> cases dIrq i.desc <;> simp [State.core_addCounter, h]

theorem State.core_complete : (s.complete g n).core g = { s.core g with
    issued := (s.core g).issued.filter (·.serial != n)
    descDone := if dIrq i.desc then satAdd 16 (s.core g).descDone 1 else (s.core g).descDone } := by
  rw [State.complete_of_lt hi h]
  cases dDoneEn i.desc <;> cases dIrq i.desc <;> simp [State.core_addCounter]

/-- Beside the cores, a completion changes the counter that it adds to alone. -/
theorem State.complete_frame : s.complete g n = { s with
    cores := (s.complete g n).cores
    mems := if dDoneEn i.desc then (s.addCounter (ownDie g (dDoneCtr i.desc)) 1).mems else s.mems } := by
  rw [State.complete_of_lt hi h]
  cases dDoneEn i.desc <;> cases dIrq i.desc <;> rfl

end

end Sys2Proof.Machine
end

section
/-! Attestation and debug (R88, R444 to R447): the report, the unlock and the read of the accumulators. -/

namespace Sys2Proof.Machine

/-! ### Lengths and fields of byte strings -/

@[simp] theorem length_fill (n : Nat) (b : Byte) : (fill n b).length = n := List.length_replicate

@[simp] theorem length_bytesBE (n v : Nat) : (bytesBE n v).length = n := by
  simp [bytesBE, length_toLE]

@[simp] theorem length_padTo (n : Nat) (bs : List Byte) : (padTo n bs).length = n := by
  simp only [padTo, List.length_take, List.length_append, List.length_replicate]
  omega

/-- A number that stands after `lo` bytes of a byte string reads as it was written there. -/
theorem leAt_append_toLE {a : List Byte} {lo : Nat} (h : a.length = lo) (n v : Nat) (b : List Byte) :
    leAt (a ++ (toLE n v ++ b)) lo n = v % 256 ^ n := by
  rw [leAt, List.drop_left' h, List.take_left' (length_toLE n v), ofLE_toLE]

/-- A function that is a bus master writes host memory. -/
theorem State.fnWrite_of_busMaster {s : State} {f : Nat} (a : Nat) (bs : List Byte) (h : (s.fn f).busMaster = true) :
    s.fnWrite f a bs = s.hostWrite a bs := if_pos h

theorem State.fnRead_of_busMaster {s : State} {f : Nat} (a n : Nat) (h : (s.fn f).busMaster = true) :
    s.fnRead f a n = some (s.hostRead a n) := if_pos h

/-! ### ATTEST (R444) -/

@[simp] theorem State.length_measurement (s : State) (i : Nat) : (s.measurement i).length = 32 := by
  unfold State.measurement
  split <;> simp [digestBytes, length_toLE]

theorem State.length_report (s : State) (f : Nat) (nonce : List Byte) : (s.report f nonce).length = 248 := by
  have hm : ((rangeFrom 1 6).flatMap s.measurement).length = 192 := by
    simp only [List.length_flatMap, State.length_measurement]
    rfl
  simp only [State.report, List.length_append, length_toLE, length_padTo, length_fill, hm]

/-- What the report of R444 begins with: its tag, its length, the device's number and the nonce. -/
theorem State.report_eq (s : State) (f : Nat) (nonce : List Byte) : ∃ rest, s.report f nonce
    = toLE 4 0x4E415401 ++ (toLE 4 312 ++ (toLE 8 s.sec.devId ++ (padTo 32 nonce ++ rest))) :=
  ⟨_, by simp only [State.report, List.append_assoc]; rfl⟩

theorem State.leAt_report_tag (s : State) (f : Nat) (nonce : List Byte) : leAt (s.report f nonce) 0 4 = 0x4E415401 := by
  obtain ⟨rest, h⟩ := s.report_eq f nonce
  rw [h]
  exact leAt_append_toLE (a := []) rfl 4 0x4E415401 _

theorem State.leAt_report_devId (s : State) (f : Nat) (nonce : List Byte) :
    leAt (s.report f nonce) 8 8 = s.sec.devId % 2 ^ 64 := by
  obtain ⟨rest, h⟩ := s.report_eq f nonce
  rw [h, ← List.append_assoc]
  exact leAt_append_toLE (by simp only [List.length_append, length_toLE]) 8 s.sec.devId _

theorem State.report_nonce (s : State) (f : Nat) (nonce : List Byte) :
    ((s.report f nonce).drop 16).take 32 = padTo 32 nonce := by
  obtain ⟨rest, h⟩ := s.report_eq f nonce
  rw [h, ← List.append_assoc, ← List.append_assoc, List.drop_left' (by simp only [List.length_append, length_toLE]),
    List.take_left' (length_padTo 32 nonce)]

/-- The signature of ATTEST over a report. -/
def State.attestSig (s : State) (r : List Byte) : List Byte :=
  bytesBE 64 (Config.sm2Sign s.fresh (s.sec.aliasKey.getD 0) r).toNat

/-- What ATTEST does before it receives its status: it writes a report with its signature, and counts. -/
def State.attested (s : State) (a : Nat) (r : List Byte) : State :=
  { s with
    mems := { s.mems with host := s.mems.host.write a (r ++ s.attestSig r) }
    sec := { s.sec with attests := satAdd 16 s.sec.attests 1 }, fresh := s.fresh + 1 }

theorem State.exec_attest {s : State} {n : Nat} {c : Cmd} (h : s.ready n 0xD0 c) (hb : (s.fn c.fn).busMaster = true) :
    s.endsWith (.attest n) n stOk 312
      ((s.begun n).attested (pk c.packet 16 8) ((s.begun n).report c.fn ((c.packet.drop 28).take 32))) := by
  change execAttest n s = _
  rw [execAttest, State.hostCommand_ready _ h]
  dsimp only
  rw [State.fnWrite_of_busMaster (s := (s.begun n).draw.2) _ _ hb]
  rfl

/-! ### DEBUG_UNLOCK (R445 to R447) -/

/-- The challenge that DEBUG_UNLOCK op 0 gives. -/
def State.challengeBytes (s : State) : List Byte :=
  toLE 8 s.sec.devId ++ bytesBE 32 (Config.random s.fresh).toNat ++ toLE 8 (s.measurement2.toNat % 2 ^ 64)
    ++ toLE 1 s.sec.fuses ++ fill 15 0

theorem State.length_challengeBytes (s : State) : s.challengeBytes.length = 64 := by
  simp only [State.challengeBytes, List.length_append, length_toLE, length_bytesBE, length_fill]

/-- What DEBUG_UNLOCK op 0 does before it receives its status. -/
def State.challenged (s : State) (a : Nat) : State :=
  ({ s with sec := { s.sec with challenge := some s.challengeBytes }, fresh := s.fresh + 1 }).hostWrite a s.challengeBytes

theorem State.exec_debugUnlock_challenge {s : State} {n : Nat} {c : Cmd} (h : s.ready n 0xD1 c)
    (hop : pk c.packet 16 1 = 0) (hb : (s.fn c.fn).busMaster = true) :
    s.endsWith (.debugUnlock n) c.number stOk 64 ((s.begun n).challenged (pk c.packet 24 8)) := by
  change execDebugUnlock n s = _
  rw [execDebugUnlock, State.hostCommand_ready _ h]
  simp only [hop]
  unfold State.debugChallenge
  dsimp only
  rw [State.fnWrite_of_busMaster (s := (s.begun n).draw.2.modSec _) _ _ hb]
  rfl

/-- DEBUG_UNLOCK op 1: what the security engine keeps of a response, good (`ok`) or bad. -/
def Sec.answered (x : Sec) (ok : Bool) : Sec :=
  if ok then { x with challenge := none, debug := 1, evUnlock := true }
  else { x with challenge := none, failures := x.failures + 1, unlockFails := satAdd 16 x.unlockFails 1, evUnlockFail := true
                debug := if 3 ≤ x.failures + 1 then 2 else x.debug }

theorem Sec.answered_fields (x : Sec) (ok : Bool) : (x.answered ok).challenge = none
    ∧ (x.answered ok).debug = (if ok then 1 else if 3 ≤ x.failures + 1 then 2 else x.debug)
    ∧ (x.answered ok).failures = if ok then x.failures else x.failures + 1 := by
  cases ok <;> exact ⟨rfl, rfl, rfl⟩

theorem State.exec_debugUnlock_response {s : State} {n : Nat} {c : Cmd} (h : s.ready n 0xD1 c)
    (hop : pk c.packet 16 1 = 1) (hb : (s.fn c.fn).busMaster = true) :
    let r := s.hostRead (pk c.packet 24 8) 1024
    let ok := s.sec.challenge == some (r.take 64) && s.sec.accepts r
    s.endsWith (.debugUnlock n) c.number (if ok then stOk else stSecurity) 0 ((s.begun n).modSec (·.answered ok)) := by
  intro r ok
  change execDebugUnlock n s = _
  rw [execDebugUnlock, State.hostCommand_ready _ h]
  simp only [hop]
  unfold State.debugResponse
  rw [State.fnRead_of_busMaster (s := s.begun n) _ _ hb]
  change Host.Outcome.next (State.hubFetch (if ok = true then _ else _)) = _
  cases ok <;> rfl

theorem State.exec_debugUnlock_relock {s : State} {n : Nat} {c : Cmd} (h : s.ready n 0xD1 c)
    (hop : pk c.packet 16 1 = 2) (hr : ∀ q ∈ s.hub.accepted, q.opcode ≠ 0xE0) :
    s.endsWith (.debugUnlock n) n stOk 0 ((s.begun n).modSec fun x => { x with debug := 0 }) := by
  have hnone : ((s.begun n).hub.accepted.any fun x => x.opcode == 0xE0 && decide (x.number < n)) = false := by
    simp only [State.begun, State.modCmd, List.any_map, List.any_eq_false]
    intro q hq
    have := hr q hq
    dsimp only [Function.comp]
    split <;> simp [this]
  change execDebugUnlock n s = _
  rw [execDebugUnlock, State.hostCommand_ready _ h]
  simp only [hop, hnone]
  rfl

/-! ### DEBUG_READ_ACC (R88) -/

theorem State.exec_debugReadAcc {s : State} {n : Nat} {c : Cmd} (h : s.ready n 0xE0 c) (hb : (s.fn c.fn).busMaster = true) :
    s.endsWith (.debugReadAcc n) n stOk 0
      ((s.begun n).hostWrite (pk c.packet 24 8) (s.mems.acc.read (pk c.packet 16 2 % 2 ^ 10 * 2 ^ 15) 0x8000)) := by
  change execDebugReadAcc n s = _
  rw [execDebugReadAcc, State.hostCommand_ready _ h]
  dsimp only
  rw [State.fnWrite_of_busMaster (s := s.begun n) _ _ hb]
  rfl

/-- Settles O32: each command ends with the state that its rule gives, and the report and the challenge have their lengths and
fields. -/
theorem attestationAndDebug : Obligations.AttestationAndDebug := by
  intro s n c p
  refine ⟨fun h hb => ?_, fun h hop hb => ?_, fun h hop hb => ?_, fun h hop hr => State.exec_debugUnlock_relock h hop hr,
    fun h hb => State.exec_debugReadAcc h hb⟩
  · exact ⟨_, (s.begun n).report c.fn _, (s.begun n).attestSig _, State.exec_attest h hb, State.length_report .., length_bytesBE ..,
      State.leAt_report_tag .., State.leAt_report_devId .., State.report_nonce .., rfl, rfl, rfl⟩
  · exact ⟨_, (s.begun n).challengeBytes, State.exec_debugUnlock_challenge h hop hb, rfl, State.length_challengeBytes _, rfl, rfl⟩
  · intro r ok
    obtain ⟨hchallenge, hdebug, hfailures⟩ := s.sec.answered_fields ok
    exact ⟨_, State.exec_debugUnlock_response h hop hb, hchallenge, hdebug, hfailures, rfl⟩

end Sys2Proof.Machine
end

section
/-! Issue of tiles and of gather requests (R48, R49, R73 to R77, R94, R95, R110). -/

namespace Sys2Proof.Machine

variable {s : State} {g d d0 : Nat}

/-- A descriptor without a done counter that completes as it is issued, while descriptors are left, after a count has moved (`f`): the
core goes on to the next one, with nothing handed to a unit. -/
theorem State.core_countedNow (f : Core → Core) (h : (f (s.core g)).pc + 1 < (f (s.core g)).count) (hd : dDoneEn d = false) :
    ∃ t, ((s.modCore g f).advance g).completeNow g d = t ∧ (t.core g).pc = (f (s.core g)).pc + 1
      ∧ (t.core g).empty = (f (s.core g)).empty ∧ (t.core g).suppressed = (f (s.core g)).suppressed
      ∧ (t.core g).tiles = (f (s.core g)).tiles ∧ (t.core g).issued = (f (s.core g)).issued ∧ s.coresOnly t := by
  have hcore : ((s.modCore g f).advance g).core g = _ := State.core_advance (s.modCore g f) g
  have hframe : s.coresOnly ((s.modCore g f).advance g) :=
    State.coresOnly.trans (State.coresOnly.modCore s g f) (State.coresOnly.modCore ..)
  rw [State.core_modCore] at hcore
  rw [State.completeNow_of_lt d (by rw [hcore]; exact h), hd]
  generalize (s.modCore g f).advance g = u at hcore hframe
  cases dIrq d
  · refine ⟨u, rfl, ?_, ?_, ?_, ?_, ?_, hframe⟩ <;> rw [hcore]
  · refine ⟨_, rfl, ?_, ?_, ?_, ?_, ?_, State.coresOnly.trans hframe (State.coresOnly.modCore ..)⟩ <;>
      simp only [Bool.false_eq_true, if_false, if_true, State.core_modCore, hcore]

/-! ### TILE -/

/-- The issue point of a core hands a TILE to the engines. -/
abbrev State.issuesTile (s : State) (g d0 : Nat) : Prop :=
  s.issues g (dType · == tyTile) false
    (((((s.core g).tiles.filter (·.phase == .queued)).map (·.serial)).eraseDups).length) 16 d0

/-- A template is skipped. -/
theorem State.exec_tile_template (h : s.issuesTile g d0) (ht : dTemplate d0 = true) :
    exec (.tile g) s = .next (s.modCore g fun k => { k with pc := k.pc + 1, fenceWait := false, queueFull := false }) := by
  obtain ⟨hoff, hgate, -, hlt⟩ := h
  change execTile g s = _
  simp only [execTile, hoff, hgate, ht, Bool.false_eq_true, if_false, if_true]
  rw [State.finishProgram_of_lt (by simpa only [State.core_modCore] using hlt)]

section
variable (h : s.issuesTile g d0) (ht : dTemplate d0 = false) (hd : applyOffsets d0 (s.core g).sq = d)
  (hf : tileFaultCause d (s.classF g) false (s.core g).normOwner (s.core g).slotOpen = none)
include h ht hd hf

/-- A tile that passes its checks, with no token counter, is queued with its passes. -/
theorem State.exec_tile_queued (htok : T.tokCtr d = 0xFFFF) (hm : T.m d ≠ 0) (hn : T.n d ≠ 0)
    (hr : tileInRange d 0 (T.m d) (T.aAddr d, T.aStride d) (T.outAddr d, T.outStride d) = true) :
    exec (.tile g) s = .next ((s.issue g d .tile).modCore g fun k => { k with
      tiles := k.tiles ++ tileRuns
        { serial := (s.core g).serial, index := (s.core g).pc, desc := d, seed := (s.core g).sq.getD (T.seedReg d) 0, m := T.m d
          pairWith := ((s.core g).pairs.find? fun e => e.2 + 1 == (s.core g).pc).map (·.1) }
      pairs := (if s.pairFollows g d then [((s.core g).serial, (s.core g).pc)] else []) ++ k.pairs
      slotOpen := slotsAfter d k.slotOpen }) := by
  subst hd
  obtain ⟨hoff, hgate, hheader, -⟩ := h
  change execTile g s = _
  simp [execTile, hoff, hgate, ht, hf, hheader, htok, hm, hn, hr]

/-- A tile without output completes at once. -/
theorem State.exec_tile_empty (htok : T.tokCtr d = 0xFFFF) (hmn : T.m d = 0 ∨ T.n d = 0) :
    exec (.tile g) s
      = .next (((s.modCore g fun k => { k with empty := wrapAdd 16 k.empty 1 }).advance g).completeNow g d) := by
  subst hd
  obtain ⟨hoff, hgate, hheader, -⟩ := h
  change execTile g s = _
  simp [execTile, hoff, hgate, ht, hf, hheader, htok, hmn]

/-- A tile whose rows all lie at or beyond its token counter completes at once. -/
theorem State.exec_tile_suppressed (htok : T.tokCtr d ≠ 0xFFFF)
    (hc : s.clusterIn (s.core g).part (counterCluster (ownDie g (T.tokCtr d % 2 ^ 15))) = true) (hm : T.m d ≠ 0) (hn : T.n d ≠ 0)
    (hr : tileInRange d 0 (T.m d) (T.aAddr d, T.aStride d) (T.outAddr d, T.outStride d) = true)
    (hrow : (s.counter (ownDie g (T.tokCtr d % 2 ^ 15))).toNat ≤ T.rowBase d) :
    exec (.tile g) s
      = .next (((s.modCore g fun k => { k with suppressed := wrapAdd 16 k.suppressed 1 }).advance g).completeNow g d) := by
  subst hd
  obtain ⟨hoff, hgate, hheader, -⟩ := h
  change execTile g s = _
  simp only [Nat.reducePow] at hc hrow
  simp [execTile, hoff, hgate, ht, hf, hheader, htok, hm, hn, hr, hc, hrow]

end

/-! ### GATHER -/

/-- A core with an empty gather stage has no requests that a new one joins. -/
theorem Core.gatherGroup_empty {k : Core} (ho : k.gatherOpen = []) (hw : k.gatherWait = []) (q : GatherReq) :
    k.gatherGroup q = none := by
  simp [Core.gatherGroup, ho, hw, GatherReq.joins]

/-- An open tile that has fewer than 64 rows waits, under a wait bound. -/
theorem State.fillGather_waits {n : Nat} (hw : (s.core g).waitBound ≠ 0) (hr : gatherRows (s.core g).gatherOpen < 64) :
    s.fillGather g false n = s := by
  cases n with
  | zero => rfl
  | succ n =>
    have : ¬ 64 ≤ gatherRows (s.core g).gatherOpen := by omega
    simp [State.fillGather, hw, this]

/-- No tile is open, and none is issued. -/
theorem State.fillGather_empty {n : Nat} {all : Bool} (ho : (s.core g).gatherOpen = []) : s.fillGather g all n = s := by
  cases n with
  | zero => rfl
  | succ n => simp [State.fillGather, ho]

/-- A request that finds the gather stage empty opens a tile there. -/
theorem State.exec_gather_opens {t0 tm : Nat} (h : s.issues g (dType · == tyGather) false (s.core g).gatherLoad 64 d0)
    (hd : applyOffsets d0 (s.core g).sq = d) (ht : s.descriptor g (G.template d) = .ok t0) (hty : dType t0 = tyTile)
    (htp : dTemplate t0 = true) (hc : G.template d < (s.core g).count) (htm : applyOffsets t0 (s.core g).sq = tm)
    (hf : tileFaultCause (dset tm 20 6 0 (G.rows d)) (s.classF g) true (s.core g).normOwner (s.core g).slotOpen = none)
    (hr : tileInRange tm 0 (G.rows d) (G.aAddr d, G.aStride d) (G.outAddr d, G.outStride d) = true)
    (ho : (s.core g).gatherOpen = []) (hw : (s.core g).gatherWait = []) :
    exec (.gather g) s = .next (((s.issue g d .gather).modCore g fun k => { k with
      gatherOpen := [{ serial := (s.core g).serial, desc := d, template := tm, seed := (s.core g).sq.getD (T.seedReg tm) 0 }]
      slotOpen := slotsAfter tm k.slotOpen }).fillGather g false 66) := by
  subst hd htm
  obtain ⟨hoff, hgate, hheader, -⟩ := h
  have hc' : ¬ (s.core g).count ≤ G.template (applyOffsets d0 (s.core g).sq) := by omega
  change execGather g s = _
  simp only [execGather, hoff, hgate, hheader, hc', ht, hty, htp, Core.gatherGroup_empty ho hw, hf, gatherRows, hr, if_false,
    bne_self_eq_false, Bool.not_true, Bool.or_false, Bool.false_eq_true, Option.isSome_none, Option.getD_none, List.map_nil,
    List.sum_nil]
  refine congrArg (fun u => Host.Outcome.next (State.fillGather u g false 66)) (State.modCore_congr ?_)
  have hissue : ((s.issue g (applyOffsets d0 (s.core g).sq) .gather).core g).gatherOpen = [] := by
    rw [State.core_issue, State.core_advance]
    exact ho
  simp only [Core.addRequest, hissue, List.isEmpty_nil, if_true]

/-- The wait bound issues the open tile in its place in program order; no request waits to open the next one. -/
theorem State.exec_gatherWaitBound {q : GatherReq} {rest : List GatherReq} (hoff : s.dieOff (dieOf g) = false)
    (ho : (s.core g).gatherOpen = q :: rest) (hw : (s.core g).gatherWait = []) (hn : T.n q.template ≠ 0) :
    ∃ t, exec (.gatherWaitBound g) s = .next t ∧ (t.core g).gatherOpen = []
      ∧ (t.core g).tiles = ((s.core g).tiles.filter fun u => u.serial < q.serial)
          ++ tileRuns ({ serial := q.serial, index := G.template q.desc, desc := q.template, seed := q.seed
                         m := (rowTable (s.core g).gatherOpen).length, rows := rowTable (s.core g).gatherOpen } : TileRun)
          ++ (s.core g).tiles.filter (fun u => q.serial < u.serial)
      ∧ t = { s with cores := t.cores } := by
  have hopen : ((s.issueGathered g).core g).gatherOpen = [] := by
    simp [State.issueGathered, ho, hw, hn]
  refine ⟨s.issueGathered g, ?_, hopen, ?_, ?_⟩
  · change execGatherWaitBound g s = _
    simp [execGatherWaitBound, hoff, ho, State.fillGather_empty hopen]
  · simp [State.issueGathered, ho, hn]
  · simp only [State.issueGathered, ho, if_neg hn]
    rfl

/-- A condition that holds does not count in a filter. -/
theorem filter_and_of_holds {α : Type} {p : α → Prop} [DecidablePred p] {c : Prop} [Decidable c] (hc : c) (l : List α) :
    l.filter (fun e => decide (p e ∧ c)) = l.filter fun e => decide (p e) := by
  simp only [hc, and_true]

/-- Settles O52: each outcome of TILE, of a GATHER that opens a tile and of the wait bound is the state that its lemma gives, and
what the core becomes there is read off from `core_issue`. In the statement a filter's condition takes in the clauses that come
after it; they hold, so the filter is the one that was meant. -/
theorem tileIssue : Obligations.TileIssue := by
  intro s g d0 k d
  refine ⟨fun h => ⟨fun ht => ?_, fun ht hf => ⟨fun htok hm hn hr => ?_, fun htok hmn hdone => ?_, fun htok hc hm hn hr hrow hdone => ?_⟩⟩,
    fun t0 h ht hty htp hc => ?_, fun q rest hoff ho hw hn => ?_⟩
  · exact ⟨_, State.exec_tile_template h ht, State.core_modCore .., rfl⟩
  · refine ⟨_, State.exec_tile_queued h ht rfl hf htok hm hn hr, ?_, ?_, ?_⟩
    · simp only [State.core_modCore, State.core_issue, State.core_advance]
      rfl
    · simp only [State.core_modCore, State.core_issue, State.core_advance]
      rfl
    · rw [filter_and_of_holds]
      · simp only [State.core_modCore, State.core_issue, State.core_advance, Bool.decide_eq_true]
        rfl
      · refine ⟨?_, ?_, State.coresOnly.trans (State.coresOnly.issue s g d .tile) (State.coresOnly.modCore ..)⟩ <;>
          simp only [State.core_modCore, State.core_issue, State.core_advance] <;> rfl
  · have hexec := State.exec_tile_empty h ht rfl hf htok hmn
    obtain ⟨t, hnow, hpc, hempty, -, htiles, hissued, hframe⟩ :=
      State.core_countedNow (fun k => { k with empty := wrapAdd 16 k.empty 1 }) (State.issues_lt h) hdone
    rw [hnow] at hexec
    exact ⟨t, hexec, hpc, hempty, htiles, hissued, hframe⟩
  · have hexec := State.exec_tile_suppressed h ht rfl hf htok hc hm hn hr hrow
    obtain ⟨t, hnow, hpc, -, hsuppressed, htiles, hissued, hframe⟩ :=
      State.core_countedNow (fun k => { k with suppressed := wrapAdd 16 k.suppressed 1 }) (State.issues_lt h) hdone
    rw [hnow] at hexec
    exact ⟨t, hexec, hpc, hsuppressed, htiles, hissued, hframe⟩
  · intro tm hf hr0 hr64 hr ho hw hwb
    have hexec := State.exec_gather_opens h rfl ht hty htp hc rfl hf hr ho hw
    have hcore := State.core_modCore (s.issue g d .gather) g fun k => { k with
      gatherOpen := [{ serial := (s.core g).serial, desc := d, template := tm, seed := (s.core g).sq.getD (T.seedReg tm) 0 }]
      slotOpen := slotsAfter tm k.slotOpen }
    rw [State.core_issue, State.core_advance] at hcore
    rw [State.fillGather_waits (by rw [hcore]; exact hwb) (by rw [hcore]; simpa [gatherRows] using hr64)] at hexec
    refine ⟨_, hexec, ?_, ?_, ?_, ?_, State.coresOnly.trans (State.coresOnly.issue s g d .gather) (State.coresOnly.modCore ..)⟩ <;>
      rw [hcore]
    exact hw
  · obtain ⟨t, hexec, hopen, htiles, hframe⟩ := State.exec_gatherWaitBound hoff ho hw hn
    refine ⟨t, hexec, hopen, ?_⟩
    rw [filter_and_of_holds hframe]
    exact htiles

end Sys2Proof.Machine
end

section
/-! The epilogue of a tile behind an UPDATE (R95, R214): why the statement on tile runs fails. -/

namespace Sys2Proof.Machine

/-- A TILE of one row and one column (R105). -/
def cellTile : Nat := dset (dset tyTile 20 6 0 1) 21 6 0 1

/-- The TILE has drained; it was issued after another descriptor. -/
def lateTile : TileRun :=
  { serial := 1, index := 1, desc := cellTile, seed := 0, m := T.m cellTile, phase := .drained, block := [0x40C00000] }

/-- Core 0 with an UPDATE that has been issued and has not read its hyperparameters yet, and the tile that was issued after it. -/
def updateAheadCore : Core :=
  { ctx := some 0, state := .issuing, pc := 2, count := 3, serial := 2, tiles := [lateTile]
    issued := [{ serial := 0, index := 0, desc := tyUpdate, regs := [], work := .update {} },
               { serial := 1, index := 1, desc := cellTile, regs := [], work := .tile }] }

/-- A package that is on, with that core. -/
def updateAhead : State := { cores := [(0, updateAheadCore)], boot := { powered := true } }

/-- The vector unit takes the UPDATE next, and the ready epilogue behind it waits: EPILOGUE leaves the state as it is. -/
theorem exec_epilogue_updateAhead : exec (.epilogue 0 .none) updateAhead = .next updateAhead := by
  have hdie : updateAhead.dieOff (dieOf 0) = false := rfl
  have hnext : (updateAhead.core 0).nextEpilogue = none := by decide
  change execEpilogue 0 .none updateAhead = _
  simp only [execEpilogue, hdie, hnext, Bool.false_eq_true, if_false]

/-- Refutes O53: the clause on EPILOGUE lets an UPDATE that has not started stand before the drained tile in program order. The
vector unit takes that UPDATE first (R95), so the tile's epilogue does not run, and the tile stays. -/
theorem not_tileRuns : ¬ Obligations.TileRuns := by
  intro h
  obtain ⟨-, -, -, -, -, hepilogue, -⟩ := h updateAhead 0 0 0 lateTile rfl
  obtain ⟨u, hexec, htiles, -⟩ := hepilogue (by decide) (by decide) rfl (by decide) (by decide) (by decide)
  obtain rfl : updateAhead = u := Host.Outcome.next.inj (exec_epilogue_updateAhead.symm.trans hexec)
  exact htiles lateTile (by decide) rfl

end Sys2Proof.Machine
end

section
/-! What a sequencer fault leaves of the scratchpads (R121), and the fault of a read that meets an uncorrectable error (R235). -/

namespace Sys2Proof.Machine

theorem Mems.writeLoc_sp (m : Mems) (l : Loc) (bs : List Byte) : (m.writeLoc l bs).sp = m.sp := by
  cases l <;> rfl

theorem State.foldl_sp {β : Type} {f : State → β → State} (h : ∀ s b, (f s b).mems.sp = s.mems.sp) (l : List β) (s : State) :
    (l.foldl f s).mems.sp = s.mems.sp :=
  foldl_rel (fun s t : State => t.mems.sp = s.mems.sp) (fun _ => rfl) (fun _ _ _ h k => k.trans h) f h l s

theorem State.sp_storeUnder (s : State) (e a : Nat) (bs : List Byte) : (s.storeUnder e a bs).mems.sp = s.mems.sp := by
  unfold State.storeUnder
  split
  · exact Mems.writeLoc_sp ..
  · refine State.foldl_sp (fun s x => ?_) _ s
    dsimp only
    split
    · split
      · rfl
      · exact Mems.writeLoc_sp ..
    · exact Mems.writeLoc_sp ..

theorem State.sp_devPut (s : State) (a : Nat) (bs : List Byte) : (s.devPut a bs).mems.sp = s.mems.sp := by
  unfold State.devPut
  exact foldl_rel (fun x y : State × List Byte => y.1.mems.sp = x.1.mems.sp) (fun _ => rfl) (fun _ _ _ h k => k.trans h) _
    (fun x b => State.sp_storeUnder ..) _ (s, bs)

theorem State.sp_hubWrite (s : State) (p source : Nat) (who : Who) (a : Nat) (bs : List Byte) :
    (s.hubWrite p source who a bs).mems.sp = s.mems.sp := by
  unfold State.hubWrite State.devWrite
  split
  · next t h =>
    split at h
    · cases h
      exact s.sp_devPut a bs
    · cases h
    · cases h
  · unfold State.noteFault
    split <;> rfl
  · rfl

theorem State.sp_modJob (s : State) (j : Nat) (f : CapoJob → CapoJob) : (s.modJob j f).mems.sp = s.mems.sp := rfl

theorem State.sp_capoEntry (s : State) (j a b c d e : Nat) : (s.capoEntry j a b c d e).mems.sp = s.mems.sp := by
  unfold State.capoEntry
  dsimp only
  rw [State.sp_modJob, State.sp_hubWrite]

theorem State.sp_capoFinish (s : State) (j : Nat) : (s.capoFinish j).mems.sp = s.mems.sp := by
  unfold State.capoFinish
  split
  · rfl
  · dsimp only [State.draw]
    split
    · rw [State.sp_modJob, State.sp_capoEntry, State.sp_modJob]
    · rw [State.sp_modJob]

theorem State.sp_finish (s : State) (n code detail : Nat) : (s.finish n code detail).mems.sp = s.mems.sp := by
  unfold State.finish
  split
  · rfl
  · dsimp only
    split
    · rfl
    · rw [State.status_frame]

theorem State.sp_modCtx (s : State) (n c : Nat) (f : Ctx → Ctx) : (s.modCtx n c f).mems.sp = s.mems.sp := by
  unfold State.modCtx
  split <;> rfl

theorem State.sp_endLaunch (s : State) (n c code detail : Nat) : (s.endLaunch n c code detail).mems.sp = s.mems.sp := by
  unfold State.endLaunch
  split
  · rfl
  · split
    · rfl
    · dsimp only
      rw [State.sp_finish]
      split
      · rw [State.sp_capoFinish, State.sp_modCtx]
      · rw [State.sp_modCtx]

theorem State.sp_stopContext (s : State) (n c code detail : Nat) : (s.stopContext n c code detail).mems.sp = s.mems.sp := by
  unfold State.stopContext State.stopCores
  rw [State.sp_endLaunch, State.sp_modCtx]
  split
  · rfl
  · refine State.foldl_sp (fun s g => ?_) _ s
    dsimp only
    split <;> rfl

/-- A sequencer fault leaves the scratchpads. -/
theorem State.sp_seqFault (s : State) (g cause kind index : Nat) : (s.seqFault g cause kind index).mems.sp = s.mems.sp := by
  have hw : (s.waitedCycles g).mems.sp = s.mems.sp := by
    unfold State.waitedCycles
    split <;> rfl
  unfold State.seqFault
  dsimp only
  split
  · exact hw
  · exact (State.sp_stopContext ..).trans hw

/-! ### Uncorrectable errors of the scratchpad (R235) -/

/-- A read that meets an uncorrectable error of the core's scratchpad: the error is counted. -/
def State.spHardMet (s : State) (g : Nat) : State :=
  (s.modCore g fun k => { k with spHard := satAdd 16 k.spHard 1 }).census 1

theorem State.core_spHardMet (s : State) (g : Nat) :
    (s.spHardMet g).core g = { s.core g with spHard := satAdd 16 (s.core g).spHard 1 } := by
  rw [State.spHardMet, State.core_census, State.core_modCore]

/-- An uncorrectable scratchpad error stops the core that reads, with cause 9 (R235). -/
theorem State.onDieRead_spHard (s : State) (g cl kind index : Nat) (cm dev : Bool) (go : State → State) :
    s.onDieRead g g cl kind index true cm dev .spHard go = (s.spHardMet g).seqFault g 9 kind index := rfl

end Sys2Proof.Machine
end

section
/-! The vector unit and the data mover (R85, R94, R95, R103, R109, R114, R235, R246): what a VEC and a MOVE do to their core, and
what a completion leaves. -/

namespace Sys2Proof.Machine

variable {s : State} {g d d0 : Nat}

/-! ### The vector unit (R95, R114, R214) -/

/-- Two cores differ in the vector unit's counters alone. -/
def Core.sameButVec (k q : Core) : Prop := q = { k with vecNan := q.vecNan, vecBusy := q.vecBusy, vecItems := q.vecItems }

theorem Core.sameButVec.trans {k q r : Core} (h : k.sameButVec q) (h' : q.sameButVec r) : k.sameButVec r := by
  unfold Core.sameButVec at *
  rw [h', h]

/-- GATE writes the scratchpad alone. -/
theorem State.cores_runGate (s : State) (g d : Nat) : (runGate s g d).cores = s.cores := by
  unfold runGate
  change (List.foldl _ s _).cores = s.cores
  refine State.foldl_cores (fun _ _ => ?_) _ s
  rfl

/-- A VEC that runs counts, and leaves its core as it is otherwise. -/
theorem State.core_runVec (s : State) (g d : Nat) (sq : List W64) : (s.core g).sameButVec ((runVec s g d sq).core g) := by
  unfold runVec
  refine Core.sameButVec.trans ?_ (by rw [State.core_modCore]; exact rfl)
  split
  · rw [State.core_of_cores (s.cores_runGate g d)]
    exact rfl
  · refine foldl_rel (fun s t : State => (s.core g).sameButVec (t.core g)) (fun _ => rfl)
      (fun _ _ _ => Core.sameButVec.trans) _ (fun t r => ?_) _ s
    dsimp only
    rw [State.core_modCore]
    exact rfl

/-- The vector unit takes no VEC where none waits. -/
theorem Core.nextVec_none {k : Core} (h : ∀ i ∈ k.issued, i.work ≠ .vec) : k.nextVec = none := by
  have hfind : k.issued.find? (·.work == .vec) = none := by simpa using h
  rw [Core.nextVec, hfind]
  rfl

/-- The vector unit takes no VEC while an UPDATE holds it. -/
theorem Core.nextVec_updating {k : Core} (h : k.updating = true) : k.nextVec = none := by
  simp [Core.nextVec, h]

theorem State.runWaitingVecs_none (n : Nat) (h : (s.core g).nextVec = none) : s.runWaitingVecs g n = s := by
  cases n with
  | zero => rfl
  | succ n => simp only [State.runWaitingVecs, h]

/-- The VEC that is issued last is next when no other waits and nothing holds its writes or comes before it. -/
theorem Core.nextVec_last {k : Core} {l : List Issued} {i : Issued} (hl : k.issued = l ++ [i]) (hi : i.work = .vec)
    (hold : ∀ j ∈ l, j.work ≠ .vec ∧ (dType j.desc = tyUpdate → i.serial ≤ j.serial))
    (htiles : ∀ t ∈ k.tiles, t.phase = .drained → i.serial ≤ t.serial) (hu : k.updating = false)
    (hb : k.blocksVec i.desc = false) : k.nextVec = some i := by
  have hfind : k.issued.find? (·.work == .vec) = some i := by
    have hnone : l.find? (·.work == .vec) = none := by simpa using fun j hj => (hold j hj).1
    simp [hl, List.find?_append, hnone, hi]
  have hupd : (k.issued.any fun j => dType j.desc == tyUpdate && decide (j.serial < i.serial)) = false := by
    simp only [hl, List.any_append, List.any_cons, List.any_nil, Nat.lt_irrefl, decide_false, Bool.and_false, Bool.or_false,
      List.any_eq_false, Bool.and_eq_true, beq_iff_eq, decide_eq_true_eq, not_and, Nat.not_lt]
    exact fun j hj => (hold j hj).2
  have hdrained : (k.tiles.any fun t => t.phase == .drained && decide (t.serial < i.serial)) = false := by
    simpa using htiles
  simp [Core.nextVec, hfind, hu, hb, hupd, hdrained]

/-- A VEC passes its checks as the core issues it. -/
abbrev State.issuesVec (s : State) (g d0 d : Nat) : Prop :=
  s.issues g (dType · == tyVec) false ((s.core g).outstanding tyVec + (s.core g).outstanding tyUpdate) 16 d0
    ∧ applyOffsets d0 (s.core g).sq = d ∧ vecFault d = none

/-- A VEC that passes its checks goes to the vector unit, unless what its core reads stops it. -/
theorem State.exec_vec (err : ReadError) (h : s.issuesVec g d0 d) : exec (.vec g err) s
    = .next (s.onDieRead g g (clusterOf g) tyVec (s.core g).pc true false false err fun s => (s.issue g d .vec).runVecs g) := by
  obtain ⟨⟨hoff, hgate, hheader, -⟩, rfl, hfault⟩ := h
  change execVec g err s = _
  simp only [execVec, hoff, hgate, hheader, hfault, Bool.false_eq_true, if_false]

/-- A VEC that nothing holds runs, completes, and leaves the vector unit without a VEC. -/
theorem State.runVecs_issue (hs : ∀ i ∈ (s.core g).issued, i.serial ≠ (s.core g).serial)
    (hlt : (s.core g).pc + 1 < (s.core g).count)
    (hold : ∀ i ∈ (s.core g).issued, i.work ≠ .vec ∧ (dType i.desc = tyUpdate → (s.core g).serial ≤ i.serial))
    (htiles : ∀ t ∈ (s.core g).tiles, t.phase = .drained → (s.core g).serial ≤ t.serial) (hu : (s.core g).updating = false)
    (hb : (s.core g).blocksVec d = false) : (s.issue g d .vec).runVecs g
      = (runVec (s.issue g d .vec) g d (s.core g).sq).complete g (s.core g).serial := by
  have hcore := s.core_issue g d .vec
  rw [State.core_advance] at hcore
  have hissued : ((s.issue g d .vec).core g).issued = (s.core g).issued ++ [(s.core g).item d .vec] := by rw [hcore]
  have hupdating : ((s.issue g d .vec).core g).updating = false := by
    unfold Core.updating at hu ⊢
    rw [hissued, List.any_append, hu]
    rfl
  have hnext : ((s.issue g d .vec).core g).nextVec = some ((s.core g).item d .vec) :=
    Core.nextVec_last hissued rfl hold (by rw [hcore]; exact htiles) hupdating (by rw [hcore]; exact hb)
  have hran := (s.issue g d .vec).core_runVec g d (s.core g).sq
  have hfind := State.find_issue (d := d) hs .vec
  generalize hu' : runVec (s.issue g d .vec) g d (s.core g).sq = u at hran
  have hui : (u.core g).issued = ((s.issue g d .vec).core g).issued := by rw [hran]
  have hdone := State.core_complete (s := u) (g := g) (n := (s.core g).serial) (by rw [hui]; exact hfind)
    (by rw [hran, hcore]; exact hlt)
  have hnone : ((u.complete g (s.core g).serial).core g).nextVec = none := by
    refine Core.nextVec_none fun i hi => ?_
    rw [hdone] at hi
    obtain ⟨hmem, hne⟩ := List.mem_filter.1 hi
    rw [hui, hissued] at hmem
    rcases List.mem_append.1 hmem with hmem | hmem
    · exact (hold i hmem).1
    · rw [List.mem_singleton.1 hmem] at hne
      simp at hne
  rw [State.runVecs, hissued, List.length_append, List.length_singleton, State.runWaitingVecs, hnext]
  dsimp only
  exact (congrArg (fun u : State => (u.complete g (s.core g).serial).runWaitingVecs g _) hu').trans
    ((State.runWaitingVecs_none _ hnone).trans (by rw [← hu']))

/-- A VEC waits while an UPDATE holds the vector unit. -/
theorem State.runVecs_issue_updating (hu : (s.core g).updating = true) (w : Work) :
    (s.issue g d w).runVecs g = s.issue g d w := by
  refine State.runWaitingVecs_none _ (Core.nextVec_updating ?_)
  rw [State.core_issue, Core.updating, List.any_append]
  rw [Core.updating] at hu
  rw [hu, Bool.true_or]

/-! ### MOVE (R94, R104, R109) -/

@[simp] theorem Mem.length_readFrom (m : Mem) (a n : Nat) : (Mem.readFrom m a n).length = n := by
  induction m, a, n using Mem.readFrom.induct with
  | case1 => simp [Mem.readFrom]
  | case2 a n ih => simp [Mem.readFrom, ih]
  | case3 v t a n ih => simp [Mem.readFrom, ih]
  | case4 i v t a n hi ih => simp [Mem.readFrom, hi, ih]

@[simp] theorem State.length_spRead (s : State) (g o n : Nat) : (s.spRead g o n).length = n := Mem.length_readFrom ..

/-- A MOVE of one row of bytes as they are, from the core's scratchpad to the same. -/
structure SpRow (d : Nat) : Prop where
  src : M.srcSpace d = 0
  dst : M.dstSpace d = 0
  raw : M.cvt d = false
  rows : M.rows d = 1

theorem SpRow.moveRanges (h : SpRow d) (s : State) (g p : Nat) (sel : Sel) :
    s.moveRanges g p d sel = ([(M.src d, M.rowBytes d)], [(M.dst d, M.rowBytes d)]) := by
  simp [State.moveRanges, moveReads, moveWrites, State.moveCounts, moveDstBytes, h.raw, h.rows]

/-- The place of a range of the core's own scratchpad. -/
theorem State.place_sp {a n : Nat} (h : a + n ≤ 2 ^ 22) (s : State) (g p : Nat) : s.place g p 0 a n = .sp g a := if_pos h

/-- A MOVE that passes its checks has bytes to move, and leaves no range of its space. -/
theorem State.moveFault_none {p : Nat} {sel : Sel} (hf : s.moveFault g p d sel = none) :
    M.rowBytes d ≠ 0 ∧ s.moveOut g p d sel = false := by
  unfold State.moveFault at hf
  dsimp only at hf
  split at hf
  · cases hf
  · next hcodes =>
    split at hf
    · cases hf
    · next hout =>
      simp only [Bool.or_eq_true, decide_eq_true_eq, not_or] at hcodes
      obtain ⟨⟨⟨-, hbytes⟩, -⟩, -⟩ := hcodes
      exact ⟨hbytes, Bool.not_eq_true _ ▸ hout⟩

/-- The ranges of such a MOVE that passes its checks lie in the scratchpad. -/
theorem SpRow.in_sp {p : Nat} {sel : Sel} (h : SpRow d) (hf : s.moveFault g p d sel = none) :
    M.src d + M.rowBytes d ≤ 2 ^ 22 ∧ M.dst d + M.rowBytes d ≤ 2 ^ 22 := by
  obtain ⟨hbytes, hout⟩ := State.moveFault_none hf
  have hplace : ∀ a, (s.place g p 0 a (M.rowBytes d) == .bad) = false → a + M.rowBytes d ≤ 2 ^ 22 := fun a ha => by
    simpa [State.place] using ha
  simp only [State.moveOut, h.moveRanges, h.src, h.dst, List.any_cons, List.any_nil, Bool.or_false, Bool.or_eq_false_iff,
    bne_iff_ne.2 hbytes, Bool.true_and] at hout
  exact ⟨hplace _ hout.1, hplace _ hout.2⟩

/-- Such a MOVE leaves no range of its space, and waits for nothing while no protected range holds its destination. -/
theorem SpRow.not_blocked {p c : Nat} {sel : Sel} (h : SpRow d) (hd : M.dst d + M.rowBytes d ≤ 2 ^ 22)
    (hp : (s.core g).protects (M.dst d) (M.rowBytes d) = false) : s.moveBlocked g p c d sel = (false, false) := by
  simp [State.moveBlocked, h.moveRanges, h.dst, State.place_sp hd, hp]

theorem SpRow.not_out {p : Nat} {sel : Sel} (h : SpRow d) (hs : M.src d + M.rowBytes d ≤ 2 ^ 22)
    (hd : M.dst d + M.rowBytes d ≤ 2 ^ 22) : s.moveOut g p d sel = false := by
  simp [State.moveOut, h.moveRanges, h.src, h.dst, State.place_sp hs, State.place_sp hd]

/-- Such a MOVE copies its row. -/
theorem SpRow.runMove {p : Nat} {sel : Sel} (h : SpRow d) (hs : M.src d + M.rowBytes d ≤ 2 ^ 22)
    (hd : M.dst d + M.rowBytes d ≤ 2 ^ 22) :
    s.runMove g p d sel = .done (s.spWrite g (M.dst d) (s.spRead g (M.src d) (M.rowBytes d))) := by
  simp [State.runMove, h.moveRanges, h.src, h.dst, h.rows, State.place_sp hs, State.readPlace, State.moveRow, h.raw,
    State.place_sp hd, State.writePlace]

/-- An outstanding MOVE of a row copies it, and waits for its completion. -/
theorem SpRow.tryMove {n c : Nat} {i : Issued} (h : SpRow i.desc) (hi : (s.core g).issued.find? (·.serial == n) = some i)
    (hw : i.work = .move false false) (hc : (s.core g).ctx = some c) (hs : M.src i.desc + M.rowBytes i.desc ≤ 2 ^ 22)
    (hd : M.dst i.desc + M.rowBytes i.desc ≤ 2 ^ 22) (hp : (s.core g).protects (M.dst i.desc) (M.rowBytes i.desc) = false) :
    s.tryMove g n = (s.spWrite g (M.dst i.desc) (s.spRead g (M.src i.desc) (M.rowBytes i.desc))).setWork g n (.move true false) := by
  simp only [State.tryMove, hi, hw, hc, h.not_blocked hd hp, h.not_out hs hd, h.runMove hs hd]
  simp [State.moveOccupies, h.dst]

/-- A MOVE passes its checks as the core issues it. -/
abbrev State.issuesMove (s : State) (g d0 d : Nat) : Prop :=
  s.issues g (dType · == tyMove) false ((s.core g).outstanding tyMove) 64 d0 ∧ applyOffsets d0 (s.core g).sq = d
    ∧ s.moveFault g (s.core g).part d (s.core g).sel = none

/-- A MOVE that passes its checks is issued and tried. -/
theorem State.exec_move (h : s.issuesMove g d0 d) : exec (.move g .none) s
    = .next (((s.issue g d (.move false false)).moveLookups g (s.core g).part d (s.core g).sel).tryMove g (s.core g).serial) := by
  obtain ⟨⟨hoff, hgate, hheader, -⟩, rfl, hfault⟩ := h
  change execMove g .none s = _
  simp only [execMove, hoff, hgate, hheader, hfault, Bool.false_eq_true, if_false, State.onDieRead_none]

/-- A MOVE of a row within the scratchpad, as it is issued: the row is copied and its entry waits for the completion. -/
theorem SpRow.exec_move {c : Nat} (h : SpRow d) (hi : s.issuesMove g d0 d) (hs : ∀ i ∈ (s.core g).issued, i.serial ≠ (s.core g).serial)
    (hc : (s.core g).ctx = some c) (hp : (s.core g).protects (M.dst d) (M.rowBytes d) = false) : exec (.move g .none) s
      = .next (((s.issue g d (.move false false)).spWrite g (M.dst d) (s.spRead g (M.src d) (M.rowBytes d))).setWork g
          (s.core g).serial (.move true false)) := by
  have ⟨_, _, hfault⟩ := hi
  obtain ⟨hsrc, hdst⟩ := h.in_sp hfault
  have hcore := s.core_issue g d (.move false false)
  rw [State.core_advance] at hcore
  have hlookups : (s.issue g d (.move false false)).moveLookups g (s.core g).part d (s.core g).sel
      = s.issue g d (.move false false) := by simp [State.moveLookups, h.src, h.dst]
  rw [State.exec_move hi, hlookups, SpRow.tryMove (i := (s.core g).item d (.move false false)) (c := c) h (State.find_issue hs _) rfl
    (by rw [hcore]; exact hc) hsrc hdst (by rw [hcore]; exact hp)]
  rfl

/-- The core after its MOVE has copied: its entry says so. -/
theorem State.core_issue_setWork (hs : ∀ i ∈ (s.core g).issued, i.serial ≠ (s.core g).serial) (w w' : Work) (o : Nat) (bs : List Byte) :
    (((s.issue g d w).spWrite g o bs).setWork g (s.core g).serial w').core g = { (s.advance g).core g with
      issued := (s.core g).issued ++ [(s.core g).item d w'] } := by
  have hmap : (s.core g).issued.map (fun i : Issued => if i.serial = (s.core g).serial then { i with work := w' } else i)
      = (s.core g).issued := (List.map_congr_left (g := id) fun i hi => if_neg (hs i hi)).trans (List.map_id _)
  rw [State.setWork, State.core_modCore, State.core_spWrite, State.core_issue]
  simp [hmap]

/-- Beside the cores, such a MOVE changes the scratchpads alone. -/
theorem State.coresOnly.spWrite_setWork {u : State} (h : s.coresOnly u) (g o n : Nat) (bs : List Byte) (w : Work) :
    let t := (u.spWrite g o bs).setWork g n w
    t = { s with cores := t.cores, mems := { s.mems with sp := t.mems.sp } } := by
  unfold State.coresOnly at h
  generalize u.cores = c at h
  subst h
  rfl

/-! ### MOVE_COMPLETE (R94, R246) -/

/-- A MOVE that has copied completes where no line of what it wrote is at the host. -/
theorem State.exec_moveComplete {i : Nat} {x : Issued} {w : Bool} (hoff : s.dieOff (dieOf g) = false)
    (hi : (s.core g).issued.find? (·.serial == i) = some x) (hw : x.work = .move true w)
    (hheld : M.dstSpace x.desc = 2 →
      ∀ e ∈ (s.moveRanges g (s.core g).part x.desc { s.core g with sq := x.regs }.sel).2, s.heldIn e.1 e.2 = false) :
    exec (.moveComplete g i) s = .next (s.complete g i) := by
  have htry : s.tryMove g i = s := by simp only [State.tryMove, hi, hw]
  have hgone : (M.dstSpace x.desc == 2 && (s.moveRanges g (s.core g).part x.desc { s.core g with sq := x.regs }.sel).2.any
      (fun e => s.heldIn e.1 e.2)) = false := by
    by_cases h2 : M.dstSpace x.desc = 2
    · simpa [h2] using fun a b he => hheld h2 (a, b) he
    · simp [h2]
  change execMoveComplete g i s = _
  simp only [execMoveComplete, hoff, htry, hi, hw, hgone, Bool.false_eq_true, if_false]

/-- Settles O54: VEC by what the vector unit takes next, its error by `core_seqFault`, MOVE by `exec_move` and, for one row of the
scratchpad, by the bytes of a write, and the completion by `core_complete`. -/
theorem vectorsAndMoves : Obligations.VectorsAndMoves := by
  intro s g d0 k d item hserial
  refine ⟨fun h hfault => ⟨fun hold htiles hu hb => ?_, fun hu => ?_, fun he => ?_⟩,
    fun h hfault => ⟨State.exec_move ⟨h, rfl, hfault⟩, fun c hc hsrc hdst hcvt hrows hp hwf => ?_⟩,
    fun i x w hoff hi hw hlt hwf hheld => ?_⟩
  · rw [State.exec_vec .none ⟨h, rfl, hfault⟩, State.onDieRead_none, State.runVecs_issue hserial (State.issues_lt h) hold htiles hu hb]
  · have hexec := State.exec_vec .none ⟨h, rfl, hfault⟩
    rw [State.onDieRead_none, State.runVecs_issue_updating hu] at hexec
    have hcore := s.core_issue g d .vec
    rw [State.core_advance] at hcore
    refine ⟨_, hexec, ?_, ?_, State.coresOnly.issue s g d .vec⟩ <;> rw [hcore]
  · have hexec := State.exec_vec .spHard ⟨h, rfl, hfault⟩
    rw [State.onDieRead_spHard] at hexec
    have hcore := (s.spHardMet g).core_seqFault g 9 tyVec (s.core g).pc
    rw [State.core_spHardMet] at hcore
    refine ⟨_, hexec, ?_, ?_, ?_, ?_, (s.spHardMet g).sp_seqFault ..⟩ <;> rw [hcore]
    dsimp only
    rw [he]
  · obtain ⟨hsp, -⟩ := hwf
    have hlen := s.length_spRead g (M.src d) (M.rowBytes d)
    have hexec := SpRow.exec_move ⟨hsrc, hdst, hcvt, hrows⟩ ⟨h, rfl, hfault⟩ hserial hc hp
    have hcore := State.core_issue_setWork (d := d) hserial (.move false false) (.move true false) (M.dst d)
      (s.spRead g (M.src d) (M.rowBytes d))
    rw [State.core_advance] at hcore
    refine ⟨_, hexec, ?_, ?_, ?_, fun x hx => ?_, ?_⟩
    · have := Mem.read_write (g * 2 ^ 22 + M.dst d) (s.spRead g (M.src d) (M.rowBytes d)) hsp
      rw [hlen] at this
      exact this
    · rw [hcore]
    · rw [hcore]
    · exact Mem.byte_write_out _ _ hsp (by rw [hlen]; exact hx)
    · exact (State.coresOnly.issue s g d _).spWrite_setWork ..
  · obtain ⟨-, hcm, -⟩ := hwf
    have hcore := State.core_complete hi hlt
    have hframe := State.complete_frame hi hlt
    have hmems : (s.complete g i).mems = _ := congrArg State.mems hframe
    refine ⟨_, State.exec_moveComplete hoff hi hw hheld, ?_, fun hd => ?_, fun hd => ?_, ?_, ?_⟩
    · rw [hcore]
    · rw [hd, if_pos rfl] at hmems
      simp only [State.counter, hmems]
      exact s.counter_addCounter _ 1 hcm
    · rw [hmems, hd]
      rfl
    · rw [hcore]
    · refine hframe.trans ?_
      rw [hmems]
      cases dDoneEn x.desc <;> rfl

end Sys2Proof.Machine
end

section
/-! A fold that takes in forks of another context's sequence (R146, R155, R162): why the statement on sequences and folds fails. -/

namespace Sys2Proof.Machine

/-! ### The fold that STEP_FOLD begins -/

@[simp] theorem State.dropPending_res (s : State) : s.dropPending.res = s.res := by
  unfold State.dropPending
  split <;> rfl

@[simp] theorem State.bridgeSettle_res (s : State) (b : Nat) : (s.bridgeSettle b).res = s.res := by
  simp only [State.bridgeSettle]
  split
  · rw [State.dropPending_res, State.modBridge_res]
  · exact State.modBridge_res ..

@[simp] theorem State.settleBridges_res (s : State) : s.settleBridges.res = s.res :=
  foldl_rel (fun s t : State => t.res = s.res) (fun _ => rfl) (fun _ _ _ h k => k.trans h) _ State.bridgeSettle_res _ _

/-- What the Bridges see of a fold does not change the fold. -/
theorem State.resPart_settleBridges (s : State) (m : Nat) : s.settleBridges.resPart m = s.resPart m := by
  simp only [State.resPart, State.settleBridges_res]

/-- STEP_FOLD of a context whose step has ended, where no fold runs and none of this step has, begins the fold (R155, R156). -/
theorem State.exec_stepFold_begins {s : State} {m c : Nat} {x : Ctx} (hoff : s.off = false) (hx : s.ctx m c = some x)
    (hsilent : s.frt.silent = false) (hfold : (s.resPart m).fold = none) (hseqs : s.hasSeqs m c = true)
    (hpassed : x.stepPassed = true) (hending : s.stepEnding m c x = true) (hnew : (s.resPart m).folded.find c ≠ some x.step) :
    exec (.stepFold m c) s = .next (((s.foldBegin m c x.step).foldGo m).settleBridges) := by
  have hagain : ((s.resPart m).folded.find c == some x.step) = false := beq_eq_false_iff_ne.2 hnew
  change execStepFold m c s = _
  simp only [execStepFold, hoff, hx, hsilent, hfold, hseqs, hpassed, hending, hagain, Bool.false_and, Bool.false_eq_true,
    if_false, Bool.not_false, Bool.and_self, if_true]

/-! ### A context without a sequence of its own, and two forks that it has sent -/

/-- An accepted command of context 0 of partition 0, from its fields: byte offset, bytes, value. -/
def foldCmd (n op : Nat) (fs : List (Nat × Nat × Nat)) : Cmd :=
  { number := n, fn := 0, queue := 0, opcode := op, tag := n
    packet := toLE 64 (((0, 2, op) :: (8, 8, handleOf 0 0 1) :: fs).map fun f => f.2.2 * 256 ^ f.1).sum }

/-- A KV_FORK of sequence 5, with all its positions, into sequence `key` (R146). -/
def forkCmd (n key app view : Nat) : Cmd :=
  foldCmd n 0x72 [(16, 4, 5), (20, 4, key), (24, 4, 0xFFFFFFFF), (28, 6, app), (34, 6, view)]

/-- The parent, an active sequence of context 1 to which nothing has been appended yet: one layer, one head of 16 elements in E4M3,
pages of 16 positions, decay 1, and one position in a step and in a frame (R145). -/
def forkParent : ResSeq :=
  { part := 0, ctx := 1, key := 5, status := 1, layers := [{}]
    params := toLE 4 5 ++ toLE 2 1 ++ toLE 1 1 ++ toLE 1 1 ++ toLE 1 3 ++ fill 11 0 ++ toLE 4 0x3F800000 ++ toLE 2 1 ++ toLE 2 1
      ++ fill 4 0 ++ toLE 6 0x82000 ++ toLE 6 0x85000 ++ fill 4 0 }

/-- Context 0, in its step 5, which all its cores have passed. -/
def forkedCtx : Ctx := { gen := 1, gmask := 1, step := 5, stepOpen := true, passed := List.range 16 }

/-- Context 0 has ended its step 5, and has sent two forks of sequence 5 before, 6 and 7. The append buffer of each, in page 1, holds
one position; the pool has one free page, 8, and the swap area one place, 9. -/
def forkedFold : State :=
  { boot := { powered := true, stage := 5, granuleOk := 0xFFFF }
    parts := [(0, { state := 1, gmask := 1, created := 2, ctxs := [(0, forkedCtx), (1, { gen := 2, gmask := 1 })] })]
    frt := { entry := [(1, mkEntry 0 0 0 1 0 0 false false false 1), (8, mkEntry 0 0 0 0 0 0 false false false 8),
      (9, mkEntry 4 0 0 0 0 0 false false false 9)] }
    mems := { hbm := [(0x80000, 1), (0x81000, 1)] }
    hub := { nextNumber := 4
             fns := [(0, { busMaster := true, queues := [(0, { enable := true, size := 8, cqBase := 0x1000 })] })]
             accepted := [forkCmd 1 6 0x80000 0x83000, forkCmd 2 7 0x81000 0x84000, foldCmd 3 0x51 [(16, 8, 5)]] }
    res := { enable := true, seqs := [forkParent], parts := [(0, { free := [8], swapFree := [9] })] } }

/-- The fold makes both forks active. Sequence 6 takes the free page for its append; for that of 7 no page is left, so 6 is pre-empted,
and the fold waits for its swap copy with 7 still to fold (R146, R155, R161, R162). -/
theorem foldGo_forkedFold : (((forkedFold.foldBegin 0 0 forkedCtx.step).foldGo 0).resPart 0).fold
    = some { ctx := 0, step := 5, todo := [7], preempted := [6], waitKey := some 6, upTo := 4 } := by
  decide +kernel

/-- Refutes O37: a fold whose context has no active sequence need not end in its own step. A fork belongs to the context that sent it,
while its parent may be an active sequence of another context of the partition (R146, the table of R160). The fold then has the forks
to append for, and waits for a swap copy where the second one finds no free page. -/
theorem not_sequencesAndFolds : ¬ Obligations.SequencesAndFolds := by
  intro h
  obtain ⟨-, -, -, hfold, -⟩ := h forkedFold 0 0 0 (foldCmd 3 0x51 [])
  have hx : forkedFold.ctx 0 0 = some forkedCtx := rfl
  have hending : forkedFold.stepEnding 0 0 forkedCtx = true := by decide
  have hjoining : ∀ q ∈ forkedFold.res.seqs, q.part = 0 → q.ctx = 0 → q.status = 0 := by decide
  obtain ⟨-, hends⟩ := hfold forkedCtx rfl hx (.inl rfl) rfl (by decide) (by decide) hending (by decide)
  obtain ⟨t, hexec, hnone, -⟩ := hends hjoining
  have hbegins := State.exec_stepFold_begins rfl hx rfl rfl (by decide) (by decide) hending (by decide)
  obtain rfl := Host.Outcome.next.inj (hbegins.symm.trans hexec)
  rw [State.resPart_settleBridges, foldGo_forkedFold] at hnone
  exact Option.some_ne_none _ hnone

end Sys2Proof.Machine
end

section
/-! SCROLL_PUT and SCROLL_GET (R167 to R170, R196): the checks at issue, and what the first attempt of a directive does. -/

namespace Sys2Proof.Machine

variable {s : State} {g d d0 : Nat}

/-! ### Lookups of the translation caches (R227) -/

/-- Two states differ in the Fretboard and the dies' counters alone. -/
def State.frtAndDiesOnly (s t : State) : Prop := t = { s with frt := t.frt, dies := t.dies }

theorem State.frtAndDiesOnly.trans {s t u : State} (h : s.frtAndDiesOnly t) (k : t.frtAndDiesOnly u) : s.frtAndDiesOnly u := by
  unfold State.frtAndDiesOnly at *
  rw [k, h]

theorem State.lookup_frame (s : State) (k x : Nat) : s.frtAndDiesOnly (s.lookup k x) := by
  unfold State.lookup
  dsimp only
  split
  · rfl
  · split <;> rfl

/-- Lookups change the translation caches and their counters alone. -/
theorem State.lookups_frame (s : State) (g a n : Nat) : s.frtAndDiesOnly (s.lookups g a n) :=
  foldl_rel State.frtAndDiesOnly (fun _ => rfl) (fun _ _ _ => .trans) _ (fun s _ => s.lookup_frame _ _) _ s

/-! ### Issue -/

/-- A SCROLL passes the checks that its core makes at issue (R99, R104, R168, R91). -/
structure State.ScrollPasses (s : State) (g d : Nat) : Prop where
  formats : scrollFormats d = true
  nonempty : Scl.length d ≠ 0
  short : Scl.length d ≤ 4096
  inTable : (s.recordIndex (s.core g).part (Scl.dev d)).isSome = true
  inScratchpad : Scl.sp d + Scl.length d ≤ 0x10000
  offProgram : s.meetsProgram (s.core g).part (Scl.dev d) 64 = false

/-- The state in which a SCROLL has been issued, before its first attempt. -/
abbrev State.scrollIssued (s : State) (g d : Nat) : State := (s.issue g d (.scroll .held)).lookups g (Scl.dev d) 64

/-- A SCROLL is carried out as far as it can be: a get, or a put. -/
def State.tryScroll (s : State) (g : Nat) (i : Issued) : State := if Scl.get i.desc then s.tryGet g i else s.tryPut g i

theorem State.core_scrollIssued (s : State) (g d : Nat) : (s.scrollIssued g d).core g = (s.issue g d (.scroll .held)).core g := by
  rw [State.scrollIssued, State.core, State.lookups_frame (s.issue g d (.scroll .held)) g (Scl.dev d) 64, State.core]

@[simp] theorem State.part_core_scrollIssued (s : State) (g d : Nat) : ((s.scrollIssued g d).core g).part = (s.core g).part := by
  rw [State.core_scrollIssued, State.core_issue, State.core_advance]

@[simp] theorem State.ctx_core_scrollIssued (s : State) (g d : Nat) : ((s.scrollIssued g d).core g).ctx = (s.core g).ctx := by
  rw [State.core_scrollIssued, State.core_issue, State.core_advance]

/-- The issue of a SCROLL changes no partition. -/
theorem State.parts_scrollIssued (s : State) (g d : Nat) : (s.scrollIssued g d).parts = s.parts := by
  rw [State.scrollIssued, State.lookups_frame (s.issue g d (.scroll .held)) g (Scl.dev d) 64]
  rfl

/-- The issue of a SCROLL changes nothing of the Scroll. -/
theorem State.scr_scrollIssued (s : State) (g d : Nat) : (s.scrollIssued g d).scr = s.scr := by
  rw [State.scrollIssued, State.lookups_frame (s.issue g d (.scroll .held)) g (Scl.dev d) 64]
  rfl

section
variable (hs : ∀ i ∈ (s.core g).issued, i.serial ≠ (s.core g).serial)
include hs

theorem State.find_scrollIssued : ((s.scrollIssued g d).core g).issued.find? (·.serial == (s.core g).serial)
    = some ((s.core g).item d (.scroll .held)) := by
  rw [State.core_scrollIssued]
  exact State.find_issue hs (.scroll .held)

/-- A SCROLL that passes its checks is issued and tried. -/
theorem State.issueScroll_passes (h : s.ScrollPasses g d) (hheader : s.headerFault g d = none) : s.issueScroll g d .none
    = ((s.scrollIssued g d).tryScroll g ((s.core g).item d (.scroll .held))).settleRefs (clusterOf g) := by
  obtain ⟨hf, hn, hl, ht, hsp, hp⟩ := h
  have hl' : ¬ 4096 < Scl.length d := by omega
  have hsp' : ¬ 0x10000 < Scl.sp d + Scl.length d := by omega
  have ht' : (s.recordIndex (s.core g).part (Scl.dev d)).isNone = false := by simpa using ht
  have hfind := State.find_scrollIssued (d := d) hs
  simp only [State.issueScroll, hheader, hf, hn, hl', ht', hsp', hp, State.onDieRead_none, hfind, Bool.not_true, Bool.false_eq_true,
    if_false, decide_false, Bool.or_self]
  rfl

variable (hd : applyOffsets d0 (s.core g).sq = d) (hp : s.ScrollPasses g d)
include hd hp

theorem State.exec_scrollPut (h : s.issues g (fun d => dType d == tyScroll && !Scl.get d) false (s.scrollLoad g) 8 d0) :
    exec (.scrollPut g .none) s
      = .next (((s.scrollIssued g d).tryScroll g ((s.core g).item d (.scroll .held))).settleRefs (clusterOf g)) := by
  subst hd
  obtain ⟨hoff, hgate, hheader, -⟩ := h
  change execScrollPut g .none s = _
  simp only [execScrollPut, hoff, hgate, Bool.false_eq_true, if_false]
  rw [State.issueScroll_passes hs hp hheader]

theorem State.exec_scrollGet (h : s.issues g (fun d => dType d == tyScroll && Scl.get d) false (s.scrollLoad g) 8 d0) :
    exec (.scrollGet g .none) s
      = .next (((s.scrollIssued g d).tryScroll g ((s.core g).item d (.scroll .held))).settleRefs (clusterOf g)) := by
  subst hd
  obtain ⟨hoff, hgate, hheader, -⟩ := h
  change execScrollGet g .none s = _
  simp only [execScrollGet, hoff, hgate, Bool.false_eq_true, if_false]
  rw [State.issueScroll_passes hs hp hheader]

end

/-! ### The first attempt of a put (R167, R169) -/

/-- A put of core `g` finds its context, and a record that it may read and write, of a piece that is not yet listed. -/
structure State.PutReady (s : State) (g c : Nat) (x : Ctx) (a : Nat) (old : Piece) : Prop where
  core : (s.core g).ctx = some c
  ctx : s.ctx (s.core g).part c = some x
  record : s.readPiece (s.core g).part a = .ok old
  unlisted : (s.scrPart (s.core g).part).live a = false
  writable : s.recordCheck (s.core g).part a = .ok ()
  here : s.chainAway a = false

/-- A put that has been issued finds its context, and its record unlisted, as they were before. -/
theorem State.PutReady.of_scrollIssued {c : Nat} {x : Ctx} {old : Piece} (hc : (s.core g).ctx = some c)
    (hx : s.ctx (s.core g).part c = some x) (hr : (s.scrollIssued g d).readPiece (s.core g).part (Scl.dev d) = .ok old)
    (hl : (s.scrPart (s.core g).part).live (Scl.dev d) = false)
    (hw : (s.scrollIssued g d).recordCheck (s.core g).part (Scl.dev d) = .ok ())
    (hh : (s.scrollIssued g d).chainAway (Scl.dev d) = false) : (s.scrollIssued g d).PutReady g c x (Scl.dev d) old where
  core := by rw [State.ctx_core_scrollIssued, hc]
  ctx := by rw [State.part_core_scrollIssued, State.ctx_of_parts (s.parts_scrollIssued g d), hx]
  record := by rw [State.part_core_scrollIssued, hr]
  unlisted := by rw [State.part_core_scrollIssued, State.scrPart, State.scr_scrollIssued, ← State.scrPart, hl]
  writable := by rw [State.part_core_scrollIssued, hw]
  here := hh

section
variable {i : Issued} {c : Nat} {x : Ctx} {old : Piece} (h : s.PutReady g c x (Scl.dev i.desc) old)
include h

/-- A put that has not begun waits while the Scroll is disabled (R197). -/
theorem State.tryPut_disabled (hw : i.work = .scroll .held) (he : s.scr.enable = false) : s.tryPut g i
    = (s.dropRefs (Scl.dev i.desc)).putWaits_ (s.core g).part (Scl.dev i.desc) g i.serial (putRecord i old x.step.toNat) .recorded := by
  obtain ⟨hc, hx, hr, hl, hw', hh⟩ := h
  have he' : (s.dropRefs (Scl.dev i.desc)).scr.enable = false := he
  simp [State.tryPut, hc, hx, hr, hl, hw', hh, hw, he']

/-- A put KEEP writes its record, with state 4. -/
theorem State.tryPut_keep (he : s.scr.enable = true) (hd : Scl.disp i.desc = 0) : s.tryPut g i
    = (s.dropRefs (Scl.dev i.desc)).putDone (s.core g).part c g (Scl.dev i.desc) i.serial
        { putRecord i old x.step.toNat with state := 4 } := by
  obtain ⟨hc, hx, hr, hl, hw, hh⟩ := h
  have he' : (s.dropRefs (Scl.dev i.desc)).scr.enable = true := he
  simp [State.tryPut, hc, hx, hr, hl, hw, hh, he', hd]

/-- A put DROP writes its record, with state 3. -/
theorem State.tryPut_drop (he : s.scr.enable = true) (hd : Scl.disp i.desc = 3) : s.tryPut g i
    = (s.dropRefs (Scl.dev i.desc)).putDone (s.core g).part c g (Scl.dev i.desc) i.serial
        { putRecord i old x.step.toNat with state := 3 } := by
  obtain ⟨hc, hx, hr, hl, hw, hh⟩ := h
  have he' : (s.dropRefs (Scl.dev i.desc)).scr.enable = true := he
  simp [State.tryPut, hc, hx, hr, hl, hw, hh, he', hd]

end

/-! ### The first attempt of a get (R169, R170, R190) -/

section
variable {i : Issued} {r : Piece} (he : s.scr.enable = true) (hh : s.chainAway (Scl.dev i.desc) = false)
  (hr : s.readPiece (s.core g).part (Scl.dev i.desc) = .ok r)
include he hh hr

/-- A get whose put has not completed waits for it. -/
theorem State.tryGet_putOf (h : r.state = 1) : s.tryGet g i = s.setWork g i.serial (.scroll .putOf) := by
  simp [State.tryGet, he, hh, hr, h]

/-- A get of a kept piece completes. -/
theorem State.tryGet_kept (h : r.state = 4) :
    s.tryGet g i = (s.usePiece (s.core g).part (Scl.dev i.desc)).complete g i.serial := by
  simp [State.tryGet, he, hh, hr, h]

/-- A get of a dropped piece waits for its replay. -/
theorem State.tryGet_dropped (h : r.state = 3) : s.tryGet g i = s.askReplay (s.core g).part g i := by
  simp [State.tryGet, he, hh, hr, h]

/-- A get of an empty or a faulted record is a fault, the Scroll's cause 2. -/
theorem State.tryGet_empty (h : r.state = 0 ∨ r.state = 5) : s.tryGet g i = s.scrollFault g i.serial i.index 2 (Scl.dev i.desc) := by
  rcases h with h | h <;> simp [State.tryGet, he, hh, hr, h]

end

end Sys2Proof.Machine
end

section
/-! Replays of dropped pieces (R189 to R193), and O59. -/

namespace Sys2Proof.Machine

variable {s : State} {g : Nat}

/-! ### What the release of a piece leaves of the cores, the scratchpads and the replays (R172) -/

/-- The cores, the scratchpads, and the replays that every partition's Scroll has in progress, are the same in two states. -/
structure State.KeepsReplays (s t : State) : Prop where
  cores : t.cores = s.cores
  sp : t.mems.sp = s.mems.sp
  replays : ∀ n, (t.scrPart n).replays = (s.scrPart n).replays

namespace State.KeepsReplays

variable {s t u : State}

theorem of_scr (hc : t.cores = s.cores) (hsp : t.mems.sp = s.mems.sp) (h : t.scr = s.scr) : KeepsReplays s t :=
  ⟨hc, hsp, fun n => by rw [State.scrPart, h, State.scrPart]⟩

theorem refl (s : State) : KeepsReplays s s := ⟨rfl, rfl, fun _ => rfl⟩

theorem trans (h : KeepsReplays s t) (k : KeepsReplays t u) : KeepsReplays s u :=
  ⟨k.cores.trans h.cores, k.sp.trans h.sp, fun n => (k.replays n).trans (h.replays n)⟩

theorem ite {p : Prop} [Decidable p] (h : KeepsReplays s t) (k : KeepsReplays s u) : KeepsReplays s (if p then t else u) := by
  split
  · exact h
  · exact k

theorem foldl {β : Type} {f : State → β → State} (h : ∀ s b, KeepsReplays s (f s b)) (l : List β) (s : State) :
    KeepsReplays s (l.foldl f s) :=
  foldl_rel KeepsReplays refl (fun _ _ _ => trans) f h l s

/-- A change of a partition's Scroll in anything but its replays keeps them. -/
theorem modScr (s : State) (n : Nat) (f : ScrPart → ScrPart) (h : ∀ q, (f q).replays = q.replays := by exact fun _ => rfl) :
    KeepsReplays s (s.modScr n f) := by
  refine ⟨rfl, rfl, fun m => ?_⟩
  by_cases hm : m = n
  · rw [hm, State.scrPart_modScr, h]
  · rw [State.scrPart_modScr_ne _ _ hm]

theorem modFrt (s : State) (f : Frt → Frt) : KeepsReplays s (s.modFrt f) := of_scr rfl rfl rfl

theorem modDie (s : State) (d : Nat) (f : Die → Die) : KeepsReplays s (s.modDie d f) := of_scr rfl rfl rfl

theorem noteFault (s : State) (p source a : Nat) (poison : Bool) : KeepsReplays s (s.noteFault p source a poison) :=
  .ite (refl s) (modFrt ..)

theorem noteBad {α : Type} (s : State) (p source : Nat) (r : Acc α) : KeepsReplays s (s.noteBad p source r) := by
  unfold State.noteBad
  split
  · exact noteFault ..
  · exact refl s

theorem hubWrite (s : State) (p source : Nat) (who : Who) (a : Nat) (bs : List Byte) :
    KeepsReplays s (s.hubWrite p source who a bs) := by
  refine of_scr (s.cores_hubWrite ..) (s.sp_hubWrite ..) ?_
  unfold State.hubWrite
  split
  · next t h =>
    have hst : t = { s with mems := t.mems, frt := t.frt } := State.devWrite_sameBut h
    rw [hst]
  · unfold State.noteFault
    split <;> rfl
  · rfl

theorem putPiece (s : State) (n a : Nat) (r : Piece) : KeepsReplays s (s.putPiece n a r) := hubWrite ..

theorem setEntry (s : State) (x e : Nat) : KeepsReplays s (s.setEntry x e) := by
  simp only [State.setEntry]
  exact .ite (modFrt ..) (.trans (.trans (modFrt ..) (modFrt ..)) (foldl (fun s d => modDie s d _) _ _))

/-! #### Frames and pages -/

theorem freeEntryFrame (s : State) (e : Nat) : KeepsReplays s (s.freeEntryFrame e) := by
  refine .ite ?_ (.ite (modFrt ..) (refl s))
  exact .ite (.trans (modFrt ..) (modFrt ..)) (refl s)

theorem scrFreeFrame (s : State) (n e : Nat) : KeepsReplays s (s.scrFreeFrame n e) :=
  .ite (.ite (refl s) (modScr ..)) (freeEntryFrame s e)

theorem scrLevel (s : State) (n : Nat) : KeepsReplays s (s.scrLevel n) := modScr ..

theorem closeEmpty (s : State) (n x : Nat) : KeepsReplays s (s.closeEmpty n x) := by
  simp only [State.closeEmpty]
  split
  · exact refl s
  · refine .ite (refl s) ?_
    refine .trans ?_ (scrLevel ..)
    refine .trans ?_ (modScr ..)
    refine .trans ?_ (setEntry ..)
    refine .trans ?_ (scrFreeFrame ..)
    exact .trans (foldl (fun s m => scrFreeFrame ..) _ s) (modFrt ..)

theorem freeBytes (s : State) (n a : Nat) (r : Piece) (demoted : Bool) : KeepsReplays s (s.freeBytes n a r demoted) :=
  .trans (modScr ..) (closeEmpty ..)

/-! #### Release -/

theorem sweepChain (s : State) (n a : Nat) : KeepsReplays s (s.sweepChain n a) := by
  refine foldl (fun s j => .ite (refl s) ?_) _ s
  split
  · dsimp only
    split
    · exact noteBad ..
    · exact noteBad ..
    · exact .trans (noteBad ..) (freeBytes ..)
  · exact noteBad ..

theorem releaseSegPin (s : State) (n seg : Nat) : KeepsReplays s (s.releaseSegPin n seg) := of_scr rfl rfl rfl

theorem countPiece (s : State) (n seg : Nat) (up : Bool) : KeepsReplays s (s.countPiece n seg up) := by
  unfold State.countPiece
  split
  · exact refl s
  · exact .trans (hubWrite ..) (.ite (releaseSegPin ..) (refl _))

theorem releasePiece (s : State) (n a : Nat) : KeepsReplays s (s.releasePiece n a) := by
  refine .trans (modScr s n fun q => { q with pieces := q.pieces.filter (·.1 != a) }) ?_
  unfold State.releasePiece
  generalize s.modScr n _ = s
  dsimp only
  split
  · next r _ =>
    have hcount (s : State) : KeepsReplays s (if r.names then s.countPiece n r.seg false else s) := .ite (countPiece ..) (refl s)
    exact (putPiece ..).trans ((hcount _).trans (.ite (refl _) (.ite (sweepChain ..) (freeBytes ..))))
  · exact (noteFault ..).trans (foldl (fun s x => freeBytes ..) _ _)
  · exact refl s

/-- A get's use of a piece, which may release it, keeps the cores, the scratchpads and the replays. -/
theorem usePiece (s : State) (n a : Nat) : KeepsReplays s (s.usePiece n a) := by
  unfold State.usePiece
  split
  · exact .ite (refl s) (.ite (.trans (putPiece ..) (releasePiece ..)) (putPiece ..))
  · exact refl s

end State.KeepsReplays

/-! ### REPLAY_ENTRY (R190 to R193) -/

theorem State.waitedCycles_frame (s : State) (g : Nat) :
    s.waitedCycles g = { s with cores := (s.waitedCycles g).cores, fresh := (s.waitedCycles g).fresh } := by
  unfold State.waitedCycles
  split <;> rfl

/-- A helper that a replay leaves stands as it did before. -/
theorem State.core_leaveHelper (t : State) (k0 : Core) : let k := (t.leaveHelper g k0).core g
    k.part = k0.part ∧ k.slotOpen = k0.slotOpen ∧ k.tiles = k0.tiles := by
  simp [State.leaveHelper]

theorem State.mems_leaveHelper (t : State) (k0 : Core) : (t.leaveHelper g k0).mems = t.mems := by
  rw [State.leaveHelper, State.modCore_mems, State.waitedCycles_frame]

/-- A partition's Scroll has no replay of a get that is over. -/
theorem State.not_replaying_endReplay (t : State) (n h serial : Nat) :
    ∀ q ∈ ((t.endReplay n h serial).scrPart n).replays, ¬(q.requester = h ∧ q.serial = serial) := by
  intro q hq ⟨hr, hs⟩
  rw [State.endReplay, State.scrPart_modScr] at hq
  simp [hr, hs] at hq

/-- The state in which a replay that helper `g` has run for `r` has been counted, and is over. -/
def State.replayCounted (t : State) (n g : Nat) (k0 : Core) (r : ReplayRun) : State :=
  ((t.leaveHelper g k0).endReplay n r.requester r.serial).modScr n fun q => { q with
    replayCnt := wrapAdd 32 q.replayCnt 1
    selfHelped := if g = r.requester then satAdd 16 q.selfHelped 1 else q.selfHelped }

/-- The state in which the piece of a replay stands in its requester's scratchpad, at byte `o`, and has been used. -/
def State.replayDelivered (t : State) (n g : Nat) (k0 : Core) (r : ReplayRun) (o : Nat) (v : List Byte) : State :=
  ((t.replayCounted n g k0 r).spWrite r.requester o v).usePiece n r.record

theorem State.replayDelivered_facts (t : State) (n : Nat) (k0 : Core) (r : ReplayRun) (o : Nat) (v : List Byte) :
    let w := t.replayDelivered n g k0 r o v
    w.mems.sp = (t.spWrite r.requester o v).mems.sp ∧ (w.core g).part = k0.part ∧ (w.core g).slotOpen = k0.slotOpen
      ∧ (w.core g).tiles = k0.tiles ∧ ∀ q ∈ (w.scrPart n).replays, ¬(q.requester = r.requester ∧ q.serial = r.serial) := by
  have hmems : (t.replayCounted n g k0 r).mems = t.mems := t.mems_leaveHelper k0
  obtain ⟨hpart, hslot, htiles⟩ := t.core_leaveHelper (g := g) k0
  obtain ⟨hcores, hsp, hreplays⟩ :=
    State.KeepsReplays.usePiece ((t.replayCounted n g k0 r).spWrite r.requester o v) n r.record
  have hcore : (t.replayDelivered n g k0 r o v).core g = (t.leaveHelper g k0).core g := State.core_of_cores hcores g
  have hover : (((t.replayCounted n g k0 r).spWrite r.requester o v).scrPart n).replays
      = (((t.leaveHelper g k0).endReplay n r.requester r.serial).scrPart n).replays := by
    change ((t.replayCounted n g k0 r).scrPart n).replays = _
    rw [State.replayCounted, State.scrPart_modScr]
  refine ⟨?_, by rw [hcore, hpart], by rw [hcore, hslot], by rw [hcore, htiles], ?_⟩
  · refine hsp.trans ?_
    simp only [State.spWrite, State.modMems, hmems]
  · rw [State.replayDelivered, hreplays n, hover]
    exact State.not_replaying_endReplay _ n _ _

/-- Helper `g` may run, for a get of context `c`, entry `j` of its core, the replay `r` of partition `n`: it is the first that waits
for this helper, whose units are free and whose replay area holds no other context's data (R190, R309). -/
structure State.ReplayReady (s : State) (g n : Nat) (r : ReplayRun) (x : Ctx) (c : Nat) (j : Issued) : Prop where
  on : s.dieOff (dieOf g) = false
  first : (s.scr.parts.findSome? fun e => (e.2.replays.find? (·.helper == some g)).map fun r => (e.1, r)) = some (n, r)
  get : (s.core r.requester).issued.find? (fun i => i.serial == r.serial && i.work == .scroll .replay) = some j
  running : (s.core r.requester).ctx = some c
  ctx : s.ctx n c = some x
  tiles : (s.core g).tiles = []
  updating : (s.core g).updating = false
  gatherOpen : (s.core g).gatherOpen = []
  gatherWait : (s.core g).gatherWait = []
  area : s.unitsAway n c g x.replayBase x.replayUnits = false

/-- How a replay that helper `g` has entered ends, for its requester and for the helper (R190 to R193). -/
def State.replayEnds (s : State) (g n : Nat) (r : ReplayRun) (j : Issued) : Replayed → State
  | .wait => s
  | .go t => ((t.leaveHelper g (s.core g)).replayFails n r j.index false {}).settle g
  | .fail t f => ((t.leaveHelper g (s.core g)).replayFails n r j.index false f).settle g
  | .deliver t v =>
    if 2 ^ 22 < 64 * Scl.sp j.desc + v.length then (t.replayCounted n g (s.core g) r).leaveFault r.requester j 3
    else ((t.replayDelivered n g (s.core g) r (64 * Scl.sp j.desc) v).complete r.requester r.serial).settle g

/-- A replay that may run is run on its helper, beside what that core has issued, and ends. -/
theorem State.exec_replayEntry {n : Nat} {r : ReplayRun} {x : Ctx} {c : Nat} {j : Issued} (h : s.ReplayReady g n r x c j) :
    exec (.replayEntry ⟨g, .none⟩) s = .next (s.replayEnds g n r j
      ((s.modCore g fun k => { k with part := n, issued := [] }).replay n g r.requester r.record x)) := by
  obtain ⟨hoff, hfirst, hget, hctx, hx, htiles, hu, ho, hw, ha⟩ := h
  change execReplayEntry ⟨g, .none⟩ s = _
  simp only [execReplayEntry, hoff, hfirst, hget, hctx, Option.bind_some, hx, htiles, hu, ho, hw, Option.any_some, ha,
    State.readMet, List.isEmpty_nil, Bool.not_true, Bool.or_self, Bool.false_eq_true, if_false]
  cases (s.modCore g fun k => { k with part := n, issued := [] }).replay n g r.requester r.record x with
  | deliver t v => exact (apply_ite Host.Outcome.next ..).symm
  | _ => rfl

/-! ### SCROLL_PUT_CONTINUE, and the statement -/

/-- A directive that waits for anything but a replay is tried again. -/
theorem State.exec_scrollPutContinue {j : Nat} {x : Issued} {ph : ScrollPhase} (hoff : s.dieOff (dieOf g) = false)
    (hfind : (s.core g).issued.find? (·.serial == j) = some x) (hw : x.work = .scroll ph) (hph : ph ≠ .replay) :
    exec (.scrollPutContinue g j) s = .next (((s.tryScroll g x).settleRefs (clusterOf g)).settleBridges) := by
  change execScrollPutContinue g j s = _
  simp only [execScrollPutContinue, hoff, hfind, hw, Bool.false_eq_true, if_false]
  cases ph with
  | replay => exact absurd rfl hph
  | _ => rfl

/-- Settles O59: a SCROLL that passes its checks is issued and tried, and each outcome of a try is the state that its lemma gives; a
directive that waits is tried by the same attempt; a replay fails, waits or delivers as its lemma says. -/
theorem scrollDirectives : Obligations.ScrollDirectives := by
  intro s g d0 k d a i
  refine ⟨fun hs hf hn hl ht hsp hp => ?_, fun j x ph hoff hfind hw hph => State.exec_scrollPutContinue hoff hfind hw hph,
    fun n r x c j hoff hfirst hget hctx hx htiles hu ho hw ha => ?_⟩
  · intro u
    have hpass : s.ScrollPasses g d := ⟨hf, hn, hl, ht, hsp, hp⟩
    have henable : u.scr.enable = s.scr.enable := by rw [State.scr_scrollIssued]
    have hpart : (u.core g).part = k.part := s.part_core_scrollIssued g d
    refine ⟨fun hissues hget => ?_, fun hissues hget => ?_⟩
    · have htry : u.tryScroll g i = u.tryPut g i := if_neg (by rw [hget]; exact Bool.false_ne_true)
      have hexec : exec (.scrollPut g .none) s = .next ((u.tryPut g i).settleRefs (clusterOf g)) :=
        htry ▸ State.exec_scrollPut hs rfl hpass hissues
      refine ⟨hexec, fun c x old hc hx hr hlive hw hh => ?_⟩
      have hready : u.PutReady g c x (Scl.dev i.desc) old := .of_scrollIssued hc hx hr hlive hw hh
      refine ⟨fun he => ?_, fun he hd => ?_, fun he hd => ?_⟩
      · rw [hexec, State.tryPut_disabled hready rfl (henable.trans he), hpart]
      · rw [hexec, State.tryPut_keep hready (henable.trans he) hd, hpart]
      · rw [hexec, State.tryPut_drop hready (henable.trans he) hd, hpart]
    · have htry : u.tryScroll g i = u.tryGet g i := if_pos hget
      have hexec : exec (.scrollGet g .none) s = .next ((u.tryGet g i).settleRefs (clusterOf g)) :=
        htry ▸ State.exec_scrollGet hs rfl hpass hissues
      refine ⟨hexec, fun r he hh hr => ?_⟩
      have he' : u.scr.enable = true := henable.trans he
      have hr' : u.readPiece (u.core g).part (Scl.dev i.desc) = .ok r := by rw [hpart]; exact hr
      refine ⟨fun h => ?_, fun h => ?_, fun h => ?_, fun h => ?_⟩
      · rw [hexec, State.tryGet_putOf (i := i) he' hh hr' h]
      · rw [hexec, State.tryGet_kept (i := i) he' hh hr' h, hpart]
      · rw [hexec, State.tryGet_dropped (i := i) he' hh hr' h, hpart]
      · rw [hexec, State.tryGet_empty (i := i) he' hh hr' h]
  · have hready : s.ReplayReady g n r x c j := ⟨hoff, hfirst, hget, hctx, hx, htiles, hu, ho, hw, ha⟩
    have hexec := State.exec_replayEntry hready
    refine ⟨fun t f hr => by rw [hexec, hr]; rfl, fun hr => by rw [hexec, hr]; rfl, fun t v hr hv => ?_⟩
    obtain ⟨hmem, hpart, hslot, hno, hover⟩ := t.replayDelivered_facts (g := g) n (s.core g) r (64 * Scl.sp j.desc) v
    refine ⟨_, ?_, hmem, hpart, hslot, hno.trans htiles, hover⟩
    rw [hexec, hr, State.replayEnds, if_neg (Nat.not_lt.2 hv)]

end Sys2Proof.Machine
end

section
/-! Entries of the Fretboard (R222 to R226, R232): their fields, and what a change of one entry, and of the frames that pools hold,
leave as it was. -/

namespace Sys2Proof.Machine

variable {s t u : State}

/-! ### Fields of an entry (R222 to R224) -/

section
variable {tier state part share version fmt frame : Nat} (ht : tier < 8) (hs : state < 4) (hp : part < 16) (hh : share < 64)
  (hv : version < 16) (hf : fmt < 16) (pinned cow compressed : Bool)
include ht hs hp hh hv hf

/-- An entry reads as the fields of which it was made, but for the frame's, which it holds cut to 36 bits. -/
theorem mkEntry_fields : let e := mkEntry tier state part share version fmt pinned cow compressed frame
    eValid e = true ∧ eTier e = tier ∧ eState e = state ∧ ePart e = part ∧ eFrame e = frame % 2 ^ 36 := by
  have hof (b : Bool) : ofBool b ≤ 1 := by cases b <;> decide
  have h1 := hof pinned
  have h2 := hof cow
  have h3 := hof compressed
  simp only [mkEntry, eValid, eTier, eState, ePart, eFrame, bit, field, beq_iff_eq]
  generalize ofBool pinned = a at *
  generalize ofBool cow = b at *
  generalize ofBool compressed = c at *
  refine ⟨?_, ?_, ?_, ?_, ?_⟩ <;> omega

end

/-- A change of an entry's state changes no other field that an access looks at. -/
theorem setState_fields (e v : Nat) : let e' := setField e 59 58 v
    eValid e' = eValid e ∧ eTier e' = eTier e ∧ eState e' = v % 4 ∧ eFrame e' = eFrame e := by
  simp only [setField, eValid, eTier, eState, eFrame, bit, field]
  refine ⟨congrArg (· == 1) ?_, ?_, ?_, ?_⟩ <;> omega

theorem ePart_lt (e : Nat) : ePart e < 16 := Nat.mod_lt _ (by decide)
theorem eShare_lt (e : Nat) : eShare e < 64 := Nat.mod_lt _ (by decide)
theorem eVersion_lt (e : Nat) : eVersion e < 16 := Nat.mod_lt _ (by decide)

/-! ### The entries, the moves, the waiting writes and the memories -/

/-- Two states have the same entries, page moves, waiting writes, count of poisoned pages, and memories. -/
structure State.KeepsEntries (s t : State) : Prop where
  entry : t.frt.entry = s.frt.entry
  moves : t.frt.moves = s.frt.moves
  late : t.frt.late = s.frt.late
  poisonPages : t.frt.poisonPages = s.frt.poisonPages
  mems : t.mems = s.mems

namespace State.KeepsEntries

theorem refl (s : State) : KeepsEntries s s := ⟨rfl, rfl, rfl, rfl, rfl⟩

theorem trans (h : KeepsEntries s t) (k : KeepsEntries t u) : KeepsEntries s u :=
  ⟨k.entry.trans h.entry, k.moves.trans h.moves, k.late.trans h.late, k.poisonPages.trans h.poisonPages, k.mems.trans h.mems⟩

theorem ite {p : Prop} [Decidable p] (h : KeepsEntries s t) (k : KeepsEntries s u) : KeepsEntries s (if p then t else u) := by
  split
  · exact h
  · exact k

theorem entry_eq (h : KeepsEntries s t) (x : Nat) : t.entry x = s.entry x := by
  rw [State.entry, h.entry, State.entry]

theorem modScr (s : State) (n : Nat) (f : ScrPart → ScrPart) : KeepsEntries s (s.modScr n f) := ⟨rfl, rfl, rfl, rfl, rfl⟩

theorem modPool (s : State) (i : Nat) (f : Pool → Pool) : KeepsEntries s (s.modPool i f) := ⟨rfl, rfl, rfl, rfl, rfl⟩

theorem retireFrame (s : State) (tier frame : Nat) : KeepsEntries s (s.retireFrame tier frame) :=
  .ite ⟨rfl, rfl, rfl, rfl, rfl⟩ (refl s)

theorem freeEntryFrame (s : State) (e : Nat) : KeepsEntries s (s.freeEntryFrame e) :=
  .ite (retireFrame ..) (.ite (modPool ..) (refl s))

theorem scrFreeFrame (s : State) (n e : Nat) : KeepsEntries s (s.scrFreeFrame n e) :=
  .ite (.ite (refl s) (modScr ..)) (freeEntryFrame ..)

/-- Without writes that wait, a move's end has none to let go on. -/
theorem flushLate (h : s.frt.late = []) : KeepsEntries s s.flushLate := by
  rw [State.flushLate, h]
  exact ⟨rfl, rfl, h.symm, rfl, rfl⟩

theorem flushed (h : KeepsEntries s t) (hl : s.frt.late = []) : KeepsEntries s t.flushLate :=
  h.trans (.flushLate (h.late.trans hl))

end State.KeepsEntries

/-! ### A change of an entry (R230, R232) -/

/-- Two states differ in one entry of the Fretboard, which is `e` in the second, and have the same moves, waiting writes, count of
poisoned pages, and memories. -/
structure State.SetsEntry (s : State) (x e : Nat) (t : State) : Prop where
  entry : t.entry x = e
  moves : t.frt.moves = s.frt.moves
  late : t.frt.late = s.frt.late
  poisonPages : t.frt.poisonPages = s.frt.poisonPages
  mems : t.mems = s.mems

/-- An invalidation counted on each of some dies changes neither the Fretboard nor the memories. -/
theorem State.foldl_modDie (f : Die → Die) (l : List Nat) (s : State) : let t := l.foldl (fun s d => s.modDie d f) s
    t.frt = s.frt ∧ t.mems = s.mems :=
  foldl_rel (fun s t : State => t.frt = s.frt ∧ t.mems = s.mems) (fun _ => ⟨rfl, rfl⟩)
    (fun _ _ _ h k => ⟨k.1.trans h.1, k.2.trans h.2⟩) (fun s d => s.modDie d f) (fun _ _ => ⟨rfl, rfl⟩) l s

/-- A change of an entry. -/
theorem State.setsEntry (s : State) (x e : Nat) : s.SetsEntry x e (s.setEntry x e) := by
  simp only [State.setEntry]
  split
  · exact ⟨Tab.get_set_same .., rfl, rfl, rfl, rfl⟩
  · obtain ⟨hfrt, hmems⟩ := State.foldl_modDie (fun y => { y with dtcInval := min (255 * 1024) (y.dtcInval + 1) }) (List.range 4)
      ((s.modFrt fun f => { f with entry := Tab.set 0 f.entry x e }).modFrt fun f => f.invalidate x)
    refine ⟨?_, by rw [hfrt]; rfl, by rw [hfrt]; rfl, by rw [hfrt]; rfl, hmems⟩
    rw [State.entry, hfrt]
    exact Tab.get_set_same ..

/-- Two states differ in one entry of the Fretboard, which is `e` in the second, and in the count of poisoned pages, which is one more
there, and have the same moves, waiting writes and memories. -/
structure State.PoisonsEntry (s : State) (x e : Nat) (t : State) : Prop where
  entry : t.entry x = e
  moves : t.frt.moves = s.frt.moves
  late : t.frt.late = s.frt.late
  poisonPages : t.frt.poisonPages = wrapAdd 32 s.frt.poisonPages 1
  mems : t.mems = s.mems

theorem State.SetsEntry.countPoison {x e : Nat} (h : s.SetsEntry x e t) :
    s.PoisonsEntry x e (t.modFrt fun f => { f with poisonPages := wrapAdd 32 f.poisonPages 1 }) := by
  obtain ⟨hentry, hmoves, hlate, hcount, hmems⟩ := h
  refine ⟨hentry, hmoves, hlate, ?_, hmems⟩
  rw [← hcount]
  rfl

/-- A valid page that is not in state 11 enters it, and is counted. -/
theorem State.poisonsEntry {x e : Nat} (he : s.entry x = e) (hv : eValid e = true) (hs : eState e ≠ 3) :
    s.PoisonsEntry x (setField e 59 58 3) (s.poisonPage x) := by
  have heq : s.poisonPage x
      = (s.setEntry x (setField e 59 58 3)).modFrt fun f => { f with poisonPages := wrapAdd 32 f.poisonPages 1 } := by
    subst he
    exact if_pos (by simpa [hv] using hs)
  rw [heq]
  exact (s.setsEntry x _).countPoison

/-! ### Bytes of a frame -/

@[simp] theorem Mems.length_readLoc (m : Mems) (l : Loc) (n : Nat) : (m.readLoc l n).length = n := by
  cases l with
  | none => exact List.length_replicate
  | _ => exact Mem.length_readFrom ..

/-- What has been written at a location of device memory is read back. -/
theorem State.readLoc_writeLoc (h : s.memsWf) {l : Loc} (hl : l ≠ .none) (bs : List Byte) :
    (s.mems.writeLoc l bs).readLoc l bs.length = bs := by
  obtain ⟨-, -, -, -, hhbm, hlp, hhost, -⟩ := h
  cases l with
  | hbm a => exact Mem.read_write a bs hhbm
  | lp a => exact Mem.read_write a bs hlp
  | host a => exact Mem.read_write a bs hhost
  | none => exact absurd rfl hl

/-- Every frame of a tier of R224 has a place. -/
theorem locate_ne_none {tier : Nat} (h : tier ≤ 5) (frame o : Nat) : locate tier frame o ≠ .none := by
  have : tier < 4 ∨ tier = 4 ∨ tier = 5 := by omega
  rcases this with h | rfl | rfl
  · simp [locate, h]
  · simp [locate]
  · simp [locate]

end Sys2Proof.Machine
end

section
/-! The directory's own moves (R183 to R185, R229, R231), and O60. -/

namespace Sys2Proof.Machine

variable {s t : State} {n : Nat}

/-! ### The choice of a page (R183, R185) -/

/-- A fold that keeps the entry with the best key, and the first of those with an equal one, finds an entry such that none has a
better key. -/
theorem foldl_best {α : Type} {key : α → Nat} {better : Nat → Nat → Prop} [DecidableRel better]
    (hasymm : ∀ u v, better u v → ¬ better v u) (hneg : ∀ u v w, ¬ better u v → ¬ better v w → ¬ better u w)
    {f : Option (Nat × α) → α → Option (Nat × α)} (hnone : ∀ p, f none p = some (key p, p))
    (hsome : ∀ v q p, f (some (v, q)) p = if better (key p) v then some (key p, p) else some (v, q)) {l : List α} (hl : l ≠ [])
    {r : Option (Nat × α)} (hr : l.foldl f none = r) : ∃ p ∈ l, r = some (key p, p) ∧ ∀ y ∈ l, ¬ better (key y) (key p) := by
  subst hr
  obtain ⟨q, l, rfl⟩ := List.exists_cons_of_ne_nil hl
  clear hl
  rw [List.foldl_cons, hnone]
  induction l generalizing q with
  | nil => exact ⟨q, by simp, rfl, by simpa using fun h => hasymm _ _ h h⟩
  | cons a l ih =>
    rw [List.foldl_cons, hsome]
    split
    · next hb =>
      obtain ⟨p, hp, heq, hbest⟩ := ih a
      have hq : ¬ better (key q) (key p) := hneg _ _ _ (hasymm _ _ hb) (hbest a List.mem_cons_self)
      exact ⟨p, List.mem_cons_of_mem q hp, heq, List.forall_mem_cons.2 ⟨hq, hbest⟩⟩
    · next hb =>
      obtain ⟨p, hp, heq, hbest⟩ := ih q
      obtain ⟨hq, hrest⟩ := List.forall_mem_cons.1 hbest
      refine ⟨p, ?_, heq, List.forall_mem_cons.2 ⟨hq, List.forall_mem_cons.2 ⟨hneg _ _ _ hb hq, hrest⟩⟩⟩
      exact (List.mem_cons.1 hp).elim (fun h => h ▸ List.mem_cons_self) fun h => List.mem_cons_of_mem _ (List.mem_cons_of_mem _ h)

/-- Refused reads of records change neither the part nor what the pools hold (R229). -/
theorem State.notePieces_frame (s : State) (n : Nat) (as : List Nat) :
    (s.notePieces n as).partCode = s.partCode ∧ (s.notePieces n as).frt.pools = s.frt.pools := by
  refine foldl_rel (fun s t : State => t.partCode = s.partCode ∧ t.frt.pools = s.frt.pools) (fun _ => ⟨rfl, rfl⟩)
    (fun _ _ _ h k => ⟨k.1.trans h.1, k.2.trans h.2⟩) _ (fun s a => ?_) as s
  unfold State.noteBad
  split
  · unfold State.noteFault
    split <;> exact ⟨rfl, rfl⟩
  · exact ⟨rfl, rfl⟩

theorem State.secondTier_notePieces (s : State) (n : Nat) (as : List Nat) : (s.notePieces n as).secondTier = s.secondTier := by
  rw [State.secondTier, (s.notePieces_frame n as).1, State.secondTier]

theorem State.tierFree_notePieces (s : State) (n : Nat) (as : List Nat) (t : Nat) :
    (s.notePieces n as).tierFree t = s.tierFree t := by
  simp only [State.tierFree, State.pool, (s.notePieces_frame n as).2]

theorem State.freestDie_notePieces (s : State) (n : Nat) (as : List Nat) : (s.notePieces n as).freestDie = s.freestDie := by
  simp only [State.freestDie, State.tierFree_notePieces]

/-! ### SCROLL_MIGRATE, SCROLL_PROMOTE and SCROLL_DEMOTE -/

/-- The largest next_use of a page's pieces. -/
abbrev State.lastUse (s : State) (n : Nat) (p : ScrPage) : Nat := (s.nextUses n p).foldl max 0

/-- The smallest next_use of a page's pieces. -/
abbrev State.firstUse (s : State) (n : Nat) (p : ScrPage) : Nat := (s.nextUses n p).foldl min (2 ^ 32)

/-- The die that a promotion of a page goes to (log 79). -/
abbrev State.promoteDie (s : State) (p : ScrPage) : Nat := if s.tierFree (p.cluster / 8) = 0 then s.freestDie else p.cluster / 8

section
variable (hoff : s.off = false)
include hoff

/-- At another level than 1 no page leaves HBM3E. -/
theorem State.exec_scrollMigrate_level (h : (s.scrPart n).level ≠ 1) : exec (.scrollMigrate n) s = .next s := by
  change execScrollMigrate n s = _
  simp [execScrollMigrate, hoff, h]

/-- Without promote_en no page comes back to HBM3E. -/
theorem State.exec_scrollPromote_disabled (h : s.scr.promote = false) : exec (.scrollPromote n) s = .next s := by
  change execScrollPromote n s = _
  simp [execScrollPromote, hoff, h]

section
variable (hl : (s.scrPart n).level = 1)
  (ho : (s.scrPart n).hbmLow * (s.scrPart n).quotaHbm < 256 * ((s.scrPart n).hbmPages - s.leaving n true)) {ps : List ScrPage}
  (hps : ((s.scrPart n).pages.filter fun p => decide (p.tier < 4) && s.movable p) = ps)
include hl ho hps

theorem State.exec_scrollMigrate_none (h : ps = []) : exec (.scrollMigrate n) s = .next s := by
  subst h
  change execScrollMigrate n s = _
  simp only [execScrollMigrate, hoff, hl, Nat.not_le.2 ho, hps, bne_self_eq_false, decide_false, Bool.or_self, Bool.false_eq_true,
    if_false]
  rfl

/-- At level 1 a page of the largest next_use leaves HBM3E (R183). -/
theorem State.exec_scrollMigrate (h : ps ≠ []) : ∃ p ∈ ps, exec (.scrollMigrate n) s
    = .next ((s.notePieces n (ps.flatMap (·.pieces))).beginMove n p.page s.secondTier) ∧ ∀ y ∈ ps, s.lastUse n y ≤ s.lastUse n p := by
  change ∃ p ∈ ps, execScrollMigrate n s = _ ∧ _
  simp only [execScrollMigrate, hoff, hl, Nat.not_le.2 ho, hps, bne_self_eq_false, decide_false, Bool.or_self, Bool.false_eq_true,
    if_false, State.secondTier_notePieces]
  generalize hr : List.foldl _ none ps = r
  obtain ⟨p, hp, rfl, hbest⟩ := foldl_best (key := s.lastUse n) (better := (· > ·)) (fun _ _ => Nat.lt_asymm)
    (fun u v w h k => by omega) (fun _ => rfl) (fun _ _ _ => rfl) h hr
  exact ⟨p, hp, rfl, fun y hy => Nat.not_lt.1 (hbest y hy)⟩

end

/-- With promote_en, at level 0, a page of the smallest next_use comes back to HBM3E (R185). -/
theorem State.exec_scrollPromote (he : s.scr.promote = true) (hl : (s.scrPart n).level = 0)
    (hu : 256 * ((s.scrPart n).hbmPages + s.leaving n false) < (s.scrPart n).hbmLow * (s.scrPart n).quotaHbm) {ps : List ScrPage}
    (hps : ((s.scrPart n).pages.filter fun p => decide (4 ≤ p.tier) && s.movable p) = ps) (h : ps ≠ []) :
    ∃ p ∈ ps, exec (.scrollPromote n) s = .next ((s.notePieces n (ps.flatMap (·.pieces))).beginMove n p.page (s.promoteDie p))
      ∧ ∀ y ∈ ps, s.firstUse n p ≤ s.firstUse n y := by
  change ∃ p ∈ ps, execScrollPromote n s = _ ∧ _
  simp only [execScrollPromote, hoff, he, hl, Nat.not_le.2 hu, hps, bne_self_eq_false, decide_false, Bool.or_self, Bool.not_true,
    Bool.false_eq_true, if_false, State.tierFree_notePieces, State.freestDie_notePieces]
  generalize hr : List.foldl _ none ps = r
  obtain ⟨p, hp, rfl, hbest⟩ := foldl_best (key := s.firstUse n) (better := (· < ·)) (fun _ _ => Nat.lt_asymm)
    (fun u v w h k => by omega) (fun _ => rfl) (fun _ _ _ => rfl) h hr
  exact ⟨p, hp, rfl, fun y hy => Nat.not_lt.1 (hbest y hy)⟩

/-- At level 2, beyond the low watermark of the second tier, or of HBM3E where the second tier has no quota, a piece is demoted (R183,
log 73). -/
theorem State.exec_scrollDemote (hl : (s.scrPart n).level = 2)
    (hhbm : (s.scrPart n).quotaSec = 0 → (s.scrPart n).hbmLow * (s.scrPart n).quotaHbm < 256 * (s.scrPart n).hbmPages)
    (hsec : (s.scrPart n).quotaSec ≠ 0 → (s.scrPart n).secLow * (s.scrPart n).quotaSec < 256 * (s.scrPart n).secPages)
    {a : Nat} {r : Piece} (hnext : s.nextDemotion n = some (a, r)) :
    exec (.scrollDemote n) s = .next ((s.notePieces n ((s.scrPart n).pieces.map (·.1))).demote n a r) := by
  change execScrollDemote n s = _
  by_cases hq : (s.scrPart n).quotaSec = 0
  · simp [execScrollDemote, hoff, hl, hq, hhbm hq, hnext]
  · simp [execScrollDemote, hoff, hl, hq, hsec hq, hnext]

end

/-! ### A move begins (R231) -/

/-- The frame that the Scroll takes for a page leaves every memory. -/
theorem State.scrFrame_mems {tier f : Nat} (h : s.scrFrame n tier = some (f, t)) : t.mems = s.mems := by
  unfold State.scrFrame at h
  split at h
  · unfold State.takeFrame at h
    split at h
    · cases h
    · cases h
      rfl
  · split at h
    · cases h
      rfl
    · split at h
      · cases h
      · next x _ =>
        cases h
        exact (s.setsEntry x 0).mems

/-- A move is listed. -/
theorem State.SetsEntry.listMove {x e : Nat} (h : s.SetsEntry x e t) (f : ScrPart → ScrPart) (m : PageMove) :
    let u := (t.modScr n f).modFrt fun r => { r with moves := r.moves ++ [m] }
    u.entry x = e ∧ u.frt.moves = s.frt.moves ++ [m] ∧ u.mems = s.mems :=
  ⟨h.entry, congrArg (· ++ [m]) h.moves, h.mems⟩

/-- A move begins: the page keeps its source frame, in state 01, and the move is listed with the frame that it has taken. -/
theorem State.beginMove_facts {x tier f : Nat} (hq : s.quotaRoom n tier = true) (hf : s.scrFrame n tier = some (f, t)) :
    let u := s.beginMove n x tier
    eState (u.entry x) = 1 ∧ eFrame (u.entry x) = eFrame (t.entry x)
      ∧ u.frt.moves = t.frt.moves ++ [({ page := x, tier := tier, frame := f } : PageMove)] ∧ u.mems = s.mems := by
  obtain ⟨-, -, hstate, hframe⟩ := setState_fields (t.entry x) 1
  simp only [State.beginMove, hq, hf, Bool.not_true, Bool.false_eq_true, if_false]
  obtain ⟨hentry, hmoves, hmems⟩ := (t.setsEntry x (setField (t.entry x) 59 58 1)).listMove (n := n)
    (fun q => { q with pages := q.pages.map fun p => if p.page = x then { p with open_ := false } else p })
    { page := x, tier := tier, frame := f }
  exact ⟨by rw [hentry, hstate], by rw [hentry, hframe], hmoves, hmems.trans (State.scrFrame_mems hf)⟩

/-! ### A move ends (R231, R232) -/

/-- A fold over no entries does nothing. Unlike `List.foldl_nil` this is a rewriting step, where the kernel need not unfold the start of
the fold. -/
theorem foldl_of_eq_nil {α β : Type} {l : List β} (h : l = []) (f : α → β → α) (a : α) : l.foldl f a = a := by
  subst h
  rfl

/-- The move of page `x` to the frame of `m` may end now: the frame lies in a tier of R224, the page is neither in state 11 nor about
to enter it, no host has to answer, and the pool of the frame is live; the page holds no piece, and no write waits. -/
structure State.MoveReady (s : State) (x : Nat) (m : PageMove) : Prop where
  on : s.off = false
  found : s.frt.moves.find? (·.page == x) = some m
  valid : eValid (s.entry x) = true
  toTier : m.tier ≤ 5
  noneLate : s.frt.late = []
  unpoisoned : s.pagePoisoned x = false
  answered : s.frt.silent = false ∨ (eTier (s.entry x) ≠ 5 ∧ m.tier ≠ 5)
  live : m.tier ≤ 4 → (s.pool (poolOf m.tier m.frame)).live = true
  empty : ∀ y, ∀ p ∈ (s.scrPart y).pages, p.page = x → p.pieces = []
  canonical : s.memsWf
  state : eState (s.entry x) ≠ 3

/-- The entry of page `x` in the destination of a move. -/
def State.moveDest (s : State) (x : Nat) (m : PageMove) : Nat :=
  mkEntry m.tier 0 (ePart (s.entry x)) (eShare (s.entry x)) (eVersion (s.entry x)) 0xA (ePinned (s.entry x)) false true m.frame

/-- The state in which no move of page `x` is listed. -/
def State.unlistMove (s : State) (x : Nat) : State := s.modFrt fun f => { f with moves := f.moves.filter (·.page != x) }

/-- The state in which the copy of a move has been made, and the page's entry names the destination. -/
def State.moveCopied (s : State) (x : Nat) (m : PageMove) : State :=
  ((s.unlistMove x).modMems fun q => q.writeLoc (locate m.tier m.frame 0)
    (s.mems.readLoc (locate (eTier (s.entry x)) (eFrame (s.entry x)) 0) pageBytes)).setEntry x (s.moveDest x m)

theorem State.unlistMove_moves (s : State) (x : Nat) : ∀ y ∈ (s.unlistMove x).frt.moves, y.page ≠ x := by
  intro y hy
  simpa using (List.mem_filter.1 hy).2

namespace State.MoveReady

variable {x : Nat} {m : PageMove} (h : s.MoveReady x m)
include h

theorem page : m.page = x := by simpa using List.find?_some h.found

/-- The copy ends as it has ended in the source and in the destination: neither page nor pool makes it fail. -/
theorem moveEnd (result : MoveResult) : s.moveEnd m result = result := by
  have hpool : (decide (m.tier ≤ 4) && !(s.pool (poolOf m.tier m.frame)).live) = false := by
    by_cases ht : m.tier ≤ 4
    · simp [h.live ht]
    · simp [ht]
  simp only [State.moveEnd, h.page, h.unpoisoned, hpool, Bool.or_false, Bool.false_eq_true, if_false]
  cases result <;> rfl

/-- The page has no record that a move would change. -/
theorem records (n : Nat) : ((s.scrPart n).pages.find? (·.page == x)).elim [] (·.pieces) = [] := by
  cases hp : (s.scrPart n).pages.find? (·.page == x) with
  | none => rfl
  | some p => exact h.empty n p (List.mem_of_find?_eq_some hp) (by simpa using List.find?_some hp)

theorem not_away : (s.frt.silent && (eTier (s.entry x) == 5 || m.tier == 5)) = false := by
  rcases h.answered with hs | ⟨h1, h2⟩
  · rw [hs, Bool.false_and]
  · simp [h1, h2]

theorem dest_fields : let e := s.moveDest x m
    eValid e = true ∧ eTier e = m.tier ∧ eState e = 0 ∧ ePart e = ePart (s.entry x) ∧ eFrame e = m.frame % 2 ^ 36 :=
  mkEntry_fields (by have := h.toTier; omega) (by decide) (ePart_lt _) (eShare_lt _) (eVersion_lt _) (by decide) ..

/-- A copy that is done: the page is in its destination. -/
theorem exec_done : ∃ t, exec (.pageMoveComplete x .done) s = .next t ∧ (s.moveCopied x m).KeepsEntries t := by
  have hlate : (s.moveCopied x m).frt.late = [] := (State.setsEntry ..).late.trans h.noneLate
  change ∃ t, execPageMoveComplete x .done s = .next t ∧ _
  simp only [execPageMoveComplete, h.on, h.found, h.records, h.not_away, h.moveEnd, List.any_nil, Bool.or_false, Bool.false_eq_true,
    if_false, foldl_of_eq_nil]
  exact ⟨_, rfl, .flushed (.trans (.scrFreeFrame ..) (.trans (.modScr ..) (.trans (.modScr ..) (.modScr ..)))) hlate⟩

/-- A copy that has failed in its source: the page is in state 11 there. -/
theorem exec_sourceFailed : ∃ t u, exec (.pageMoveComplete x .sourceFailed) s = .next t ∧ (s.unlistMove x).KeepsEntries u
    ∧ (u.poisonPage x).KeepsEntries t := by
  have hfree := KeepsEntries.scrFreeFrame (s.unlistMove x) (ePart (s.entry x)) (s.moveDest x m)
  have hlate : (((s.unlistMove x).scrFreeFrame (ePart (s.entry x)) (s.moveDest x m)).poisonPage x).frt.late = [] :=
    (State.poisonsEntry (hfree.entry_eq x) h.valid h.state).late.trans (hfree.late.trans h.noneLate)
  change ∃ t u, execPageMoveComplete x .sourceFailed s = .next t ∧ _
  simp only [execPageMoveComplete, h.on, h.found, h.records, h.not_away, h.moveEnd, List.any_nil, Bool.or_false, Bool.false_eq_true,
    if_false]
  exact ⟨_, _, rfl, hfree, .flushed (.retireFrame ..) hlate⟩

/-- A copy that has failed in its destination: the page is in state 11 there. -/
theorem exec_destinationFailed : ∃ t u, exec (.pageMoveComplete x .destinationFailed) s = .next t
    ∧ (s.unlistMove x).KeepsEntries u ∧ ((u.setEntry x (s.moveDest x m)).poisonPage x).KeepsEntries t := by
  have hfree := KeepsEntries.scrFreeFrame (s.unlistMove x) (ePart (s.entry x)) (setField (s.entry x) 59 58 0)
  obtain ⟨hvalid, -, hstate, -⟩ := h.dest_fields
  have hset := State.setsEntry ((s.unlistMove x).scrFreeFrame (ePart (s.entry x)) (setField (s.entry x) 59 58 0)) x (s.moveDest x m)
  have hlate : ((((s.unlistMove x).scrFreeFrame (ePart (s.entry x)) (setField (s.entry x) 59 58 0)).setEntry x
      (s.moveDest x m)).poisonPage x).frt.late = [] :=
    (State.poisonsEntry hset.entry hvalid (by rw [hstate]; decide)).late.trans (hset.late.trans (hfree.late.trans h.noneLate))
  change ∃ t u, execPageMoveComplete x .destinationFailed s = .next t ∧ _
  simp only [execPageMoveComplete, h.on, h.found, h.records, h.not_away, h.moveEnd, List.any_nil, Bool.or_false, Bool.false_eq_true,
    if_false]
  exact ⟨_, _, rfl, hfree, .flushed (.trans (.modScr ..) (.modScr ..)) hlate⟩

/-- After a copy that is done the page's entry and its bytes are those of the destination, and no move of it is listed. -/
theorem done_facts : ∃ t, exec (.pageMoveComplete x .done) s = .next t ∧ eState (t.entry x) = 0 ∧ eTier (t.entry x) = m.tier
    ∧ eFrame (t.entry x) = m.frame % 2 ^ 36 ∧ ePart (t.entry x) = ePart (s.entry x)
    ∧ t.mems.readLoc (locate m.tier m.frame 0) pageBytes
      = s.mems.readLoc (locate (eTier (s.entry x)) (eFrame (s.entry x)) 0) pageBytes
    ∧ ∀ y ∈ t.frt.moves, y.page ≠ x := by
  obtain ⟨t, hexec, hkeeps⟩ := h.exec_done
  have hset := State.setsEntry ((s.unlistMove x).modMems fun q => q.writeLoc (locate m.tier m.frame 0)
    (s.mems.readLoc (locate (eTier (s.entry x)) (eFrame (s.entry x)) 0) pageBytes)) x (s.moveDest x m)
  obtain ⟨-, htier, hstate, hpart, hframe⟩ := h.dest_fields
  have hentry : t.entry x = s.moveDest x m := (hkeeps.entry_eq x).trans hset.entry
  refine ⟨t, hexec, by rw [hentry, hstate], by rw [hentry, htier], by rw [hentry, hframe], by rw [hentry, hpart], ?_, ?_⟩
  · have hmems : t.mems = s.mems.writeLoc (locate m.tier m.frame 0) _ := hkeeps.mems.trans hset.mems
    have hread := State.readLoc_writeLoc h.canonical (locate_ne_none h.toTier m.frame 0)
      (s.mems.readLoc (locate (eTier (s.entry x)) (eFrame (s.entry x)) 0) pageBytes)
    rw [Mems.length_readLoc] at hread
    rw [hmems, hread]
  · rw [hkeeps.moves.trans hset.moves]
    exact s.unlistMove_moves x

/-- After a copy that has failed in its source the page is there, in state 11. -/
theorem sourceFailed_facts : ∃ t, exec (.pageMoveComplete x .sourceFailed) s = .next t ∧ eState (t.entry x) = 3
    ∧ eTier (t.entry x) = eTier (s.entry x) ∧ t.mems = s.mems ∧ t.frt.poisonPages = wrapAdd 32 s.frt.poisonPages 1 := by
  obtain ⟨t, u, hexec, hfree, hkeeps⟩ := h.exec_sourceFailed
  have hpoison := State.poisonsEntry (hfree.entry_eq x) h.valid h.state
  obtain ⟨-, htier, hstate, -⟩ := setState_fields ((s.unlistMove x).entry x) 3
  have hentry := (hkeeps.entry_eq x).trans hpoison.entry
  refine ⟨t, hexec, by rw [hentry, hstate], by rw [hentry, htier]; rfl, hkeeps.mems.trans (hpoison.mems.trans hfree.mems), ?_⟩
  rw [hkeeps.poisonPages, hpoison.poisonPages, hfree.poisonPages]
  rfl

/-- After a copy that has failed in its destination the page is there, in state 11. -/
theorem destinationFailed_facts : ∃ t, exec (.pageMoveComplete x .destinationFailed) s = .next t ∧ eState (t.entry x) = 3
    ∧ eTier (t.entry x) = m.tier ∧ t.mems = s.mems ∧ t.frt.poisonPages = wrapAdd 32 s.frt.poisonPages 1 := by
  obtain ⟨t, u, hexec, hfree, hkeeps⟩ := h.exec_destinationFailed
  obtain ⟨hvalid, htier, hstate, -⟩ := h.dest_fields
  have hset := u.setsEntry x (s.moveDest x m)
  have hpoison := State.poisonsEntry hset.entry hvalid (by rw [hstate]; decide)
  obtain ⟨-, htier', hstate', -⟩ := setState_fields (s.moveDest x m) 3
  have hentry := (hkeeps.entry_eq x).trans hpoison.entry
  refine ⟨t, hexec, by rw [hentry, hstate'], by rw [hentry, htier', htier],
    hkeeps.mems.trans (hpoison.mems.trans (hset.mems.trans hfree.mems)), ?_⟩
  rw [hkeeps.poisonPages, hpoison.poisonPages, hset.poisonPages, hfree.poisonPages]
  rfl

end State.MoveReady

/-! ### The statement -/

/-- Settles O60: the directory's choices are those of a fold that keeps the best page; a move keeps its source frame until it ends, and
each end is the state that its lemma gives. -/
theorem scrollPages : Obligations.ScrollPages := by
  intro s n hoff q top low
  refine ⟨fun hl ho => ?_, fun hl => State.exec_scrollMigrate_level hoff hl, fun he hl hu hps => ?_,
    fun he => State.exec_scrollPromote_disabled hoff he, fun a r hl hh hs hnext => State.exec_scrollDemote hoff hl hh hs hnext,
    fun x tier f t hq hf => State.beginMove_facts hq hf, fun x m hm hv hmt _ hl hp hs hpool he hwf hstate => ?_⟩
  · exact ⟨State.exec_scrollMigrate_none hoff hl ho rfl, State.exec_scrollMigrate hoff hl ho rfl⟩
  · exact State.exec_scrollPromote hoff he hl hu rfl hps
  · have hready : s.MoveReady x m := ⟨hoff, hm, hv, hmt, hl, hp, hs, hpool, he, hwf, hstate⟩
    exact ⟨hready.done_facts, hready.sourceFailed_facts, hready.destinationFailed_facts⟩

end Sys2Proof.Machine
end
